-- ==== Sys2Proof/Word.lean ====
section
/-!
DEFINITION. The word types of the machine (01 R8, 07 R128, 12 R217).
-/
namespace Sys2Proof

/-- A byte of any level of memory (00 R5). -/
abbrev Byte := BitVec 8
/-- A vector register's value (01 R8). -/
abbrev Word := BitVec 32
/-- A scalar register's value, and a program word (01 R8, 02 R24). -/
abbrev DWord := BitVec 64
/-- A task key (12 R217). -/
abbrev Key := BitVec 128
/-- A set of lanes: bit l is lane l (07 R128). -/
abbrev LaneSet := BitVec 1024

end Sys2Proof
end

