-- ==== Sys2Proof/Syntax.lean ====
section
/-!
DEFINITION. The instructions (02 R40, the Chart's and the service's commands of 22 R348, and the device's own steps), one
constructor for each row of the opcode table.
-/
namespace Sys2Proof

/-- Rounding of an instruction (02 R36): a mode of 04 R75, or `dyn` (RND 111), which takes %tctl.RM. -/
inductive Rnd | rne | rna | rtz | rup | rdn | dyn
  deriving DecidableEq, Repr

/-- The TYPE field of the integer vector class (02 R36). -/
inductive ITy | s32 | n32 | s16 | n16 | s8 | n8 | s64 | n64
  deriving DecidableEq, Repr

/-- The TYPE field of the floating-point class (02 R36). -/
inductive FTy | f32 | f16 | bf16
  deriving DecidableEq, Repr

/-- Format codes (04 R61), 1111 apart. -/
inductive Fmt | s32 | n32 | s16 | n16 | s8 | n8 | s64 | n64 | f32 | f16 | bf16 | e4m3 | e5m2 | i4 | q4
  deriving DecidableEq, Repr

/-- Source B (02 R27). -/
inductive SrcB
  | vec (r : BitVec 8)
  | scl (r : BitVec 6)
  | imm8 (v : BitVec 8)
  | imm32 (v : Word)
  deriving DecidableEq, Repr

/-- STALL and the lane guard of a base word (02 R24, R30). -/
structure Head where
  stall : BitVec 4
  neg   : Bool
  pred  : BitVec 6
  deriving DecidableEq, Repr

/-- The fields of an integer vector instruction (05 R87, R88). A field the instruction does not use is 0 (`.vec 0` for B). -/
structure VInt where
  h   : Head
  ty  : ITy
  sat : Bool
  sub : BitVec 3
  d   : BitVec 8
  a   : BitVec 8
  b   : SrcB
  c   : BitVec 8
  deriving DecidableEq, Repr

/-- The fields of a floating-point instruction (06 R113, R114). -/
structure VFlt where
  h   : Head
  ty  : FTy
  rnd : Rnd
  sub : BitVec 2
  d   : BitVec 8
  a   : BitVec 8
  b   : SrcB
  c   : BitVec 8
  deriving DecidableEq, Repr

/-- The fields of a conversion instruction (06 R121). -/
structure VCvt where
  h   : Head
  fmt : Fmt
  rnd : Rnd
  d   : BitVec 8
  a   : BitVec 8
  b   : SrcB
  c   : BitVec 8
  deriving DecidableEq, Repr

/-- The fields of a scalar ALU instruction (05 R94). -/
structure SOp where
  stall : BitVec 4
  sub   : BitVec 3
  d     : BitVec 6
  a     : BitVec 6
  b     : SrcB
  c     : BitVec 6
  deriving DecidableEq, Repr

/-- The fields of vbcast (05 R97). -/
structure VBcast where
  h  : Head
  hi : Bool
  d  : BitVec 8
  b  : SrcB
  deriving DecidableEq, Repr

/-- Conditions of brc (05 R100). -/
inductive BrCond | any | all | none | snz
  deriving DecidableEq, Repr

/-- A condition of a structured instruction (07 R132): the predicate and NEG. -/
structure Cond where
  p   : BitVec 6
  neg : Bool
  deriving DecidableEq, Repr

/-- The fields of a cross-lane instruction (07 R136, R137). -/
structure XLane where
  h   : Head
  sub : BitVec 3
  seg : BitVec 4
  d   : BitVec 8
  a   : BitVec 8
  b   : SrcB
  c   : BitVec 8
  deriving DecidableEq, Repr

/-- Access sizes (02 R36). -/
inductive Size | b8 | b16 | b32 | b64 | b128
  deriving DecidableEq, Repr

/-- The offset of a memory access (05 R103): FORM 00 counts in units of the size, FORM 01 in bytes. -/
inductive Off
  | short (v : BitVec 8)
  | long (v : Word)
  deriving DecidableEq, Repr

/-- The fields of a window, spill or die access (05 R103, 10 R185). `r` is DST: the destination of a load, the data
register of a store. -/
structure MemOp where
  h    : Head
  size : Size
  hofs : Bool
  sx   : Bool
  r    : BitVec 8
  a    : BitVec 8
  off  : Off
  hdl  : BitVec 5
  deriving DecidableEq, Repr

/-- In-flight load paths (01 R22). -/
inductive Path | loc | die | spill
  deriving DecidableEq, Repr

/-- Scopes of atomics and fences (13 R238, 11 R213). -/
inductive Scope | t | g | d
  deriving DecidableEq, Repr

/-- The fields of an atomic or reduction (13 R239). `off` is the FORM 01 offset, `none` under FORM 00. -/
structure AtomOp where
  h     : Head
  op    : BitVec 4
  scope : Scope
  d     : BitVec 8
  a     : BitVec 8
  b     : SrcB
  c     : BitVec 8
  off   : Option Word
  deriving DecidableEq, Repr

/-- The event that a gpark names (12 R234). -/
inductive ParkOn
  | hstate (h : BitVec 5) (smask : BitVec 4)
  | qne (q : BitVec 4)
  | timer (cycles : Word)
  | signal (s : BitVec 6) (cmp : Word)
  deriving DecidableEq, Repr

/-- Reduction operators of engine writes (16 R264). -/
inductive Rop | st | add | min | max
  deriving DecidableEq, Repr

/-- The B operand of mma and mmas (17 R283). -/
inductive MatB
  | handle (h : BitVec 5) (vo : BitVec 8)
  | tile (h : BitVec 5) (rec : BitVec 16) (st : BitVec 6)
  deriving DecidableEq, Repr

/-- The fields of mma and mmas (17 R283). -/
structure MmaOp where
  h     : Head
  reuse : Bool
  tile  : BitVec 4
  a     : BitVec 8
  b     : MatB
  f     : BitVec 8
  deriving DecidableEq, Repr

/-- Conversions of mread and mstore (17 R283). -/
inductive Cv | f32 | bf16 | s32 | raw | fw
  deriving DecidableEq, Repr

/-- Integer vector opcodes (02 R40). -/
inductive IntOpc
  | iadd | isub | imul | imulh | imad | iadd64 | isub64 | imin | imax | iabs | ineg | iaddsat | isubsat
  | and | or | xor | not | andn | shl | shr | sar | rol | bfx | bfi | popc | clz | ctz | brev | sel | icmp
  | clamp | idot4 | idot8 | srshr
  deriving DecidableEq, Repr

/-- Floating-point opcodes (02 R40), pchk apart. -/
inductive FltOpc
  | fadd | fsub | fmul | ffma | fmin | fmax | fabs | fneg | fcmp | fclass | hadd2 | hmul2 | hfma2
  | frcp | frsq | fsqrt | fexp2 | flog2 | fsin | fcos | ftanh | pchk
  deriving DecidableEq, Repr

/-- Conversion opcodes. -/
inductive CvtOpc | cvt | qpack4 | qunpack4 | scalepick | cvt8x4 | cvtq
  deriving DecidableEq, Repr

/-- Scalar ALU opcodes, sli and the moves apart. -/
inductive SclOpc
  | sadd | ssub | smul | smad | sand | sor | sxor | sshl | sshr | ssar | smin | smax | scmp | smov
  deriving DecidableEq, Repr

/-- Cross-lane opcodes. -/
inductive XOpc | shfl | ballot | vote | popm | scan | reduce | matchOp | elect | lmask
  deriving DecidableEq, Repr

/-- Memory opcodes. -/
inductive MemOpc | ldl | stl | lds | sts | ldd | std
  deriving DecidableEq, Repr

/-- Atomic opcodes. -/
inductive AtomOpc | atom | atomf | red | redf
  deriving DecidableEq, Repr

/-- One operation of a pair (02 R37): the pairable opcodes. -/
inductive PairHalf
  | int (op : IntOpc) (o : VInt)
  | flt (op : FltOpc) (o : VFlt)
  | smov (o : SOp)
  | vbcast (o : VBcast)
  deriving DecidableEq, Repr

/-- Header of a host command (22 R346), with the session it arrives on. `rsv` holds the reserved bytes, `status` the STATUS
field, `len` the body's length. -/
structure CmdHead where
  session : Nat
  tag     : BitVec 64
  rsv     : BitVec 136
  status  : BitVec 16
  len     : BitVec 32
  deriving DecidableEq, Repr

/-- Operands of LAUNCH (22 R350). -/
structure LaunchOps where
  image  : Nat
  chart  : Nat
  args   : List Byte
  budget : Nat
  dies   : BitVec 8
  dsize  : Nat
  nc     : Nat
  load   : Option Nat
  save   : Option Nat
  preds  : List Nat
  deriving DecidableEq, Repr

/-- The operands that LAUNCHX adds (22 R350). -/
structure LaunchXOps where
  bkpt   : BitVec 16
  sample : Nat
  cont   : Option Nat
  deriving DecidableEq, Repr

/-- Operands of MAP (22 R348, R368): rights 1 = R, 2 = W; the size in bytes. -/
structure MapOps where
  va    : Nat
  len   : Nat
  size  : Nat
  r     : Bool
  w     : Bool
  home  : Nat
  peers : List (BitVec 48)
  rsv   : Bool
  deriving DecidableEq, Repr

/-- A register's copy in a checkpoint (11 R199). -/
inductive CkptCopy
  | v (lane r : Nat)
  | p (lane r : Nat)
  | s (r : Nat)
  deriving DecidableEq, Repr

/-- The bits of a copy's value. -/
def CkptCopy.bits : CkptCopy → Nat
  | .v _ _ => 32
  | .p _ _ => 1
  | .s _ => 64

/-- What stands in a word in which an ECC finding is made (10 R181). -/
inductive EccPlace
  | window (g : Nat) (word : Nat)
  | handle (g : Nat) (word : Nat)
  | spill (g : Nat) (t : Nat) (word : Nat)
  | region (l : Nat) (word : Nat)
  /-- a word of a granule of a team's buffer (t names the team) or of the commit area: the entry's position, and the word -/
  | buffer (g : Nat) (t : Nat) (entry word : Nat)
  | area (g : Nat) (entry word : Nat)
  /-- a word of a team's checkpoint, by the copies that it holds a part of (11 R199) -/
  | ckpt (g t : Nat) (copies : List CkptCopy)
  /-- a word that holds no state of a group or launch -/
  | idle
  /-- a word of main memory, by its address (10 R193) -/
  | dram (a : Nat)
  deriving DecidableEq, Repr

/-- The areas of a core's scratchpad that begin at a multiple of 1 KiB and hold their words in the order of their addresses (10 R177). -/
inductive EccArea
  | window (g : Nat)
  | handle (g : Nat)
  | spill (g t : Nat)
  | region (l : Nat)
  deriving DecidableEq, Repr

/-- The area of a place and the word's number in it. -/
def EccPlace.area? : EccPlace → Option (EccArea × Nat)
  | .window g w => some (.window g, w)
  | .handle g w => some (.handle g, w)
  | .spill g t w => some (.spill g t, w)
  | .region l w => some (.region l, w)
  | _ => none

/-- A word that an ECC finding names: what stands in it, and its offset in the core's scratchpad (10 R181). -/
structure EccWord where
  place : EccPlace
  ofs   : Nat
  deriving DecidableEq, Repr

/-- What the peer answers to an XFER (22 R353): it refuses; its own end meets a fault at an address, what it sent before with it; or it
takes or sends the bytes. -/
inductive PeerEnd
  | refuses
  | faults (va : Nat) (data : List Byte)
  | takes (data : List Byte)
  deriving DecidableEq, Repr

/-- The instructions: one constructor for each row of spec/opcode_table.json. Operands named `g`, `t`, `l` are the model's
names of a group, a team of it and a launch. -/
inductive Instr
  -- integer vector (05 R88)
  | iadd (o : VInt) | isub (o : VInt) | imul (o : VInt) | imulh (o : VInt) | imad (o : VInt)
  | iadd64 (o : VInt) | isub64 (o : VInt) | imin (o : VInt) | imax (o : VInt) | iabs (o : VInt)
  | ineg (o : VInt) | iaddsat (o : VInt) | isubsat (o : VInt) | and (o : VInt) | or (o : VInt)
  | xor (o : VInt) | not (o : VInt) | andn (o : VInt) | shl (o : VInt) | shr (o : VInt)
  | sar (o : VInt) | rol (o : VInt) | bfx (o : VInt) | bfi (o : VInt) | popc (o : VInt)
  | clz (o : VInt) | ctz (o : VInt) | brev (o : VInt) | sel (o : VInt) | icmp (o : VInt)
  | clamp (o : VInt) | idot4 (o : VInt) | idot8 (o : VInt) | srshr (o : VInt)
  -- floating point (06 R114)
  | fadd (o : VFlt) | fsub (o : VFlt) | fmul (o : VFlt) | ffma (o : VFlt) | fmin (o : VFlt)
  | fmax (o : VFlt) | fabs (o : VFlt) | fneg (o : VFlt) | fcmp (o : VFlt) | fclass (o : VFlt)
  | hadd2 (o : VFlt) | hmul2 (o : VFlt) | hfma2 (o : VFlt) | frcp (o : VFlt) | frsq (o : VFlt)
  | fsqrt (o : VFlt) | fexp2 (o : VFlt) | flog2 (o : VFlt) | fsin (o : VFlt) | fcos (o : VFlt)
  | ftanh (o : VFlt) | pchk (o : VFlt)
  -- conversion (06 R122 to R124)
  | cvt (o : VCvt) | qpack4 (o : VCvt) | qunpack4 (o : VCvt) | scalepick (o : VCvt) | cvt8x4 (o : VCvt) | cvtq (o : VCvt)
  -- scalar (05 R94 to R97)
  | sadd (o : SOp) | ssub (o : SOp) | smul (o : SOp) | smad (o : SOp) | sand (o : SOp) | sor (o : SOp)
  | sxor (o : SOp) | sshl (o : SOp) | sshr (o : SOp) | ssar (o : SOp) | smin (o : SOp) | smax (o : SOp)
  | scmp (o : SOp) | smov (o : SOp)
  | sli (stall : BitVec 4) (sub : BitVec 2) (d : BitVec 6) (imm : Word)
  | sget (stall : BitVec 4) (d : BitVec 8) (sel : BitVec 8)
  | sset (stall : BitVec 4) (sel : BitVec 8) (b : SrcB)
  | vbcast (o : VBcast)
  | vlane (stall : BitVec 4) (sx : Bool) (d : BitVec 6) (a : BitVec 8) (b : SrcB)
  -- control (05 R99)
  | bra (stall : BitVec 4) (imm : Word)
  | brc (stall : BitVec 4) (cond : BrCond) (x : BitVec 6) (imm : Word)
  | call (stall : BitVec 4) (imm : Word)
  | ret (stall : BitVec 4)
  | exit (stall : BitVec 4)
  | nop (stall : BitVec 4)
  -- structured divergence (07 R132)
  | ifOp (stall : BitVec 4) (c : Cond) (imm : Word)
  | elseOp (stall : BitVec 4) (imm : Word)
  | endif (stall : BitVec 4)
  | loop (stall : BitVec 4) (imm : Word)
  | breakOp (stall : BitVec 4) (c : Cond) (imm : Word)
  | cont (stall : BitVec 4) (c : Cond) (imm : Word)
  | endloop (stall : BitVec 4) (c : Cond) (imm : Word)
  | yield (stall : BitVec 4)
  -- cross-lane (07 R137)
  | shfl (o : XLane) | ballot (o : XLane) | vote (o : XLane) | popm (o : XLane) | scan (o : XLane)
  | reduce (o : XLane) | matchOp (o : XLane) | elect (o : XLane) | lmask (o : XLane)
  -- window, spill and die memory (05 R103, 10 R185)
  | ldl (o : MemOp) | stl (o : MemOp) | lds (o : MemOp) | sts (o : MemOp) | ldd (o : MemOp) | std (o : MemOp)
  | waitp (stall : BitVec 4) (path : Path) (b : SrcB)
  -- atomics and reductions (13 R239)
  | atom (o : AtomOp) | atomf (o : AtomOp) | red (o : AtomOp) | redf (o : AtomOp)
  -- commit and fences (11 R201)
  | tcommit (stall : BitVec 4)
  | tcommitCk (stall : BitVec 4) (b : SrcB)
  | tabort (stall : BitVec 4)
  | gcommit (stall : BitVec 4)
  | gabort (stall : BitVec 4)
  | fence (h : Head) (scope : Scope)
  | xfence (stall : BitVec 4) (hdl : BitVec 5)
  -- tasks (12 R221, R234)
  | spawn (h : Head) (a t : BitVec 8) (node : BitVec 4) (len : BitVec 4)
  | gpark (stall : BitVec 4) (on : ParkOn) (live : BitVec 9)
  -- barriers and queues (08 R166, R170)
  | bar (stall : BitVec 4) (b : BitVec 3)
  | bara (stall : BitVec 4) (b : BitVec 3)
  | barw (stall : BitVec 4) (b : BitVec 3)
  | qpush (stall : BitVec 4) (q : BitVec 4) (b : SrcB)
  | qpop (stall : BitVec 4) (d : BitVec 6) (q : BitVec 4)
  | qtryPop (stall : BitVec 4) (d f : BitVec 6) (q : BitVec 4)
  | qtryPush (stall : BitVec 4) (f : BitVec 6) (q : BitVec 4) (b : SrcB)
  -- engines, handles and records (16 R264)
  | cpin (stall : BitVec 4) (hdl : BitVec 5) (rec : BitVec 16) (b : SrcB)
  | cpout (stall : BitVec 4) (rop : Rop) (hdl : BitVec 5) (rec : BitVec 16) (b : SrcB)
  | gather (h : Head) (hdl : BitVec 5) (rec : BitVec 16) (v : BitVec 8)
  | scatter (h : Head) (hdl : BitVec 5) (rec : BitVec 16) (v : BitVec 8)
  | hwait (stall : BitVec 4) (hdl : BitVec 5) (smask : BitVec 4)
  | hrel (stall : BitVec 4) (hdl : BitVec 5)
  | hstatSt (stall : BitVec 4) (d : BitVec 6) (hdl : BitVec 5)
  | hstatTag (stall : BitVec 4) (d : BitVec 6) (hdl : BitVec 5)
  | lrset (stall : BitVec 4) (sr : BitVec 6) (b : SrcB)
  | lfence (stall : BitVec 4)
  -- matrix (17 R283)
  | mma (o : MmaOp)
  | mmas (o : MmaOp) (vm : BitVec 8) (sm : BitVec 6)
  | mzero (h : Head) (tile : BitVec 4) (anchor : Option (BitVec 8))
  | mload (h : Head) (tile : BitVec 4) (vs : BitVec 8) (g : BitVec 2) (anchor : BitVec 8)
  | mread (h : Head) (d : BitVec 8) (tile : BitVec 4) (cv : Cv) (g : BitVec 2)
  | mstore (h : Head) (a : BitVec 8) (off : BitVec 8) (tile : BitVec 4) (cv : Cv) (g : BitVec 2)
  | mburst (stall : BitVec 4) (b : SrcB)
  | mstepGet (stall : BitVec 4) (d : BitVec 6)
  | mstepSet (stall : BitVec 4) (b : SrcB)
  -- system (05 R110, 07 R140, 20 R315, 22 R358)
  | trap (stall : BitVec 4) (n : BitVec 4)
  | tretAfter (stall : BitVec 4)
  | tretRetry (stall : BitVec 4)
  | cycle (stall : BitVec 4) (d : BitVec 6)
  | chkset (stall : BitVec 4) (n : Bool)
  | vgrow (stall : BitVec 4) (b : SrcB)
  | vshrink (stall : BitVec 4) (b : SrcB)
  | featq (stall : BitVec 4) (d : BitVec 6) (b : SrcB)
  | bkpt (stall : BitVec 4) (n : BitVec 4)
  -- paired issue (02 R37, R38)
  | pairedIssue (x y : PairHalf)
  -- steps of the device: teams
  | resultReady (g t : Nat)
  | loadReturn (g t : Nat) (path : Path) (lanes : LaneSet)
  | atomicReturn (g t : Nat)
  | deferredTrapDelivery (g t : Nat)
  | deadlockDetect (g : Nat)
  | teamPromotion (g t : Nat)
  | yieldExpiry (g t : Nat)
  | vgrowGrant (g t : Nat)
  -- steps of the device: the cut and distribution
  | bandForm (l : Nat)
  | recut (l : Nat)
  | sextantForward (l die : Nat)
  | shareDraw (l die core : Nat)
  | localListReturn (l die core : Nat)
  | shareCountExchange (l die : Nat)
  | stealRequest (l die : Nat)
  | stealServe (l die : Nat)
  | stealReply (l die : Nat)
  | groupDispatch (die core : Nat)
  | preloadComplete (g : Nat)
  | preloadFault (g : Nat)
  | postloadCheckDone (g : Nat)
  | groupCommit (g : Nat)
  | binTimerExpiry (l die node : Nat) (ts : DWord)
  | frontierReport (l die : Nat)
  | frontierUpdate (l : Nat)
  | gparkTimerExpiry (g : Nat)
  | continuationResume (g : Nat)
  -- steps of the device: engines
  | copyAccept (g t : Nat)
  | publish (g : Nat) (hdl : BitVec 5)
  | fillFault (g : Nat) (hdl : BitVec 5)
  | drainCheckDone (g : Nat) (hdl : BitVec 5)
  | drainCheckFault (g : Nat) (hdl : BitVec 5)
  | drainWriteDone (g : Nat) (hdl : BitVec 5)
  | operandPrefetch (g t k : Nat)
  | translationMiss (l die core va : Nat)
  -- steps of the device: pre-emption and budgets
  | preempt (g : Nat)
  | preemptGraceExpiry (g : Nat)
  | groupResume (die core : Nat)
  | budgetExpiry (l : Nat)
  | coreReset (die core : Nat)
  | coreResetEnd (die core : Nat)
  | scrub (die core : Nat) (word : EccWord) (double : Bool)
  -- steps of the device: the network and the islands
  | packetDelivery (id : Nat)
  | drainPoint
  | drainPhaseEnd
  | routerPowerDown (die core : Nat)
  | routerWake (die core : Nat)
  | islandControlTick (watts : Nat) (temps : List (Nat × Nat))
  | islandPointChangeDone (slot : Nat)
  | retainWake (island : Nat)
  | matrixRampIdle (slot : Nat)
  | mburstHoldExpiry (g t : Nat)
  | sampleTick (l die : Nat) (pick : Nat)
  | moduleReset
  | unsupportedPacket (port : Nat)
  -- steps of the service: launches
  | launchDispatchStart (l : Nat)
  | regionImageSave (l : Nat)
  | launchComplete (l : Nat)
  -- host commands (22 R348)
  | query (h : CmdHead)
  | map (h : CmdHead) (o : MapOps)
  | unmap (h : CmdHead) (va len : Nat)
  | load (h : CmdHead) (va size : Nat) (reqsig : Bool) (digest : List Byte)
  | unload (h : CmdHead) (image : Nat)
  | launch (h : CmdHead) (o : LaunchOps)
  | launchx (h : CmdHead) (o : LaunchOps) (x : LaunchXOps)
  | wait (h : CmdHead) (id timeout : Nat)
  | cancel (h : CmdHead) (id : Nat)
  | cancelKeep (h : CmdHead) (id : Nat)
  | copyPut (h : CmdHead) (va : Nat) (data : List Byte) (preds : List Nat)
  | copyGet (h : CmdHead) (va len : Nat) (preds : List Nat)
  | copyXfer (h : CmdHead) (out : Bool) (peer : BitVec 48) (va peerVa len : Nat) (preds : List Nat)
  | attest (h : CmdHead) (nonce : List Byte)
  | log (h : CmdHead) (sel start count : Nat)
  | islandRead (h : CmdHead)
  | islandSet (h : CmdHead) (limit : Option Nat) (caps : List (Nat × Nat))
  -- the rest of the table
  | unassignedOpcode (w : DWord)
  | unassignedCommand (h : CmdHead) (cmd : BitVec 8)
  | waitTimeout (id : Nat)
  | copyCompletion (id : Nat) (peer : Option PeerEnd)
  | peerXferRequest (peer : BitVec 48) (put : Bool) (va len : Nat) (data : List Byte)
  | retainEntry (island : Nat)
  deriving DecidableEq, Repr

end Sys2Proof
end

