-- ==== Sys2Proof/WellFormed.lean ====
section
/-!
DEFINITION. Which instructions are well formed: the field checks of 02 R41, step 8, that depend on the words alone, and the
pair conditions of 02 R37. The checks that depend on the team (its register count, the Chart's handles, tiles and width) stand
in Machine/Fields.lean.
-/
namespace Sys2Proof

/-- A register named by an instruction (02 R25). -/
inductive RegName
  | v (r : Nat)
  | p (r : Nat)
  | s (r : Nat)
  deriving DecidableEq, Repr

/-- PRED, or a predicate operand: p0 to p47, or 63 for pT (02 R24, R25). -/
def predOk (p : BitVec 6) : Bool := decide (p.toNat < 48) || p == 63#6

/-- An 8-bit field that names a predicate (02 R25). -/
def predField (f : BitVec 8) : Bool := predOk (f.setWidth 6) && decide (f.toNat < 64)

/-- Width of an integer type (04 R62). -/
def ITy.width : ITy → Nat
  | .s32 | .n32 => 32
  | .s16 | .n16 => 16
  | .s8 | .n8 => 8
  | .s64 | .n64 => 64

/-- Whether the type is an s type. -/
def ITy.signed : ITy → Bool
  | .s32 | .s16 | .s8 | .s64 => true
  | .n32 | .n16 | .n8 | .n64 => false

/-- The 64-bit types (02 R29). -/
def ITy.wide : ITy → Bool
  | .s64 | .n64 => true
  | _ => false

/-- An even register number (02 R29). -/
def even8 (r : BitVec 8) : Bool := !r.getLsbD 0

/-- Source B a scalar or an imm8. -/
def SrcB.sclImm8 : SrcB → Bool
  | .scl _ | .imm8 _ => true
  | _ => false

/-- Source B a vector, a scalar or an imm8. -/
def SrcB.notImm32 : SrcB → Bool
  | .imm32 _ => false
  | _ => true

/-- Source B of the scalar class: no vector (02 R27). -/
def SrcB.notVec : SrcB → Bool
  | .vec _ => false
  | _ => true

/-- An even pair where B is a vector. -/
def SrcB.evenPair : SrcB → Bool
  | .vec r => even8 r
  | _ => true

/-- What an integer vector opcode reads beside a (05 R88). -/
inductive Arity | unary | binary | ternary | selOp | cmpOp
  deriving DecidableEq, Repr

/-- The Operands column of 05 R88. -/
def IntOpc.arity : IntOpc → Arity
  | .iabs | .ineg | .not | .popc | .clz | .ctz | .brev => .unary
  | .imad | .bfi | .clamp | .idot4 | .idot8 => .ternary
  | .sel => .selOp
  | .icmp => .cmpOp
  | _ => .binary

/-- The TYPE column of 05 R88. -/
def IntOpc.tyOk (op : IntOpc) (ty : ITy) : Bool :=
  match op with
  | .iadd64 | .isub64 => ty.wide
  | .imin | .imax | .and | .or | .xor | .not | .andn | .shl | .shr | .sar | .rol | .sel | .icmp => true
  | .iabs => ty.signed && !ty.wide
  | .idot4 | .idot8 => ty == .s32
  | _ => !ty.wide

/-- The SAT column of 05 R88. -/
def IntOpc.satOk : IntOpc → Bool
  | .iadd | .isub | .imul | .imad | .iadd64 | .isub64 | .iabs | .ineg | .shl | .idot4 | .idot8 | .srshr => true
  | _ => false

/-- The SUB values of 05 R91, R92 and R87. -/
def IntOpc.subOk (op : IntOpc) (ty : ITy) (sub : BitVec 3) : Bool :=
  match op with
  | .icmp => decide (sub.toNat ≤ 5)
  | .clamp => sub == 0#3 || (sub == 1#3 && ty.signed)
  | .idot4 => decide (sub.toNat ≤ 3)
  | _ => sub == 0#3

/-- Whether B of the opcode is a shift count, one register whatever the TYPE (05 R89). -/
def IntOpc.countB : IntOpc → Bool
  | .shl | .shr | .sar | .rol => true
  | _ => false

/-- Pair registers of the 64-bit types (02 R29). -/
def IntOpc.pairsOk (op : IntOpc) (o : VInt) : Bool :=
  !o.ty.wide || ((op == .icmp || even8 o.d) && even8 o.a && (op.countB || o.b.evenPair))

/-- The field checks of an integer vector instruction (05 R87, R88). -/
def VInt.wf (op : IntOpc) (o : VInt) : Bool :=
  predOk o.h.pred && op.tyOk o.ty && (!o.sat || op.satOk) && op.subOk o.ty o.sub && op.pairsOk o &&
  (match op.arity with
   | .unary => o.b == .vec 0#8 && o.c == 0#8
   | .binary => o.c == 0#8
   | .ternary => op != .clamp || o.sub == 0#3 || o.c == 0#8
   | .selOp => predField o.c
   | .cmpOp => o.c == 0#8 && predField o.d)

/-- Whether a floating-point opcode reads source B. -/
def FltOpc.readsB : FltOpc → Bool
  | .fadd | .fsub | .fmul | .ffma | .fmin | .fmax | .fcmp | .hadd2 | .hmul2 | .hfma2 => true
  | _ => false

/-- Whether a floating-point opcode reads source C. -/
def FltOpc.readsC : FltOpc → Bool
  | .ffma | .hfma2 => true
  | _ => false

/-- The packed forms. -/
def FltOpc.packed : FltOpc → Bool
  | .hadd2 | .hmul2 | .hfma2 => true
  | _ => false

/-- The TYPE column of 06 R114. -/
def FltOpc.tyOk (op : FltOpc) (ty : FTy) : Bool :=
  match op with
  | .hadd2 | .hmul2 | .hfma2 => ty != .f32
  | .frcp | .frsq | .fsqrt | .fexp2 | .flog2 | .fsin | .fcos | .ftanh | .pchk => ty == .f32
  | _ => true

/-- Whether the opcode takes a rounding mode (06 R113, R118). -/
def FltOpc.rounds : FltOpc → Bool
  | .fadd | .fsub | .fmul | .ffma | .hadd2 | .hmul2 | .hfma2 | .frcp | .fsqrt => true
  | _ => false

/-- The field checks of a floating-point instruction (06 R113 to R119, 02 R28). -/
def VFlt.wf (op : FltOpc) (o : VFlt) : Bool :=
  predOk o.h.pred && op.tyOk o.ty && (op.rounds || o.rnd == .dyn) &&
  (op.readsC || o.c == 0#8) &&
  (if op.readsB then
     match o.b with
     | .imm32 v => op.packed || o.ty == .f32 || decide (v.toNat < 65536)
     | _ => true
   else o.b == .vec 0#8) &&
  (match op with
   | .fcmp => predField o.d
   | .pchk => predField o.d && (o.sub == 0#2 || (o.sub == 1#2 && predField o.a) || (o.sub == 2#2 && decide (o.a.toNat < 64)))
   | _ => o.sub == 0#2)

/-- The code of a format (04 R61). -/
def Fmt.code : Fmt → BitVec 4
  | .s32 => 0 | .n32 => 1 | .s16 => 2 | .n16 => 3 | .s8 => 4 | .n8 => 5 | .s64 => 6 | .n64 => 7
  | .f32 => 8 | .f16 => 9 | .bf16 => 10 | .e4m3 => 11 | .e5m2 => 12 | .i4 => 13 | .q4 => 14

/-- The format of a code; 1111 is RESERVED_FIELD (04 R61). -/
def Fmt.ofCode (c : BitVec 4) : Option Fmt :=
  match c.toNat with
  | 0 => some .s32 | 1 => some .n32 | 2 => some .s16 | 3 => some .n16 | 4 => some .s8 | 5 => some .n8
  | 6 => some .s64 | 7 => some .n64 | 8 => some .f32 | 9 => some .f16 | 10 => some .bf16 | 11 => some .e4m3
  | 12 => some .e5m2 | 13 => some .i4 | 14 => some .q4
  | _ => none

/-- 64-bit formats (04 R61). -/
def Fmt.wide : Fmt → Bool
  | .s64 | .n64 => true
  | _ => false

/-- The source format that SRCC names (06 R121). -/
def VCvt.src (o : VCvt) : Option Fmt := if o.c.toNat < 16 then Fmt.ofCode (o.c.setWidth 4) else none

/-- The field checks of a conversion instruction (06 R121 to R124). -/
def VCvt.wf (op : CvtOpc) (o : VCvt) : Bool :=
  predOk o.h.pred &&
  (match op with
   | .cvt =>
     o.b == .vec 0#8 && o.fmt != .q4 && (!o.fmt.wide || even8 o.d) &&
     (match o.src with
      | some f => f != .q4 && (!f.wide || even8 o.a)
      | none => false)
   | .qpack4 => o.b.notImm32 && o.fmt == .q4 && o.c == 0#8
   | .qunpack4 => o.b.notImm32 && o.fmt == .f32 && o.c == 0#8 && o.rnd == .dyn
   | .scalepick => o.b == .vec 0#8 && o.fmt == .q4 && o.rnd == .dyn && decide (o.c.toNat < 4)
   | .cvt8x4 =>
     o.b == .vec 0#8 && (o.c == 8#8 || o.c == 0#8) &&
     (o.fmt == .e4m3 || o.fmt == .e5m2 || o.fmt == .s8 || o.fmt == .n8)
   | .cvtq =>
     o.b == .vec 0#8 && o.rnd == .dyn &&
     (((o.c == 11#8 || o.c == 12#8) && o.fmt == .f32) || ((o.c == 4#8 || o.c == 5#8) && (o.fmt == .f32 || o.fmt == .s32))))

/-- The field checks of a scalar ALU instruction (05 R94). -/
def SOp.wf (op : SclOpc) (o : SOp) : Bool :=
  o.b.notVec && (op == .smad || o.c == 0#6) && (op != .smov || o.a == 0#6) &&
  (match op with
   | .ssar | .smin | .smax => decide (o.sub.toNat ≤ 1)
   | .scmp => decide (o.sub.toNat ≤ 5)
   | _ => o.sub == 0#3)

/-- Scope of a special register (01 R14). -/
inductive SelScope | lane | team | wide
  deriving DecidableEq, Repr

/-- The selector table of 01 R14; `none` for an unlisted selector. -/
def selScope (sel : BitVec 8) : Option SelScope :=
  match sel.toNat with
  | 0x00 | 0x08 | 0x09 | 0x0A | 0x0B | 0x31 => some .lane
  | 0x19 | 0x1B => some .wide
  | 0x01 | 0x02 | 0x03 | 0x04 | 0x0C | 0x0D | 0x0E | 0x0F | 0x10 | 0x11 | 0x12 | 0x13 | 0x14 | 0x15 | 0x16 | 0x17
  | 0x18 | 0x1A | 0x1C | 0x20 | 0x21 | 0x22 | 0x23 | 0x28 | 0x29 | 0x2A | 0x30 | 0x32 | 0x33 => some .team
  | _ => none

/-- The selector and destination checks of sget (01 R14, 05 R96). -/
def sgetOk (sel d : BitVec 8) : Bool :=
  match selScope sel with
  | some .lane => true
  | some .team => decide (d.toNat < 64)
  | some .wide => decide (d.toNat < 64) && even8 d
  | none => false

/-- The selectors that sset may write (01 R14). -/
def ssetOk (sel : BitVec 8) : Bool := sel == 0x28#8 || sel == 0x29#8

/-- The field checks of a cross-lane instruction that do not depend on the width (07 R136, R137). -/
def XLane.wf (op : XOpc) (o : XLane) : Bool :=
  predOk o.h.pred && decide (o.seg.toNat ≤ 10) &&
  (match op with
   | .shfl => decide (o.sub.toNat ≤ 3) && o.c == 0#8
   | .ballot =>
     o.seg == 0#4 && predField o.a && o.c == 0#8 && ((o.sub == 0#3 && o.b == .vec 0#8) || (o.sub == 1#3 && o.b.notImm32))
   | .vote => decide (o.sub.toNat ≤ 2) && predField o.d && predField o.a && o.b == .vec 0#8 && o.c == 0#8
   | .popm => decide (o.sub.toNat ≤ 1) && predField o.a && o.b == .vec 0#8 && o.c == 0#8
   | .scan | .reduce =>
     (match o.b with
      | .vec k => decide ((k.setWidth 3).toNat ≤ 2) && decide (k.toNat < 16) &&
                  (if k.getLsbD 3 then predField o.c else o.c == 0#8) &&
                  (decide (o.sub.toNat ≤ 2) || (decide (o.sub.toNat ≤ 5) && (k.setWidth 3) != 2#3))
      | _ => false)
   | .matchOp => (o.sub == 0#3 || (o.sub == 1#3 && predField o.d)) && o.b == .vec 0#8 && o.c == 0#8
   | .elect => o.sub == 0#3 && predField o.d && o.a == 0#8 && o.b == .vec 0#8 && o.c == 0#8
   | .lmask => decide (o.sub.toNat ≤ 5) && o.seg == 0#4 && o.a == 0#8 && o.b == .vec 0#8 && o.c == 0#8)

/-- Access size in bytes. -/
def Size.bytes : Size → Nat
  | .b8 => 1 | .b16 => 2 | .b32 => 4 | .b64 => 8 | .b128 => 16

/-- Registers of an access (02 R29). -/
def Size.regs : Size → Nat
  | .b64 => 2 | .b128 => 4 | _ => 1

/-- Whether the opcode loads. -/
def MemOpc.loads : MemOpc → Bool
  | .ldl | .lds | .ldd => true
  | _ => false

/-- The field checks of a memory access (05 R103, 10 R185, 02 R29). -/
def MemOp.wf (op : MemOpc) (o : MemOp) : Bool :=
  predOk o.h.pred && (!o.hofs || op == .ldl || op == .stl) && (o.hofs || o.hdl == 0#5) &&
  (!o.sx || (op.loads && (o.size == .b8 || o.size == .b16))) &&
  decide (o.r.toNat % o.size.regs = 0)

/-- The field checks of an atomic or reduction (13 R239, R240). -/
def AtomOp.wf (op : AtomOpc) (o : AtomOp) : Bool :=
  predOk o.h.pred && o.b.notImm32 &&
  (match op with
   | .atom => decide (o.op.toNat ≤ 10) && (o.op == 9#4 || o.c == 0#8)
   | .atomf => decide (o.op.toNat ≤ 2) && o.c == 0#8
   | .red =>
     decide (o.op.toNat ≤ 10) && o.op != 9#4 && (o.scope != .d || (o.op != 8#4 && o.op != 10#4)) && o.c == 0#8 && o.d == 0#8
   | .redf => decide (o.op.toNat ≤ 2) && o.c == 0#8 && o.d == 0#8)

/-- The field checks of gpark (12 R234). -/
def ParkOn.wf : ParkOn → Bool
  | .hstate _ m => m != 0#4
  | .timer n => n != 0#32
  | _ => true

/-- The opcodes that may stand in a pair (02 R40). -/
def IntOpc.pairable : IntOpc → Bool
  | .imul | .imulh | .imad | .iadd64 | .isub64 | .idot4 | .idot8 => false
  | _ => true

/-- The floating-point opcodes that may stand in a pair (02 R40). -/
def FltOpc.pairable : FltOpc → Bool
  | .fadd | .fsub | .fmul | .ffma | .hadd2 | .hmul2 | .hfma2 => true
  | _ => false

/-- A run of k vector registers from r. -/
def vRun (r k : Nat) : List RegName := (List.range k).map fun j => .v (r + j)

/-- A predicate operand as a register that results can be pending for: pT is none (01 R8). -/
def pName (f : BitVec 8) : List RegName := if f.toNat < 48 then [.p f.toNat] else []

/-- A predicate operand of a pair: pT is a register too (01 R8), which only the guard exempts (02 R37). -/
def pairP (f : BitVec 8) : List RegName := [.p (f.toNat % 64)]

/-- The registers of source B, a vector one as a run of k. -/
def SrcB.regs (k : Nat) : SrcB → List RegName
  | .vec r => vRun r.toNat k
  | .scl r => [.s r.toNat]
  | _ => []

/-- Registers per operand of a type. -/
def ITy.regs (ty : ITy) : Nat := if ty.wide then 2 else 1

/-- Sources of an integer vector operation, the guard apart. -/
def VInt.srcs (op : IntOpc) (o : VInt) : List RegName :=
  let k := o.ty.regs
  vRun o.a.toNat k ++
  (match op.arity with
   | .unary => []
   | .binary | .cmpOp => o.b.regs (if op.countB then 1 else k)
   | .ternary => o.b.regs k ++ (if op == .clamp && o.sub == 1#3 then [] else vRun o.c.toNat k)
   | .selOp => o.b.regs k ++ pairP o.c)

/-- Destinations of an integer vector operation. -/
def VInt.dsts (op : IntOpc) (o : VInt) : List RegName :=
  if op == .icmp then pairP o.d else vRun o.d.toNat o.ty.regs

/-- Sources of a floating-point operation, the guard apart. -/
def VFlt.srcs (op : FltOpc) (o : VFlt) : List RegName :=
  (if op == .pchk then
     (if o.sub == 0#2 then [.v o.a.toNat] else if o.sub == 1#2 then pairP o.a else [.s (o.a.toNat % 64)])
   else [.v o.a.toNat]) ++
  (if op.readsB then o.b.regs 1 else []) ++ (if op.readsC then [.v o.c.toNat] else [])

/-- Destinations of a floating-point operation. -/
def VFlt.dsts (op : FltOpc) (o : VFlt) : List RegName :=
  if op == .fcmp || op == .pchk then pairP o.d else [.v o.d.toNat]

/-- Sources of a scalar operation. -/
def SOp.srcs (op : SclOpc) (o : SOp) : List RegName :=
  (if op == .smov then [] else [.s o.a.toNat]) ++ o.b.regs 1 ++ (if op == .smad then [.s o.c.toNat] else [])

/-- Sources of one operation of a pair. -/
def PairHalf.srcs : PairHalf → List RegName
  | .int op o => o.srcs op
  | .flt op o => o.srcs op
  | .smov o => o.srcs .smov
  | .vbcast o => o.b.regs 1

/-- Destinations of one operation of a pair. -/
def PairHalf.dsts : PairHalf → List RegName
  | .int op o => o.dsts op
  | .flt op o => o.dsts op
  | .smov o => [.s o.d.toNat]
  | .vbcast o => [.v o.d.toNat]

/-- STALL of one operation of a pair. -/
def PairHalf.stall : PairHalf → BitVec 4
  | .int _ o => o.h.stall
  | .flt _ o => o.h.stall
  | .smov o => o.stall
  | .vbcast o => o.h.stall

/-- The members of a list, each once. -/
def distinct (l : List RegName) : List RegName := l.foldl (fun acc x => if acc.contains x then acc else x :: acc) []

/-- Distinct vector sources of bank b (02 R37). -/
def bankCount (l : List RegName) (b : Nat) : Nat :=
  (l.filter fun r => match r with
    | .v n => n % 4 == b
    | _ => false).length

/-- The register conditions of 02 R37 on the two operations of a pair. -/
def pairRegsOk (x y : PairHalf) : Bool :=
  let src := distinct (x.srcs ++ y.srcs)
  decide (src.length ≤ 4) &&
  decide (bankCount src 0 ≤ 2) && decide (bankCount src 1 ≤ 2) && decide (bankCount src 2 ≤ 2) && decide (bankCount src 3 ≤ 2) &&
  x.dsts.all (fun r => !y.dsts.contains r)

/-- The conditions of 02 R37, pairability of the opcodes apart. -/
def pairOk (x y : PairHalf) : Bool := y.stall == 0#4 && pairRegsOk x y

/-- The field checks of one operation of a pair: as its own instruction's, without an imm32 (02 R27, R34). -/
def PairHalf.wf : PairHalf → Bool
  | .int op o => op.pairable && o.b.notImm32 && o.wf op
  | .flt op o => op.pairable && o.b.notImm32 && o.wf op
  | .smov o => o.b.notImm32 && o.wf .smov
  | .vbcast o => predOk o.h.pred && o.b.sclImm8

/-- OPC of a word (02 R24). -/
def wordOpc (w : DWord) : BitVec 10 := w.extractLsb' 54 10

/-- The opcodes that 02 R40 assigns. -/
def assignedOpcs : List (Nat × Nat) :=
  [(0x001, 0x00D), (0x010, 0x014), (0x018, 0x01D), (0x020, 0x023), (0x028, 0x02A), (0x030, 0x032),
   (0x040, 0x049), (0x050, 0x057), (0x060, 0x062), (0x070, 0x070), (0x080, 0x085), (0x0A0, 0x0AE), (0x0B0, 0x0B3),
   (0x0C0, 0x0C4), (0x0C8, 0x0CE), (0x0D0, 0x0D1), (0x0E0, 0x0E8), (0x100, 0x101), (0x108, 0x109), (0x110, 0x111),
   (0x120, 0x120), (0x140, 0x143), (0x160, 0x165), (0x168, 0x16A), (0x170, 0x172), (0x178, 0x179), (0x180, 0x183),
   (0x188, 0x18A), (0x190, 0x191), (0x1C0, 0x1C1), (0x1C4, 0x1C9), (0x200, 0x201), (0x208, 0x20C), (0x210, 0x210)]

/-- Whether 02 R40 assigns the opcode. -/
def opcAssigned (c : BitVec 10) : Bool := assignedOpcs.any fun r => decide (r.1 ≤ c.toNat ∧ c.toNat ≤ r.2)

/-- Well-formed instructions. A step of the device and a host command have no encoding, and every term of them is well formed. -/
def Instr.wf : Instr → Bool
  | .iadd o => o.wf .iadd | .isub o => o.wf .isub | .imul o => o.wf .imul | .imulh o => o.wf .imulh
  | .imad o => o.wf .imad | .iadd64 o => o.wf .iadd64 | .isub64 o => o.wf .isub64 | .imin o => o.wf .imin
  | .imax o => o.wf .imax | .iabs o => o.wf .iabs | .ineg o => o.wf .ineg | .iaddsat o => o.wf .iaddsat
  | .isubsat o => o.wf .isubsat | .and o => o.wf .and | .or o => o.wf .or | .xor o => o.wf .xor | .not o => o.wf .not
  | .andn o => o.wf .andn | .shl o => o.wf .shl | .shr o => o.wf .shr | .sar o => o.wf .sar | .rol o => o.wf .rol
  | .bfx o => o.wf .bfx | .bfi o => o.wf .bfi | .popc o => o.wf .popc | .clz o => o.wf .clz | .ctz o => o.wf .ctz
  | .brev o => o.wf .brev | .sel o => o.wf .sel | .icmp o => o.wf .icmp | .clamp o => o.wf .clamp
  | .idot4 o => o.wf .idot4 | .idot8 o => o.wf .idot8 | .srshr o => o.wf .srshr
  | .fadd o => o.wf .fadd | .fsub o => o.wf .fsub | .fmul o => o.wf .fmul | .ffma o => o.wf .ffma | .fmin o => o.wf .fmin
  | .fmax o => o.wf .fmax | .fabs o => o.wf .fabs | .fneg o => o.wf .fneg | .fcmp o => o.wf .fcmp
  | .fclass o => o.wf .fclass | .hadd2 o => o.wf .hadd2 | .hmul2 o => o.wf .hmul2 | .hfma2 o => o.wf .hfma2
  | .frcp o => o.wf .frcp | .frsq o => o.wf .frsq | .fsqrt o => o.wf .fsqrt | .fexp2 o => o.wf .fexp2
  | .flog2 o => o.wf .flog2 | .fsin o => o.wf .fsin | .fcos o => o.wf .fcos | .ftanh o => o.wf .ftanh
  | .pchk o => o.wf .pchk
  | .cvt o => o.wf .cvt | .qpack4 o => o.wf .qpack4 | .qunpack4 o => o.wf .qunpack4 | .scalepick o => o.wf .scalepick
  | .cvt8x4 o => o.wf .cvt8x4 | .cvtq o => o.wf .cvtq
  | .sadd o => o.wf .sadd | .ssub o => o.wf .ssub | .smul o => o.wf .smul | .smad o => o.wf .smad | .sand o => o.wf .sand
  | .sor o => o.wf .sor | .sxor o => o.wf .sxor | .sshl o => o.wf .sshl | .sshr o => o.wf .sshr | .ssar o => o.wf .ssar
  | .smin o => o.wf .smin | .smax o => o.wf .smax | .scmp o => o.wf .scmp | .smov o => o.wf .smov
  | .sli _ _ _ _ => true
  | .sget _ d x => sgetOk x d
  | .sset _ x b => ssetOk x && b.sclImm8
  | .vbcast o => predOk o.h.pred && o.b.sclImm8
  | .vlane _ _ _ _ b => b.sclImm8
  | .bra _ _ => true
  | .brc _ c x _ => c == .snz || predOk x
  | .call _ _ => true
  | .ret _ => true
  | .exit _ => true
  | .nop _ => true
  | .ifOp _ c _ => predOk c.p
  | .elseOp _ _ => true
  | .endif _ => true
  | .loop _ _ => true
  | .breakOp _ c _ => predOk c.p
  | .cont _ c _ => predOk c.p
  | .endloop _ c _ => predOk c.p
  | .yield _ => true
  | .shfl o => o.wf .shfl | .ballot o => o.wf .ballot | .vote o => o.wf .vote | .popm o => o.wf .popm
  | .scan o => o.wf .scan | .reduce o => o.wf .reduce | .matchOp o => o.wf .matchOp | .elect o => o.wf .elect
  | .lmask o => o.wf .lmask
  | .ldl o => o.wf .ldl | .stl o => o.wf .stl | .lds o => o.wf .lds | .sts o => o.wf .sts | .ldd o => o.wf .ldd
  | .std o => o.wf .std
  | .waitp _ _ b => b.sclImm8
  | .atom o => o.wf .atom | .atomf o => o.wf .atomf | .red o => o.wf .red | .redf o => o.wf .redf
  | .tcommit _ => true
  | .tcommitCk _ b => b.sclImm8
  | .tabort _ => true
  | .gcommit _ => true
  | .gabort _ => true
  | .fence h _ => predOk h.pred
  | .xfence _ _ => true
  | .spawn h _ t _ _ => predOk h.pred && even8 t
  | .gpark _ on live => on.wf && decide (live.toNat ≤ 256)
  | .bar _ _ => true
  | .bara _ _ => true
  | .barw _ _ => true
  | .qpush _ _ b => b.sclImm8
  | .qpop _ _ _ => true
  | .qtryPop _ _ _ _ => true
  | .qtryPush _ _ _ b => b.sclImm8
  | .cpin _ _ _ b => b.sclImm8
  | .cpout _ _ _ _ b => b.sclImm8
  | .gather h _ _ _ => predOk h.pred
  | .scatter h _ _ _ => predOk h.pred
  | .hwait _ _ m => m != 0#4
  | .hrel _ _ => true
  | .hstatSt _ _ _ => true
  | .hstatTag _ _ _ => true
  | .lrset _ s b => decide (s.toNat % 8 = 0) && b.sclImm8
  | .lfence _ => true
  | .mma o => predOk o.h.pred
  | .mmas o vm _ => predOk o.h.pred && even8 vm
  | .mzero h _ _ => predOk h.pred
  | .mload h _ _ _ _ => predOk h.pred
  | .mread h _ _ _ _ => predOk h.pred
  | .mstore h _ _ _ _ _ => predOk h.pred
  | .mburst _ b => b.sclImm8
  | .mstepGet _ _ => true
  | .mstepSet _ b => b.sclImm8
  | .trap _ _ => true
  | .tretAfter _ => true
  | .tretRetry _ => true
  | .cycle _ _ => true
  | .chkset _ _ => true
  | .vgrow _ b => b.sclImm8
  | .vshrink _ b => b.sclImm8
  | .featq _ _ b => b.sclImm8
  | .bkpt _ _ => true
  | .pairedIssue x y => x.wf && y.wf && pairOk x y
  | .unassignedOpcode w => !opcAssigned (wordOpc w)
  | .resultReady _ _ | .loadReturn _ _ _ _ | .atomicReturn _ _ | .deferredTrapDelivery _ _ | .deadlockDetect _
  | .teamPromotion _ _ | .yieldExpiry _ _ | .vgrowGrant _ _ | .bandForm _ | .recut _ | .sextantForward _ _
  | .shareDraw _ _ _ | .localListReturn _ _ _ | .shareCountExchange _ _ | .stealRequest _ _ | .stealServe _ _
  | .stealReply _ _ | .groupDispatch _ _ | .preloadComplete _ | .preloadFault _ | .postloadCheckDone _ | .groupCommit _
  | .binTimerExpiry _ _ _ _ | .frontierReport _ _ | .frontierUpdate _ | .gparkTimerExpiry _ | .continuationResume _
  | .copyAccept _ _ | .publish _ _ | .fillFault _ _ | .drainCheckDone _ _ | .drainCheckFault _ _ | .drainWriteDone _ _
  | .operandPrefetch _ _ _ | .translationMiss _ _ _ _ | .preempt _ | .preemptGraceExpiry _ | .groupResume _ _
  | .budgetExpiry _ | .coreReset _ _ | .coreResetEnd _ _ | .scrub _ _ _ _ | .packetDelivery _ | .drainPoint
  | .drainPhaseEnd | .routerPowerDown _ _ | .routerWake _ _ | .islandControlTick _ _ | .islandPointChangeDone _
  | .retainWake _ | .matrixRampIdle _ | .mburstHoldExpiry _ _ | .sampleTick _ _ _ | .moduleReset | .unsupportedPacket _
  | .launchDispatchStart _ | .regionImageSave _ | .launchComplete _ | .query _ | .map _ _ | .unmap _ _ _
  | .load _ _ _ _ _ | .unload _ _ | .launch _ _ | .launchx _ _ _ | .wait _ _ _ | .cancel _ _ | .cancelKeep _ _
  | .copyPut _ _ _ _ | .copyGet _ _ _ _ | .copyXfer _ _ _ _ _ _ _ | .attest _ _ | .log _ _ _ _ | .islandRead _
  | .islandSet _ _ _ | .unassignedCommand _ _ | .waitTimeout _ | .copyCompletion _ _ | .peerXferRequest _ _ _ _ _
  | .retainEntry _ => true

end Sys2Proof
end

