-- ==== Sys2Proof/Machine/Flags.lean ====
section
/-!
DEFINITION. The sticky flags of 01 R12 as bits of a word, the rounding modes of 04 R75, and lane sets.
-/
namespace Sys2Proof

/-- Invalid operation. -/
def Flag.nv : Word := 0x001#32
/-- Division by zero. -/
def Flag.dz : Word := 0x002#32
/-- Overflow. -/
def Flag.of : Word := 0x004#32
/-- Underflow. -/
def Flag.uf : Word := 0x008#32
/-- Inexact. -/
def Flag.nx : Word := 0x010#32
/-- The reserved i4 code was decoded. -/
def Flag.nrc : Word := 0x100#32
/-- An accumulator saturated. -/
def Flag.accovf : Word := 0x200#32
/-- Two team commits overlapped on a granule. -/
def Flag.gconf : Word := 0x400#32
/-- The bits of %flags that are not reserved (01 R12). -/
def Flag.all : Word := 0x71F#32

/-- A flag where a condition holds. -/
def Flag.on (b : Bool) (f : Word) : Word := if b then f else 0#32

/-- The mode of %tctl.RM (01 R13). -/
def tctlRm (tctl : Word) : Rnd :=
  match (tctl.extractLsb' 0 3).toNat with
  | 0 => .rne | 1 => .rna | 2 => .rtz | 3 => .rup | _ => .rdn

/-- %tctl.CHK (01 R13). -/
def tctlChk (tctl : Word) : Bool := tctl.getLsbD 3

/-- The mode in use: the named one, or RM (04 R76). -/
def Rnd.mode (r : Rnd) (tctl : Word) : Rnd := if r = .dyn then tctlRm tctl else r

/-- The lanes 0 to w−1. -/
def lanesTo (w : Nat) : LaneSet := BitVec.ofNat 1024 (2 ^ w - 1)

/-- The lanes of a set below w, ascending. -/
def lanesOf (w : Nat) (m : LaneSet) : List Nat := (List.range w).filter fun l => m.getLsbD l

/-- The set of a list of lanes. -/
def laneSet (ls : List Nat) : LaneSet := ls.foldl (fun m l => m ||| (1#1024 <<< l)) 0#1024

/-- The set of the lanes below w that meet a condition. -/
def lanesWhere (w : Nat) (f : Nat → Bool) : LaneSet := laneSet ((List.range w).filter f)

/-- Word i of a mask (07 R128). -/
def maskWord (m : LaneSet) (i : Nat) : Word := m.extractLsb' (32 * i) 32

/-- The set bits of the summary word Σ of a mask, ascending: the words that an instruction makes passes over (07 R128, R129). -/
def passWords (w : Nat) (m : LaneSet) : List Nat := (List.range (w / 32)).filter fun i => maskWord m i != 0#32

/-- The number of passes of a lane-guarded instruction: at least one (07 R129). -/
def passCount (w : Nat) (m : LaneSet) : Nat := max 1 (passWords w m).length

/-- The pass in which a lane is issued (0 where its word has no lane in the mask). -/
def passOf (w : Nat) (m : LaneSet) (l : Nat) : Nat := ((passWords w m).takeWhile fun i => i < l / 32).length

end Sys2Proof
end

