-- ==== Sys2Proof/Config.lean ====
section
/-!
DEFINITION. What the spec leaves open and the machine fixes, or does not give: opaque constants with no body, so that no
proof can see a value (notes/assumptions/2.md).
-/
namespace Sys2Proof

/-- The value that the device delivers for an approximated special function, before it is held to the bound of 06 R118:
0 frsq, 1 fexp2, 2 flog2, 3 fsin, 4 fcos, 5 ftanh. A fixed function of the source bits (R118, Determinism). -/
opaque Config.approx : Nat → Word → Word

/-- The service's own estimate whether the dies of a mask can honour a budget (22 R350): left open, and it may differ
from moment to moment, so it is applied to the counter `State.fresh`. -/
opaque Config.budgetFits : Nat → Bool

/-- How long the service takes over a translation miss, in reference cycles (10 R192): not given; applied to the counter
`State.fresh`. -/
opaque Config.missTime : Nat → Nat

/-- Where LOAD places a data section: the multiple of 65,536 it takes, as an index into the free places (03 R60). -/
opaque Config.placement : Nat → Nat

/-- The bank conflicts of the batches in which the engine reads window elements (10 R179): the spec does not say which elements
form a batch; a fixed function of the addresses presented, in element order, and the element size. -/
opaque Config.winBatchConf : List Int → Nat → Nat

/-- The committed word that a gpark.signal compares at an address that no die region covers: not stated (12 R235). -/
opaque Config.strayWord : DWord → Word

/-- How many slot islands an island-control tick steps before the module's estimate meets its limit (21 R343): not given;
applied to the counter `State.fresh`. -/
opaque Config.stepCount : Nat → Nat

/-- Whether a record of an image has a base that counts from the data section (03 R60): the image format gives no mark of it. A
fixed function of the image's bytes and the record's index. -/
opaque Config.dataRelative : List Byte → Nat → Bool

/-- SHA3-512 (22 R359): named by the spec, not defined by it. -/
opaque Config.sha3 : List Byte → List Byte

/-- ML-DSA-87 verification of (public key, message digest, signature) (22 R359): named, not defined. -/
opaque Config.mldsaVerify : List Byte → List Byte → List Byte → Bool

/-- ML-DSA-87 signature with the device's identity key (22 R360): named, not defined. -/
opaque Config.mldsaSign : List Byte → List Byte

/-- Keaval's certificate chain for the identity key (22 R360): not given. -/
opaque Config.certChain : List Byte

/-- The digest of the ROM image (22 R360): not given. -/
opaque Config.romDigest : List Byte

/-- Port pairing, fixed by board strapping (22 R345): true when the ports are paired. -/
opaque Config.paired : Bool

/-- The digest of the configuration entry of the measurement log (22 R360), from the port pairing, the module limit and the
caps: the spec does not give the digested bytes. -/
opaque Config.configDigest : Bool → Nat → List (Nat × Nat) → List Byte

end Sys2Proof
end

