-- ==== Sys2Proof/Machine/Store.lean ====
section
/-!
DEFINITION. Maps as plain data: lists of (key, value) with rising keys, in one canonical form: no entry holds the value that an
unlisted key reads as, and writing that value removes the entry. Memories are maps of bytes; sets of numbers are rising lists.
-/
namespace Sys2Proof

/-- A map from numbers to values. -/
abbrev Store (α : Type) := List (Nat × α)

/-- The value of a key, `d` where it is not listed. -/
def Store.get {α : Type} (d : α) (m : Store α) (k : Nat) : α :=
  match m with
  | [] => d
  | e :: r => if e.1 = k then e.2 else Store.get d r k

/-- The map without an entry for the key. -/
def Store.erase {α : Type} (m : Store α) (k : Nat) : Store α :=
  match m with
  | [] => []
  | e :: r => if e.1 = k then Store.erase r k else e :: Store.erase r k

/-- An entry put in its place, before the first larger key. -/
def Store.insert {α : Type} (m : Store α) (k : Nat) (v : α) : Store α :=
  match m with
  | [] => [(k, v)]
  | e :: r => if k < e.1 then (k, v) :: e :: r else if e.1 = k then (k, v) :: r else e :: Store.insert r k v

/-- Write a value: the default's entry is removed (the canonical form). -/
def Store.put {α : Type} [DecidableEq α] (d : α) (m : Store α) (k : Nat) (v : α) : Store α :=
  if v = d then m.erase k else Store.insert m k v

/-- Whether a map has the canonical form: keys strictly rising, no entry equal to the default. -/
def Store.wf {α : Type} [DecidableEq α] (d : α) : Store α → Bool
  | [] => true
  | [e] => decide (e.2 ≠ d)
  | e :: f :: r => decide (e.2 ≠ d) && decide (e.1 < f.1) && Store.wf d (f :: r)

/-- A memory of bytes; an unlisted byte reads as 0. -/
abbrev Memory := Store Byte

/-- The byte at an address: an address nothing has written reads as 0 (08 R162, 10 R183, 22 R368: cleared at dispatch, at
admission, and when a page is made). -/
def Memory.read (m : Memory) (a : Nat) : Byte := Store.get 0#8 m a

/-- Write a byte. -/
def Memory.write (m : Memory) (a : Nat) (v : Byte) : Memory := Store.put 0#8 m a v

/-- The canonical form of a memory. -/
def Memory.wf (m : Memory) : Bool := Store.wf 0#8 m

/-- n bytes from an address. -/
def Memory.readN (m : Memory) (a : Nat) : Nat → List Byte
  | 0 => []
  | n + 1 => m.read a :: Memory.readN m (a + 1) n

/-- Write bytes from an address on. -/
def Memory.writeN (m : Memory) (a : Nat) : List Byte → Memory
  | [] => m
  | b :: bs => Memory.writeN (m.write a b) (a + 1) bs

/-- A set of numbers, rising. -/
abbrev NSet := List Nat

/-- A number put into a set. -/
def NSet.add (s : NSet) (k : Nat) : NSet :=
  match s with
  | [] => [k]
  | e :: r => if k < e then k :: e :: r else if e = k then e :: r else e :: NSet.add r k

/-- A number taken out of a set. -/
def NSet.del (s : NSet) (k : Nat) : NSet := s.filter (· ≠ k)

end Sys2Proof
end

