-- ==== Sys2Proof/Machine/State.lean ====
section
/-!
DEFINITION. The state of the machine: everything the spec gives it, as plain data (INVENTORY.md, "State"), the reasons a step
can stop, and the state right after module reset.
-/
namespace Sys2Proof.Machine

/-- Why the machine stops. -/
inductive Fault
  /-- Raised by the meaning of a native instruction when no team is executing (`State.cur` names none): the device only
  executes an instruction for a team. Safe: no run that starts at an issue by `step` meets it. -/
  | noTeam
  deriving DecidableEq, Repr

/-- Why the model gives an instruction no meaning. -/
inductive Refusal
  /-- Raised by a dispatch arm of an instruction not modelled yet. Safe: nothing is claimed of it. -/
  | notModelled (mnemonic : String)
  deriving DecidableEq, Repr

/-- A vector register's value and poison bit (01 R8). -/
structure VReg where
  val : Word
  poi : Bool
  deriving DecidableEq, Repr

/-- A predicate's value and poison bit (01 R8). -/
structure PReg where
  val : Bool
  poi : Bool
  deriving DecidableEq, Repr

/-- A scalar register's value and poison bit (01 R8). -/
structure SReg where
  val : DWord
  poi : Bool
  deriving DecidableEq, Repr

/-- A write of one register, or of sticky flags (06 R120). Vector and predicate writes name the lane. -/
inductive RegWrite
  | v (lane r : Nat) (x : VReg)
  | p (lane r : Nat) (x : PReg)
  | s (r : Nat) (x : SReg)
  | flags (f : Word)
  deriving DecidableEq, Repr

/-- A fixed-latency result that is not yet ready: the slot cycle it becomes ready at (01 R18). -/
structure Pending where
  ready : Nat
  w     : RegWrite
  deriving DecidableEq, Repr

/-- Which storage a granule or an access belongs to (11 R197): the window, the handle area, or the region of a die. -/
inductive Space
  | win
  | slot
  | die (d : Nat)
  deriving DecidableEq, Repr

/-- A lane's part of a load that is still to be performed (10 R188): its first register, its storage and address there, and for
each byte the value that the team's own earlier accesses give it, with its poison; `none` where the storage gives it. -/
structure LoadPart where
  lane : Nat
  r    : Nat
  sx   : Bool
  sp   : Space
  a    : Nat
  own  : List (Option (Byte × Bool))
  deriving DecidableEq, Repr

/-- A load in flight (01 R22, 10 R194): its path, the registers that it names, the lanes still to be performed, and the values still
to be written. -/
structure Load where
  path : Path
  dst  : List Nat
  todo : List LoadPart
  ws   : List RegWrite
  deriving DecidableEq, Repr

/-- One lane's part of an atomic: lane, address, b and c (13 R243). -/
structure AtomLane where
  lane : Nat
  ea   : Nat
  b    : Word
  c    : Word
  deriving DecidableEq, Repr

/-- An atomic, or a window reduction, that is outstanding (13 R243, R244): what it does, the register that takes the old values,
the lanes still to be served, and the old values still to be written. -/
structure AtomReq where
  scope : Scope
  isF   : Bool
  op    : BitVec 4
  ret   : Option Nat
  todo  : List AtomLane
  ws    : List RegWrite
  deriving DecidableEq, Repr

/-- Kinds of a mask-stack entry (07 R130). -/
inductive MaskKind | ifK | elseK | loopK
  deriving DecidableEq, Repr

/-- A mask-stack entry (07 R130). -/
structure MaskEntry where
  kind : MaskKind
  a    : LaneSet
  b    : LaneSet
  deriving DecidableEq, Repr

/-- A return-stack entry (05 R101). -/
structure RetEntry where
  addr  : DWord
  depth : Nat
  deriving DecidableEq, Repr

/-- Trap causes (20 R310) are numbers 0x01 to 0x20. -/
abbrev Cause := BitVec 8

/-- The handler's frame and the trap registers (05 R111): %tcause, %tlanes, %taddr and %tpc read cause, lanes, addr and pc
while the team is in its handler (20 R314). -/
structure Frame where
  pc    : DWord
  mask  : LaneSet
  depth : Nat
  lanes : LaneSet
  cause : Cause
  /-- whether the trap is per-lane partial (20 R309), so that a retry acts in its lanes only (05 R112) -/
  perLane : Bool
  tctl  : Word
  addr  : DWord
  deriving DecidableEq, Repr

/-- The frame outside a handler. -/
def Frame.none : Frame :=
  { pc := 0#64, mask := 0#1024, depth := 0, lanes := 0#1024, cause := 0#8, perLane := false, tctl := 0#32, addr := 0#64 }

/-- A deferred trap (12 R227). -/
structure Held where
  cause : Cause
  lanes : LaneSet
  perLane : Bool
  addr  : DWord
  deriving DecidableEq, Repr

/-- What a team waits for. -/
inductive WaitOn
  | path | load | atomic | fence | result
  | barWait (b : Nat) | barArrive (b : Nat)
  | qpush (q : Nat) | qpop (q : Nat)
  | handle (h : Nat)
  | vgrow (n : Nat)
  | queueEntry
  | frontier
  | commit
  | park
  | fetch (h : Nat)
  | front (h : Nat)
  | lrset
  | quarter
  /-- what it waited for has come, and its instruction would wait for something else: it is tried again -/
  | again
  deriving DecidableEq, Repr

/-- The standing checkpoint (11 R199): n registers, and K, its size in the team's buffer reservation. -/
structure Ckpt where
  n : Nat
  k : Nat
  v : Store VReg
  p : Store PReg
  s : Store SReg
  deriving DecidableEq, Repr

/-- The resume point (11 R199). -/
structure Resume where
  pc     : DWord
  mask   : LaneSet
  depth  : Nat
  rdepth : Nat
  tctl   : Word
  deriving DecidableEq, Repr

/-- A pending .d reduction on one word (13 R246). -/
structure RedVal where
  isF   : Bool
  op    : BitVec 4
  bound : Word
  val   : Word
  deriving DecidableEq, Repr

/-- An entry of a write buffer or of a commit area: one 64-byte granule, the bytes written (offset 0 to 63 and value, rising), the
pending reductions (word 0 to 15) (11 R197, 13 R246), and the 8-byte words (0 to 7) that an uncorrectable error has poisoned
(10 R181, R182). -/
structure Entry where
  sp    : Space
  gran  : Nat
  bytes : List (Nat × Byte)
  reds  : List (Nat × RedVal)
  poi   : NSet := []
  deriving DecidableEq, Repr

/-- One accumulator: V and PZ (17 R276). -/
structure Acc where
  v  : Int
  pz : Bool
  deriving DecidableEq, Repr

/-- One octet's tile (17 R276): accumulators at row × 32 + column. -/
structure Tile where
  acc  : Store Acc
  anc  : Int
  pend : Bool
  conv : BitVec 2
  deriving DecidableEq, Repr

/-- A tile at team start (17 R276); ANC is not given then: 0 (notes/assumptions/6.md, DESIGN CHOICE). -/
def Tile.start : Tile := { acc := [], anc := 0, pend := true, conv := 0#2 }

/-- The REUSE latch (17 R290): LV and the copies, at lane × 16 + j. -/
structure Latch where
  lv   : Bool
  regs : Store VReg
  deriving DecidableEq, Repr

/-- A team's standing in its group's life (08 R164, 05 R102). -/
inductive TeamPhase | waiting | running | ended
  deriving DecidableEq, Repr

/-- yield's wait (07 R144): the slot cycle at which it began, and the teams (group, team) still to issue. -/
structure Yielding where
  since : Nat
  teams : List (Nat × Nat)
  deriving DecidableEq, Repr

/-- A mapped page (10 R191). -/
structure Page where
  va    : Nat
  size  : Nat
  r     : Bool
  w     : Bool
  home  : Nat
  peers : List (BitVec 48)
  deriving DecidableEq, Repr

/-- Commands of the copy engine (16 R262, 17 R286). `fetch` carries the state and tag of the handle before the fill and
whether it is a lookahead's. -/
inductive CmdKind
  | cpin
  | cpout (rop : Rop)
  | gather
  | scatter
  | fetch (sc : Bool) (prefetch : Bool)
  deriving DecidableEq, Repr

/-- An element or a padding element put into a slot: its place, its bytes, whether it was read from a poisoned word. -/
structure FillElem where
  ofs   : Nat
  bytes : List Byte
  poi   : Bool
  deriving DecidableEq, Repr

/-- An accepted engine command with its snapshot (16 R262): the records' words, the element offset, the lanes' indices,
the physical slot; the team that issued it; of a fill, the elements read so far, the first failure met with its place in the
command's order (16 R273), the translations that it has made, one for each page (10 R192, 16 R274), and whether the set table holds
its range (12 R225). -/
structure Cmd where
  kind : CmdKind
  hdl  : Nat
  r    : Nat
  lrec  : BitVec 512
  lrec2 : BitVec 512
  off  : Int
  idx  : List Word
  slot : Nat
  team : Nat
  at_  : Nat
  got  : List FillElem := []
  bad  : Option (Nat × DWord) := none
  seen : List Page := []
  noted : Bool := false
  deriving DecidableEq, Repr

/-- A preload with its snapshot (08 R164, 16 R263): its command, its place in the window, and the fault of its checks. -/
structure PreCmd where
  cmd   : Cmd
  ofs   : Nat
  fault : Option (Cause × DWord)
  deriving DecidableEq, Repr

/-- An mburst hold (17 R299): the mma and mmas still to issue, and when it began. -/
structure Burst where
  left  : Nat
  since : Nat
  deriving DecidableEq, Repr

/-- An mma or mmas whose products are still to be made (17 R282, R288): its tile, the place of its slot, its fused sets (their lanes, the
offset of B, the format word, the bytes of B), each lane's A registers and steps, and the granules of the handle area that it has read, with their
bytes and poison. -/
structure MatReq where
  tile : BitVec 4
  slot : Nat
  base : Nat
  sets : List (List Nat × Nat × Word × Nat)
  regs : List (Nat × List VReg)
  ks   : List (Nat × List Nat)
  got  : List (Nat × List (Byte × Bool)) := []
  deriving DecidableEq, Repr

/-- A team: its registers, control state and everything of its context (20 R319), with its in-flight results. -/
structure Team where
  idx       : Nat
  stage     : Nat
  phase     : TeamPhase
  slot      : Nat
  /-- its position on the slot (07 R143) -/
  pos       : Nat
  nregs     : Nat
  v         : Store VReg
  p         : Store PReg
  s         : Store SReg
  /-- the virtual registers of a translated Eceel block that no native register holds (22 R357), by `xKey` and by number -/
  vx        : Store VReg
  px        : Store PReg
  sx        : Store SReg
  pc        : DWord
  mask      : LaneSet
  mstack    : List MaskEntry
  rstack    : List RetEntry
  flags     : Word
  tctl      : Word
  pend      : List Pending
  loads     : List Load
  atoms     : List AtomReq
  /-- matrix instructions whose products are still to be made -/
  mats      : List MatReq
  /-- whether its next .t atomic or matrix instruction is performed apart from its issue (the model's own, notes/assumptions/1.md) -/
  late      : Bool
  /-- the end of the passes of its last instruction, and the first cycle at which its next one may issue (01 R18) -/
  busy      : Nat
  earliest  : Nat
  /-- the slot cycle since which the team is ready to issue (07 R143); `none` while its instruction is blocked -/
  readySince : Option Nat
  promoted  : Option Nat
  yielding  : Option Yielding
  wait      : Option WaitOn
  /-- the place of its waiting command among those of its group that are still to be accepted (16 R262) -/
  qturn     : Option Nat
  phaseBit  : Bool
  inhandler : Bool
  frame     : Frame
  retry     : Option LaneSet
  held      : Option Held
  noroll    : Bool
  ckpt      : Ckpt
  resume    : Resume
  buf       : List Entry
  spill     : Memory
  spois     : NSet
  tiles     : Store Tile
  latch     : Latch
  step      : Nat
  spawns    : Nat
  burst     : Option Burst
  /-- the issue of the last mburst, where the slot was idle then, and the cycle at which a ramp that is waited for ends (17 R299) -/
  mburstAt  : Option Nat
  ramp      : Option Nat
  /-- how many steps the next mmas makes before a pre-emption falls (17 R291) -/
  quota     : Option Nat
  t0        : Nat
  deriving DecidableEq, Repr

/-- Handle states (16 R255, R270). -/
inductive HState | free | filling | full | draining
  deriving DecidableEq, Repr

/-- A handle (16 R255). `fteam` is the team whose command set FAULT (16 R273). For an operand-fetcher fill, `prior` keeps the
state that the handle held before it (17 R286). -/
structure Handle where
  st    : HState
  front : Bool
  tag   : DWord
  fault : Option DWord
  fteam : Nat
  chk   : Bool
  prior : HState
  deriving DecidableEq, Repr

/-- A handle at dispatch (16 R254). -/
def Handle.free : Handle :=
  { st := .free, front := false, tag := 0#64, fault := none, fteam := 0, chk := false, prior := .free }

/-- A queue (08 R169). -/
structure Queue where
  entries : List DWord
  allow   : Nat
  deriving DecidableEq, Repr

/-- A barrier (08 R165); C is the number of members. -/
structure Barrier where
  members : NSet
  arrived : NSet
  gen     : Bool
  deriving DecidableEq, Repr

/-- A record of a node's bin (12 R222): its words, timestamp and key, and the group that emitted it. -/
structure Rec where
  words  : List Word
  ts     : DWord
  key    : Key
  parent : Nat
  deriving DecidableEq, Repr

/-- An entry of the set table (12 R225). -/
inductive ReadEntry
  | gran (die g : Nat)
  | range (lo hi : Nat)
  deriving DecidableEq, Repr

/-- A group's measurements (08 R157): bytes, start, lanes and passes; `dur` and `key` are set when it ends. -/
structure Meas where
  bytes  : Nat
  start  : Nat
  lanes  : Nat
  passes : Nat
  dur    : Nat
  key    : Key
  deriving DecidableEq, Repr

/-- The measures of a group before its first team starts. -/
def Meas.zero : Meas := { bytes := 0, start := 0, lanes := 0, passes := 0, dur := 0, key := 0#128 }

/-- Where a group stands. -/
inductive GStatus
  /-- in a share of its die, or in transit to one -/
  | share
  /-- in a core's local list (21 R330) -/
  | drawn
  /-- dispatched, preloads in progress (08 R164, steps 1 and 2) -/
  | loading
  /-- teams running -/
  | running
  /-- every team has ended; the final commit is to come (08 R164, steps 4 and 5) -/
  | ended
  /-- a parked continuation (12 R235) -/
  | parked
  /-- out of the active groups -/
  | done
  deriving DecidableEq, Repr

/-- A group's granule for race detection and GCONF: the space, or main memory. -/
inductive GranKey
  | loc (sp : Space) (g : Nat)
  | main (g : Nat)
  deriving DecidableEq, Repr

/-- A parked continuation's event (12 R235): the address of .signal, and when the timer began. -/
structure Parked where
  on    : ParkOn
  addr  : DWord
  since : Nat
  deriving DecidableEq, Repr

/-- A postload's check (08 R164, 16 R263): the snapshot of its record, and the fault that it met. -/
structure PostChk where
  lrec  : BitVec 512
  fault : Option (Cause × DWord)
  deriving DecidableEq, Repr

/-- A group. -/
structure Group where
  gid        : Nat
  launch     : Nat
  chart      : Nat
  isRec      : Bool
  recs       : List Rec
  key        : Key
  ts         : DWord
  org        : List Nat
  ext        : List Nat
  cutno      : Nat
  status     : GStatus
  /-- whether the group's saved context stands in the record (20 R319), to be resumed rather than dispatched afresh -/
  saved      : Bool
  die        : Nat
  core       : Nat
  teams      : List Team
  window     : Memory
  wpois      : NSet
  harea      : Memory
  hpois      : NSet
  handles    : List Handle
  cmds       : List Cmd
  carea      : List Entry
  contested  : List GranKey
  queues     : List Queue
  bars       : List Barrier
  committers : List (GranKey × Nat)
  /-- the reference cycle of the last team commit, and the team that made it (08 R166, 11 R200) -/
  turn       : Option (Nat × Nat)
  committed  : Bool
  /-- whether a gcommit has been made (12 R235), and whether the group has ended or parked after a group commit (12 R229) -/
  gcommitted : Bool
  freed      : Bool
  /-- drains applied whose writes are to complete (16 R256, R274) -/
  written    : List Cmd
  nonspec    : Bool
  bkconf     : Nat
  gconf      : Bool
  reads      : List ReadEntry
  meas       : Meas
  drawn      : Bool
  /-- the number of its launch's draw that took it (21 R330) -/
  drawAt     : Nat
  /-- the ended checks of POST0 to POST3 -/
  posts      : Option (List (Option PostChk))
  /-- the preloads of a dispatch, and the fault that they have met -/
  pres       : List PreCmd
  preFault   : Option (Cause × DWord)
  parked     : Option Parked
  /-- teams, with their counts, whose vgrow moves the group: they are placed at those counts (07 R142) -/
  grow       : List (Nat × Nat)
  grace      : Option Nat
  /-- whether a pre-emption has stopped issue in its teams and waits for what they have begun (20 R318) -/
  stop       : Bool
  deriving DecidableEq, Repr

/-- An entry of the launch status (22 R351). -/
structure FaultEntry where
  cause : Cause
  team  : Word
  key   : Key
  iaddr : DWord
  taddr : DWord
  deriving DecidableEq, Repr

/-- Status codes (22 R347). -/
inductive Status
  | success | admitted | pending | invalidCommand | invalidOperand | notFound | busy | noSpace | imageFormat | imageLevel
  | signature | translateLimit | invalidChart | budgetRefused | groupFault | budgetExpired | cancelled | dependenceFailed
  | peerRefused | copyFault
  deriving DecidableEq, Repr

/-- A bin of a node on a die (12 R223): its records in arrival order, and the sets whose timers run: timestamp (ordered
launches) and start cycle. -/
structure Bin where
  die    : Nat
  node   : Nat
  recs   : List Rec
  timers : List (Option DWord × Nat)
  deriving DecidableEq, Repr

/-- The life of a launch. -/
inductive LPhase
  | admitted | dispatching | stopped | cancelled | complete
  deriving DecidableEq, Repr

/-- A launch (22 R350 to R354). -/
structure Launch where
  id       : Nat
  image    : Nat
  chart    : Nat
  args     : List Byte
  budget   : Nat
  stamp    : Nat
  dies     : List Nat
  dsize    : Nat
  nc       : Nat
  load     : Option Nat
  save     : Option Nat
  preds    : List Nat
  bkpt     : BitVec 16
  sample   : Nat
  sampled  : List Nat
  session  : Nat
  tag      : BitVec 64
  phase    : LPhase
  status   : Status
  saved    : Bool
  /-- granules of the load image that have been read, with their bytes and poison, and number of those of the save image that are written
  (22 R350) -/
  loaded   : List (Nat × List (Byte × Bool))
  savedTo  : Nat
  /-- the cut in force: shape, bearing, number; the next band origin, that of the last band, and bands formed under the script
  entry in force; the script's counts and shapes as admitted -/
  shape    : List Nat
  bearing  : Nat
  cutno    : Nat
  origin   : Nat
  bandAt   : Nat
  scriptN  : Nat
  script   : List (Nat × List Nat)
  /-- shares of dies 0 to 3 (21 R329), counts last heard of (21 R331), steals outstanding -/
  shares   : List (List Nat)
  seen     : List (List Nat)
  steals   : List (Option Nat)
  /-- steal requests that arrived: victim, cycle and thief; replies that arrived: thief and groups -/
  inbox    : List (Nat × Nat × Nat)
  replies  : List (Nat × List Nat)
  exchanged : List Nat
  /-- measurements waiting at a die, and held at home (08 R157, R158) -/
  fwd      : List (Nat × Meas × Nat)
  held     : List (Meas × Nat)
  draws    : Nat
  dvol     : Nat
  markVol  : Nat
  bins     : List Bin
  /-- frontier: the least key each die last reported, and the frontier each die holds (12 R232); all ones for none -/
  reports  : List Key
  reported : List Nat
  front    : List Key
  /-- groups in transit between dies: group, source and destination (12 R232, step 3) -/
  transit  : List (Nat × Nat × Nat)
  faults   : List FaultEntry
  nfaults  : Nat
  races    : Nat
  region   : Memory
  rpois    : NSet
  acct     : List Nat
  /-- the cycle until which a translation miss of the launch is being served (10 R192, 22 R354) -/
  missing  : Nat
  cont     : Nat
  deriving DecidableEq, Repr

/-- A Chart (08 R146 to R148), its fields as numbers. -/
structure Chart where
  rsvZero : Bool
  /-- bytes per lane of virtual registers kept above SPILL (22 R357) -/
  kept    : Nat
  entry   : Nat
  handler : Nat
  sent    : List Nat
  stages  : List Nat
  wid     : Nat
  regs    : Nat
  ckpt    : Nat
  tiles   : Nat
  vmax    : Nat
  mul     : List Nat
  max     : List Nat
  min     : List Nat
  ext     : List Nat
  winfix  : Nat
  winpp   : Nat
  tbuf    : Nat
  commit  : Nat
  spill   : Nat
  hsize   : Nat
  hcount  : Nat
  qcount  : Nat
  qdepth  : Nat
  barst   : Nat
  tsbase  : DWord
  tscoef  : List DWord
  pre     : List (Option (Nat × Nat))
  post    : List (Option (Nat × Nat))
  cuts    : Nat
  budget  : Nat
  pclass  : Nat
  prio    : Nat
  hndl    : Bool
  ncut    : Nat
  script  : Bool
  recutOff : Bool
  pinb    : Nat
  pin     : Bool
  bearm   : Nat
  node    : Nat
  nodeb   : Bool
  ordered : Bool
  rank    : Nat
  deriving DecidableEq, Repr

/-- A loaded image (22 R355, R356): its Charts with the entries of the chosen block, the records' place in memory and their
number, the nodes' counts and timers, the data section's place and size, the text, and its digest. -/
structure Image where
  id      : Nat
  charts  : List Chart
  recs    : Nat
  nrecs   : Nat
  nodes   : List (Nat × Nat)
  data    : Nat
  dsize   : Nat
  text    : List DWord
  /-- of a translated Eceel block: for the word of a record, the native registers in which it finds virtual ones (22 R357) -/
  binds   : List (Nat × List (RegName × RegName))
  digest  : List Byte
  deriving DecidableEq, Repr

/-- Forms of COPY (22 R353). -/
inductive CopyForm
  | put (data : List Byte)
  | get
  | xfer (out : Bool) (peer : BitVec 48) (peerVa : Nat)
  deriving DecidableEq, Repr

/-- A COPY (22 R353): `done` once answered. -/
structure Copy where
  id      : Nat
  form    : CopyForm
  va      : Nat
  len     : Nat
  preds   : List Nat
  session : Nat
  tag     : BitVec 64
  done    : Option Status
  /-- bytes of its source's granules that have been read, by address; granules of its destination that are written (22 R353) -/
  got     : List (Nat × Byte)
  moved   : Nat
  deriving DecidableEq, Repr

/-- A peer's XFER under way (22 R353): its operands, the bytes of its source's granules that have been read, by address, and the granules of
its destination that are written. -/
structure PeerXfer where
  peer  : BitVec 48
  put   : Bool
  va    : Nat
  len   : Nat
  data  : List Byte
  got   : List (Nat × Byte)
  moved : Nat
  deriving DecidableEq, Repr

/-- A WAIT not yet answered (22 R348). -/
structure Waiting where
  id       : Nat
  target   : Nat
  deadline : Nat
  session  : Nat
  tag      : BitVec 64
  deriving DecidableEq, Repr

/-- A response or an unsolicited record (22 R346, R351). -/
structure Response where
  session : Nat
  tag     : BitVec 64
  cmd     : BitVec 8
  status  : Status
  body    : List Byte
  deriving DecidableEq, Repr

/-- Operating points of a slot island (21 R342). -/
inductive Point | f0 | f1 | f2 | off
  deriving DecidableEq, Repr

/-- A slot and its island (21 R342, 17 R299): point, cap and temperature (°C); the slot clock as an anchor (slot cycle `aClk`
at reference cycle `aRef`); the first cycle free of passes; the end of a change of point; the matrix quarters' last pass and
first free cycles; the position that last issued in each tier of the round robin (07 R143); whether the island turns off once its
last team has left (21 R342). -/
structure Slot where
  point    : Point
  cap      : Point
  temp     : Nat
  aClk     : Nat
  aRef     : Nat
  nextFree : Nat
  changing : Option Nat
  /-- the matrix quarters: `none` idle, otherwise the cycle of the last matrix pass -/
  matLast  : Option Nat
  matFree  : List Nat
  /-- passed 105 °C and not yet below 100 °C (21 R343) -/
  hot      : Bool
  last     : List Nat
  leaving  : Bool
  deriving DecidableEq, Repr

/-- A slot after module reset: the operating point, cap and temperature are not given (notes/assumptions/6.md, DESIGN CHOICE). -/
def Slot.reset : Slot :=
  { point := .f0, cap := .f0, temp := 0, aClk := 0, aRef := 0, nextFree := 0, changing := none, matLast := none
    matFree := [0, 0, 0, 0], hot := false, last := [15, 15, 15, 15, 15, 15], leaving := false }

/-- A core: its local list, the launches whose drawn groups a placed group of a higher class ousts (21 R330), a reset in progress
(21 R340), out of placement (10 R181), the times of its uncorrectable errors and resets, its translation cache (10 R192: page
addresses) and remote-read cache (10 R190: line tags). -/
structure Core where
  drawn   : List Nat
  ousted  : List Nat
  reset   : Option Nat
  removed : Bool
  errs    : List Nat
  resets  : List Nat
  tcache  : List Nat
  rcache  : List (Nat × Nat)
  /-- the places that ECC findings have shown of areas of the scratchpad (10 R177, R181) -/
  bases   : List (EccArea × Nat)
  deriving DecidableEq, Repr

/-- A core after module reset. -/
def Core.start : Core :=
  { drawn := [], ousted := [], reset := none, removed := false, errs := [], resets := [], tcache := [], rcache := [], bases := [] }

/-- A router (21 R339): powered down, the cycle since which it has been idle, and the end of its waking. -/
structure Router where
  down   : Bool
  idle   : Nat
  waking : Option Nat
  deriving DecidableEq, Repr

/-- A router after module reset (notes/assumptions/6.md, DESIGN CHOICE: up). -/
def Router.start : Router := { down := false, idle := 0, waking := none }

/-- What a packet between dies carries (21 R329 to R332, 12 R232, 08 R157). -/
inductive Parcel
  | stripe (l : Nat) (gs : List Nat)
  | stealReq (l thief : Nat)
  | stealRep (l : Nat) (gs : List Nat)
  | counts (l die n : Nat)
  | report (l die : Nat) (k : Key) (got : List Nat) (n : Nat)
  | frontier (l : Nat) (k : Key)
  | measure (l : Nat) (m : Meas) (vol : Nat)
  deriving DecidableEq, Repr

/-- An accepted packet (21 R338). -/
structure Packet where
  id   : Nat
  src  : Nat
  dst  : Nat
  at_  : Nat
  what : Parcel
  deriving DecidableEq, Repr

/-- Kinds of the error log's entries (22 R361). -/
inductive ErrKind | corrected | uncorrectable | poison | coreRemoved | coreReset | dropped
  deriving DecidableEq, Repr

/-- An entry of the error log (10 R181, 21 R340, 22 R345). -/
structure ErrEntry where
  kind : ErrKind
  die  : Nat
  core : Nat
  ofs  : Nat
  at_  : Nat
  keys : List Key
  deriving DecidableEq, Repr

/-- Kinds of page-table edits (22 R361). -/
inductive EditKind | map | unmap | narrow | shootDown
  deriving DecidableEq, Repr

/-- An entry of the page-table log (22 R361); the issuing system core and the stalled cycles are the service's own. -/
structure EditEntry where
  at_     : Nat
  kind    : EditKind
  size    : Nat
  va      : Nat
  len     : Nat
  stalled : Nat
  deriving DecidableEq, Repr

/-- An entry of the breakpoint and sample log (20 R315, 22 R361). -/
structure BkptEntry where
  launch : Nat
  key    : Key
  team   : Nat
  pc     : DWord
  depth  : Nat
  mask   : LaneSet
  spec   : Bool
  sample : Bool
  deriving DecidableEq, Repr

/-- An entry of the measurement log (22 R360). -/
structure MeasEntry where
  kind   : Nat
  at_    : Nat
  digest : List Byte
  deriving DecidableEq, Repr

/-- A log: the sequence number of its next entry, and its entries, the newest last (22 R361). -/
structure Log (α : Type) where
  next    : Nat
  entries : List α
  deriving DecidableEq, Repr

/-- A lrset that is still to be performed (16 R271, R272): its team, the record's address and its bytes. -/
structure LrWrite where
  g  : Nat
  t  : Nat
  a  : Nat
  bs : List Byte
  deriving DecidableEq, Repr

/-- Accesses that are performed apart from the instruction that makes them. -/
inductive Micro
  /-- the k-th load in flight of a team is performed (10 R188) -/
  | load (g t k : Nat)
  /-- one address of a team's oldest unserved atomic is served (13 R243) -/
  | atom (g t ea : Nat)
  /-- the k-th outstanding lrset is performed (16 R271) -/
  | lrset (k : Nat)
  /-- the k-th element of a fill is read (16 R267) -/
  | fill (g h k : Nat)
  /-- the k-th element of preload p of a group is read (08 R164) -/
  | pre (g p k : Nat)
  /-- the group is pre-empted once the team's next mmas has made n steps (17 R291) -/
  | steps (g t n : Nat)
  /-- the team's next .t atomic or matrix instruction is performed apart from its issue -/
  | late (g t : Nat)
  /-- the team's next instruction is fetched n slot cycles from now (07 R143) -/
  | fetch (g t n : Nat)
  /-- granule k of a copy's source is read, and the next granule of its destination written, with what a peer sends (22 R353) -/
  | copyRead (c k : Nat)
  | copyWrite (c : Nat) (bs : List Byte)
  /-- a peer's XFER arrives that is not served at once, and granule k of the i-th under way is read, or its next one written (22 R353) -/
  | peer (peer : BitVec 48) (put : Bool) (va len : Nat) (data : List Byte)
  | peerGran (i k : Nat)
  /-- granule k of a launch's load image is read, and the next granule of its save image written (22 R350) -/
  | image (l k : Nat)
  | saveGran (l : Nat)
  /-- the k-th command in line is taken up (22 R348) -/
  | serve (k : Nat)
  /-- a granule of B is read for the k-th outstanding matrix instruction of a team (17 R288) -/
  | matB (g t k gran : Nat)
  /-- the oldest outstanding matrix instruction of a team is performed (17 R282, R288) -/
  | mat (g t : Nat)
  deriving DecidableEq, Repr

/-- What moves next: a team issues, a step of the device or a host command is taken, or an access is performed (the model's own,
notes/assumptions/1.md). -/
inductive Pick
  | team (g t : Nat)
  | ev (i : Instr)
  | micro (m : Micro)
  deriving DecidableEq, Repr

/-- A page-table edit that waits for drains (16 R274, 22 R368): when it arrived, its command, and the pages that it takes away or
narrows. -/
structure Edit where
  since : Nat
  cmd   : Instr
  pages : List Nat
  deriving DecidableEq, Repr

/-- A command that stands behind another of its session (22 R348, Order), with the cycle of its arrival. -/
structure Queued where
  at_ : Nat
  cmd : Instr
  deriving DecidableEq, Repr

/-- The whole machine. -/
structure State where
  cycle     : Nat
  mem       : Memory
  mpois     : NSet
  /-- words of main memory that hold an uncorrectable error which nothing has met yet (10 R193) -/
  mbad      : NSet
  pages     : List Page
  images    : List Image
  launches  : List Launch
  groups    : List Group
  copies    : List Copy
  xfers     : List PeerXfer
  waits     : List Waiting
  edits     : List Edit
  /-- commands that wait for an earlier one of their session (22 R346), in the order of their arrival -/
  queued    : List Queued
  /-- while the service takes up a command that stands in line: the cycle of its arrival -/
  takenUp   : Option Nat
  lrq       : List LrWrite
  /-- continuation id and the launch it continues (20 R325) -/
  conts     : List (Nat × Nat)
  cores     : Store Core
  slots     : Store Slot
  /-- row, network and control islands in RETAIN (21 R342) -/
  retain    : NSet
  /-- islands on their way back to ON, with the time -/
  waking    : List (Nat × Nat)
  limit     : Nat
  /-- the reference cycle of the last island-control period (21 R343) -/
  islandAt  : Nat
  routers   : Store Router
  packets   : List Packet
  /-- a drain phase: its end (21 R337) -/
  drain     : Option Nat
  /-- drain points passed -/
  drains    : Nat
  /-- per die, the last operation that its distributor served: cycle, and rank in R333's order (21 R333) -/
  desks     : List (Nat × Nat)
  responses : List Response
  errlog    : Log ErrEntry
  pagelog   : Log EditEntry
  bkptlog   : Log BkptEntry
  measlog   : Log MeasEntry
  /-- ids given out so far (launches, copies, images, continuations, packets, groups) -/
  nextId    : Nat
  agenda    : List Pick
  cur       : Option (Nat × Nat)
  fresh     : Nat
  deriving DecidableEq, Repr

/-- The machine right after module reset: no page is mapped, no image is loaded, no launch is admitted, %cycle is 0 (01 R15),
the module limit is 2,800 W (21 R343), and the measurement log holds the entries of 22 R360. -/
def State.reset : State :=
  { cycle := 0, mem := [], mpois := [], mbad := [], pages := [], images := [], launches := [], groups := [], copies := [], xfers := []
    waits := [], edits := [], queued := [], takenUp := none, lrq := [], conts := [], cores := [], slots := [], retain := [], waking := [], limit := 2800, islandAt := 0, routers := []
    packets := [], drain := none, drains := 0, desks := [(0, 0), (0, 0), (0, 0), (0, 0)], responses := []
    errlog := { next := 0, entries := [] }, pagelog := { next := 0, entries := [] }, bkptlog := { next := 0, entries := [] }
    measlog :=
      { next := 2
        entries := [{ kind := 1, at_ := 0, digest := Config.romDigest },
                    { kind := 2, at_ := 0, digest := Config.configDigest Config.paired 2800 [] }] }
    nextId := 1, agenda := [], cur := none, fresh := 0 }

end Sys2Proof.Machine
end

