-- ==== Sys2Proof/Machine/Access.lean ====
section
/-!
DEFINITION. Reading and writing the parts of the state: groups, teams, launches, cores and slots by name, a team's registers at
an issue cycle (01 R8, R18 to R21), and the slot clock (21 R342).
-/
namespace Sys2Proof.Machine

/-- The outcome of a step of this machine. -/
abbrev Out := Host.Outcome State Fault Refusal

/-- A core's name: die × 64 + core. -/
def coreKey (die core : Nat) : Nat := die * 64 + core

/-- A slot's name, also the number of its island (21 R341). -/
def slotKey (die core slot : Nat) : Nat := coreKey die core * 4 + slot

/-- The key that stands for no task: all ones (01 R14, 12 R233). -/
def Key.none : Key := BitVec.allOnes 128

namespace State

def group? (s : State) (g : Nat) : Option Group := s.groups.find? fun x => x.gid == g

/-- A group's record written back. -/
def setGroup (s : State) (g : Group) : State :=
  { s with groups := s.groups.map fun x => if x.gid == g.gid then g else x }

def launch? (s : State) (l : Nat) : Option Launch := s.launches.find? fun x => x.id == l

/-- A launch's record written back. -/
def setLaunch (s : State) (l : Launch) : State :=
  { s with launches := s.launches.map fun x => if x.id == l.id then l else x }

def image? (s : State) (i : Nat) : Option Image := s.images.find? fun x => x.id == i

def core (s : State) (die core : Nat) : Core := Store.get Core.start s.cores (coreKey die core)

def setCore (s : State) (die core : Nat) (c : Core) : State :=
  { s with cores := Store.put Core.start s.cores (coreKey die core) c }

def slotOf (s : State) (k : Nat) : Slot := Store.get Slot.reset s.slots k

def setSlot (s : State) (k : Nat) (x : Slot) : State := { s with slots := Store.put Slot.reset s.slots k x }

def router (s : State) (die core : Nat) : Router := Store.get Router.start s.routers (coreKey die core)

def setRouter (s : State) (die core : Nat) (r : Router) : State :=
  { s with routers := Store.put Router.start s.routers (coreKey die core) r }

end State

/-- The Chart of a group. -/
def State.chartOf (s : State) (l : Launch) (g : Group) : Option Chart := (s.image? l.image).bind fun im => im.charts[g.chart]?

/-- A Chart's team width (08 R146). -/
def Chart.width (c : Chart) : Nat := 32 * (c.wid + 1)

/-- COMMIT, 0 meaning 64 KiB (08 R146). -/
def Chart.commitBytes (c : Chart) : Nat := if c.commit = 0 then 65536 else c.commit

/-- TBUF, 0 meaning 32 KiB (08 R146). -/
def Chart.tbufBytes (c : Chart) : Nat := if c.tbuf = 0 then 32768 else c.tbuf

/-- A product. -/
def prodL (l : List Nat) : Nat := l.foldl (· * ·) 1

/-- %gvol (08 R153). -/
def Group.vol (g : Group) : Nat := prodL g.ext

/-- The window size S (01 R16). -/
def Chart.winSize (c : Chart) (g : Group) : Nat := c.winfix + c.winpp * g.vol

/-- Stage teams of a Chart (08 R151). -/
def Chart.stageTeams (c : Chart) : Nat := c.stages.foldl (· + ·) 0

/-- Point teams of a group (08 R151). -/
def Chart.pointTeams (c : Chart) (g : Group) : Nat := (g.vol + c.width - 1) / c.width

/-- A group's team of an index. -/
def Group.team? (g : Group) (t : Nat) : Option Team := g.teams[t]?

/-- A team's record written back. -/
def Group.setTeam (g : Group) (t : Team) : Group := { g with teams := g.teams.set t.idx t }

/-- Everything a native instruction acts on: the state, the group, the team, their launch, Chart and image. The group and the
team are the working copies; `Ctx.save` writes them back. -/
structure Ctx where
  s  : State
  g  : Group
  t  : Team
  l  : Launch
  c  : Chart
  im : Image
  deriving DecidableEq, Repr

/-- The context of the executing team; `none` when no team executes. -/
def State.ctx? (s : State) : Option Ctx :=
  match s.cur with
  | none => none
  | some (gi, ti) =>
    match s.group? gi with
    | none => none
    | some g =>
      match g.team? ti, s.launch? g.launch with
      | some t, some l =>
        match s.image? l.image with
        | none => none
        | some im =>
          match im.charts[g.chart]? with
          | none => none
          | some c => some { s := s, g := g, t := t, l := l, c := c, im := im }
      | _, _ => none

/-- A meaning run on the executing team. -/
def State.run (s : State) (f : Ctx → Out) : Out :=
  match s.ctx? with
  | none => .fault .noTeam
  | some x => f x

namespace Ctx

/-- The working copies written back. -/
def save (x : Ctx) : State := (x.s.setGroup (x.g.setTeam x.t)).setLaunch x.l

/-- Team width. -/
def w (x : Ctx) : Nat := x.c.width

/-- The slot's name. -/
def slot (x : Ctx) : Nat := slotKey x.g.die x.g.core x.t.slot

/-- Whether the group is speculative (12 R224): a group of an ordered launch that has not headed the frontier. -/
def spec (x : Ctx) : Bool := x.c.ordered && !x.g.nonspec && ((x.l.front[x.g.die]?).getD Key.none != x.g.key)

/-- The lanes that may act: the team's mask, held to the pending retry lanes (05 R112). -/
def active (x : Ctx) : LaneSet := x.t.mask &&& x.t.retry.getD (BitVec.allOnes 1024)

/-- The active lanes, ascending. -/
def lanes (x : Ctx) : List Nat := lanesOf x.w x.active

/-- The pass of a lane (07 R129). -/
def pass (x : Ctx) (l : Nat) : Nat := passOf x.w x.t.mask l

/-- Passes of a lane-guarded instruction (07 R129). -/
def passes (x : Ctx) : Nat := passCount x.w x.t.mask

/-- Issue cycle of the pass that carries a lane. -/
def at_ (x : Ctx) (l : Nat) : Nat := x.t.t0 + x.pass l

end Ctx

/-! ### Registers -/

/-- Key of a vector register of a lane. -/
def vKey (lane r : Nat) : Nat := lane * 256 + r

/-- Key of a predicate of a lane. -/
def pKey (lane r : Nat) : Nat := lane * 64 + r

/-- The register file's value of a vector register; a register nothing has written holds its start value (01 R10). -/
def Team.fileV (t : Team) (lane r : Nat) : VReg := Store.get { val := 0#32, poi := false } t.v (vKey lane r)

def Team.fileP (t : Team) (lane r : Nat) : PReg := Store.get { val := false, poi := false } t.p (pKey lane r)

def Team.fileS (t : Team) (r : Nat) : SReg := Store.get { val := 0#64, poi := false } t.s r

/-- The number from which on the virtual registers of a translated Eceel block are named, and the key of a lane's (22 R357). -/
def virtualBase : Nat := 256
def xKey (lane r : Nat) : Nat := lane * 2 ^ 22 + r

/-- One register write applied to the register file (06 R120 for flags), or to the virtual registers; another name beyond the file's
registers (01 R8) writes nothing. -/
def Team.apply (t : Team) (w : RegWrite) : Team :=
  match w with
  | .v lane r x =>
    let d : VReg := { val := 0#32, poi := false }
    if r < virtualBase then { t with v := Store.put d t.v (vKey lane r) x } else { t with vx := Store.put d t.vx (xKey lane r) x }
  | .p lane r x =>
    let d : PReg := { val := false, poi := false }
    if r < 48 then { t with p := Store.put d t.p (pKey lane r) x }
    else if virtualBase ≤ r then { t with px := Store.put d t.px (xKey lane r) x } else t
  | .s r x =>
    let d : SReg := { val := 0#64, poi := false }
    if r < virtualBase then { t with s := Store.put d t.s r x } else { t with sx := Store.put d t.sx r x }
  | .flags f => { t with flags := t.flags ||| f }

/-- Register writes applied in order. -/
def Team.applyAll (t : Team) (ws : List RegWrite) : Team := ws.foldl Team.apply t

/-- Whether two writes name one register. -/
def RegWrite.sameReg : RegWrite → RegWrite → Bool
  | .v l r _, .v l' r' _ => l == l' && r == r'
  | .p l r _, .p l' r' _ => l == l' && r == r'
  | .s r _, .s r' _ => r == r'
  | _, _ => false

/-- The value of a vector register that a pass issuing at a cycle reads: of the pending writes that are ready, the newest in
program order; the register file's value when none is (01 R18, R20, R21). -/
def Team.readV (t : Team) (cyc lane r : Nat) : VReg :=
  t.pend.foldl (fun acc e => match e.w with
    | .v l r' x => if l = lane ∧ r' = r ∧ e.ready ≤ cyc then x else acc
    | _ => acc) (t.fileV lane r)

/-- The value of a predicate at an issue cycle; pT reads true (01 R8). -/
def Team.readP (t : Team) (cyc lane r : Nat) : PReg :=
  if r = 63 then { val := true, poi := false }
  else t.pend.foldl (fun acc e => match e.w with
    | .p l r' x => if l = lane ∧ r' = r ∧ e.ready ≤ cyc then x else acc
    | _ => acc) (t.fileP lane r)

/-- The value of a scalar at an issue cycle. -/
def Team.readS (t : Team) (cyc r : Nat) : SReg :=
  t.pend.foldl (fun acc e => match e.w with
    | .s r' x => if r' = r ∧ e.ready ≤ cyc then x else acc
    | _ => acc) (t.fileS r)

/-- Results that are ready by a cycle, applied in program order; an older write to a register that a newer ready one has
written is dropped (01 R20). -/
def Team.settle (t : Team) (cyc : Nat) : Team :=
  let ready := t.pend.filter fun e => decide (e.ready ≤ cyc)
  let t' := t.applyAll (ready.map Pending.w)
  { t' with pend := keep t.pend cyc }
where
  /-- The results that stay pending: not ready, and not superseded by a newer ready write of the register. -/
  keep (ps : List Pending) (cyc : Nat) : List Pending :=
    match ps with
    | [] => []
    | e :: r =>
      if e.ready ≤ cyc || r.any (fun f => decide (f.ready ≤ cyc) && f.w.sameReg e.w) then keep r cyc else e :: keep r cyc

/-- The cycle by which every pending result is ready. -/
def Team.readyAt (t : Team) : Nat := t.pend.foldl (fun m e => max m e.ready) 0

/-- Whether a pending result is not ready at a cycle. -/
def Team.pending (t : Team) (cyc : Nat) : Bool := t.pend.any fun e => decide (cyc < e.ready)

/-- Whether a write is put among the pending results: none to pT (01 R8), none of no flag. -/
def RegWrite.kept : RegWrite → Bool
  | .p _ r _ => decide (r < 48)
  | .flags f => f != 0#32
  | _ => true

namespace Ctx

/-- A scalar register as the pass of a lane reads it (01 R18, R21). -/
def scAt (x : Ctx) (lane r : Nat) : SReg := x.t.readS (x.at_ lane) r

/-- A vector register as the pass of a lane reads it. -/
def v (x : Ctx) (lane r : Nat) : VReg := x.t.readV (x.at_ lane) lane r

/-- A predicate as the pass of a lane reads it. -/
def p (x : Ctx) (lane r : Nat) : PReg := x.t.readP (x.at_ lane) lane r

/-- A scalar as a Team-guarded instruction reads it, at its one pass. -/
def sc (x : Ctx) (r : Nat) : SReg := x.t.readS x.t.t0 r

/-- The pending result of a write: ready L cycles after the pass that makes it (01 R18). -/
def pendOf (x : Ctx) (lat : Nat) : RegWrite → Pending
  | .v l r y => { ready := x.at_ l + lat, w := .v l r y }
  | .p l r y => { ready := x.at_ l + lat, w := .p l r y }
  | .s r y => { ready := x.t.t0 + lat, w := .s r y }
  | .flags f => { ready := x.t.t0 + lat, w := .flags f }

/-- Results appended to the team's pending ones; a predicate write to pT is discarded (01 R8). -/
def emit (x : Ctx) (lat : Nat) (ws : List RegWrite) : Ctx :=
  { x with t := { x.t with pend := x.t.pend ++ (ws.filter RegWrite.kept).map (x.pendOf lat) } }

/-- Results of a Team-guarded instruction: one pass makes them all (07 R129), whatever their lanes. -/
def emitNow (x : Ctx) (lat : Nat) (ws : List RegWrite) : Ctx :=
  { x with t := { x.t with pend := x.t.pend ++ (ws.filter RegWrite.kept).map fun w => { ready := x.t.t0 + lat, w := w } } }

end Ctx

/-! ### The slot clock -/

/-- Slot cycles per four reference cycles (21 R342). -/
def Point.rate : Point → Nat
  | .f0 => 4 | .f1 => 3 | .f2 => 2 | .off => 0

/-- The slot cycle at a reference cycle. -/
def Slot.clock (x : Slot) (cyc : Nat) : Nat := x.aClk + (cyc - x.aRef) * x.point.rate / 4

/-- The first reference cycle at which the slot clock has reached a cycle. -/
def Slot.refOf (x : Slot) (clk : Nat) : Nat :=
  if x.point.rate = 0 ∨ clk ≤ x.aClk then x.aRef else x.aRef + ((clk - x.aClk) * 4 + x.point.rate - 1) / x.point.rate

/-- A change of point at a reference cycle: the clock goes on from where it stands. -/
def Slot.repoint (x : Slot) (p : Point) (cyc : Nat) : Slot := { x with aClk := x.clock cyc, aRef := cyc, point := p }

/-- Lanes of a group's main-memory key. -/
def dwordOf (n : Nat) : DWord := BitVec.ofNat 64 n

/-- A free value's fresh index is used up (notes/assumptions/2.md). -/
def State.bump (s : State) : State := { s with fresh := s.fresh + 1 }

/-- The rest of a launch that is not finished. -/
def Launch.live (l : Launch) : Bool :=
  match l.phase with
  | .complete => false
  | _ => true

/-- Whether a group counts as active (11 R204): from dispatch until its final commit; pre-empted and parked groups are. -/
def Group.activeG (g : Group) : Bool :=
  match g.status with
  | .loading | .running | .ended | .parked => true
  | .share | .drawn => g.saved
  | .done => false

/-- The groups of a launch. -/
def State.groupsOf (s : State) (l : Nat) : List Group := s.groups.filter fun g => g.launch == l

/-! ### Logs -/

/-- An entry appended: a log keeps its last 65,536 (22 R361). -/
def Log.push {α : Type} (l : Log α) (e : α) : Log α :=
  { next := l.next + 1, entries := (l.entries ++ [e]).drop (l.entries.length + 1 - 65536) }

/-- The sequence number of a log's oldest entry. -/
def Log.first {α : Type} (l : Log α) : Nat := l.next - l.entries.length

/-- An entry of the error log. -/
def State.logErr (s : State) (kind : ErrKind) (die core ofs : Nat) (keys : List Key) : State :=
  { s with errlog := s.errlog.push { kind := kind, die := die, core := core, ofs := ofs, at_ := s.cycle, keys := keys } }

/-- An entry of the page-table log (22 R361). -/
def State.logEdit (s : State) (kind : EditKind) (size va len stalled : Nat) : State :=
  { s with pagelog := s.pagelog.push { at_ := s.cycle, kind := kind, size := size, va := va, len := len, stalled := stalled } }

end Sys2Proof.Machine
end

