-- ==== Sys2Proof/Machine/Float.lean ====
section
/-!
DEFINITION. The floating-point formats and their exact arithmetic (04 R64 to R82, 06 R113 to R117): patterns as numbers, the
value of a pattern, rounding once with its flags, and the operations over them.
-/
namespace Sys2Proof

/-- A binary floating-point format (04 R64): exponent bits, fraction bits, bias, whether it has infinities. -/
structure FF where
  ebits : Nat
  fbits : Nat
  bias  : Nat
  inf   : Bool
  deriving DecidableEq, Repr

def FF.f32 : FF := { ebits := 8, fbits := 23, bias := 127, inf := true }
def FF.f16 : FF := { ebits := 5, fbits := 10, bias := 15, inf := true }
def FF.bf16 : FF := { ebits := 8, fbits := 7, bias := 127, inf := true }
def FF.e4m3 : FF := { ebits := 4, fbits := 3, bias := 7, inf := false }
def FF.e5m2 : FF := { ebits := 5, fbits := 2, bias := 15, inf := true }

/-- The format of a floating-point TYPE. -/
def FTy.ff : FTy → FF
  | .f32 => FF.f32 | .f16 => FF.f16 | .bf16 => FF.bf16

/-- Width of a format in bits. -/
def FF.width (f : FF) : Nat := 1 + f.ebits + f.fbits

/-- The sign bit. -/
def FF.signBit (f : FF) : Nat := 2 ^ (f.ebits + f.fbits)

/-- The all-ones exponent. -/
def FF.emax (f : FF) : Nat := 2 ^ f.ebits - 1

/-- The default NaN (04 R66). -/
def FF.nan (f : FF) : Nat := if f.inf then f.emax * 2 ^ f.fbits + 2 ^ (f.fbits - 1) else 2 ^ (f.ebits + f.fbits) - 1

/-- The infinity of a sign. -/
def FF.infBits (f : FF) (neg : Bool) : Nat := (if neg then f.signBit else 0) + f.emax * 2 ^ f.fbits

/-- The largest finite pattern, unsigned (04 R64): all ones but one in e4m3. -/
def FF.maxBits (f : FF) : Nat := if f.inf then f.emax * 2 ^ f.fbits - 1 else 2 ^ (f.ebits + f.fbits) - 2

/-- The value of a pattern (04 R65): a NaN with its sign, whether it is signaling, and its fraction; an infinity; or
(−1)^neg × man × 2^exp. -/
inductive FV
  | nan (neg sig : Bool) (frac : Nat)
  | inf (neg : Bool)
  | fin (neg : Bool) (man : Nat) (exp : Int)
  deriving DecidableEq, Repr

/-- The value of a pattern (04 R65). -/
def FF.val (f : FF) (bits : Nat) : FV :=
  let neg := bits / f.signBit % 2 == 1
  let e := bits / 2 ^ f.fbits % 2 ^ f.ebits
  let m := bits % 2 ^ f.fbits
  if f.inf && e == f.emax then
    if m == 0 then .inf neg else .nan neg (decide (m < 2 ^ (f.fbits - 1))) m
  else if !f.inf && e == f.emax && m == 2 ^ f.fbits - 1 then .nan neg false m
  else if e == 0 then .fin neg m (1 - (f.bias : Int) - f.fbits)
  else .fin neg (2 ^ f.fbits + m) ((e : Int) - f.bias - f.fbits)

/-- A pattern quietened (04 R66): the top fraction bit set; an e4m3 NaN is already quiet (R65). -/
def FF.quiet (f : FF) (bits : Nat) : Nat := if f.inf then bits ||| 2 ^ (f.fbits - 1) else bits

def FV.isNan : FV → Bool
  | .nan _ _ _ => true
  | _ => false

def FV.isSig : FV → Bool
  | .nan _ s _ => s
  | _ => false

def FV.isInf : FV → Bool
  | .inf _ => true
  | _ => false

def FV.isZero : FV → Bool
  | .fin _ m _ => m == 0
  | _ => false

def FV.neg : FV → Bool
  | .nan n _ _ => n
  | .inf n => n
  | .fin n _ _ => n

/-- A value's significand with its sign. -/
def FV.int : FV → Int
  | .fin n m _ => if n then -(m : Int) else m
  | _ => 0

/-- A value's exponent. -/
def FV.exp : FV → Int
  | .fin _ _ e => e
  | _ => 0

/-- A signed zero of a format. -/
def FF.zero (f : FF) (neg : Bool) : Nat := if neg then f.signBit else 0

/-- Whether a truncated magnitude is raised by one unit (04 R75): the unit's parity, the sign, and how what was cut off compares
with half a unit (`.lt`, `.eq`, `.gt`), where it is not zero. -/
def roundUp (mode : Rnd) (neg odd : Bool) (cmp : Ordering) (inexact : Bool) : Bool :=
  inexact &&
  match mode with
  | .rne | .dyn => cmp == .gt || (cmp == .eq && odd)
  | .rna => cmp != .lt
  | .rtz => false
  | .rup => !neg
  | .rdn => neg

/-- num × 2^−sh rounded to an integer, `sticky` saying that the exact value lies strictly between num and num + 1: the result and
whether it is inexact (04 R75). -/
def roundShift (mode : Rnd) (neg : Bool) (num : Nat) (sticky : Bool) (sh : Int) : Nat × Bool :=
  if sh ≤ 0 then
    let r := num * 2 ^ (-sh).toNat
    if roundUp mode neg (r % 2 == 1) .lt sticky then (r + 1, sticky) else (r, sticky)
  else
    let k := sh.toNat
    let r := num / 2 ^ k
    let rem := num % 2 ^ k
    let half := 2 ^ (k - 1)
    let cmp : Ordering := if rem < half then .lt else if half < rem || sticky then .gt else .eq
    let inexact := rem != 0 || sticky
    if roundUp mode neg (r % 2 == 1) cmp inexact then (r + 1, inexact) else (r, inexact)

/-- A result beyond the largest finite value (04 R75, R81): by mode, or the largest finite value in a format without
infinities. -/
def FF.overflow (f : FF) (mode : Rnd) (neg : Bool) : Nat :=
  let big := f.zero neg + f.maxBits
  if !f.inf then big else
  match mode with
  | .rtz => big
  | .rup => if neg then big else f.infBits false
  | .rdn => if neg then f.infBits true else big
  | _ => f.infBits neg

/-- A nonzero exact value (−1)^neg × num × 2^e (num and num + 1 bracketing it where `sticky`) rounded once into the format, with OF,
UF and NX (04 R75, R77, R78). -/
def FF.round (f : FF) (mode : Rnd) (neg : Bool) (num : Nat) (sticky : Bool) (e : Int) : Nat × Word :=
  let emin : Int := 1 - (f.bias : Int)
  let top : Int := (Nat.log2 num : Int) + e
  let q : Int := top - f.fbits
  let qs : Int := max q (emin - f.fbits)
  let (r, inexact) := roundShift mode neg num sticky (qs - e)
  let mag : Nat := if r < 2 ^ f.fbits then r else (qs + f.fbits + f.bias).toNat * 2 ^ f.fbits + (r - 2 ^ f.fbits)
  if f.maxBits < mag then (f.overflow mode neg, Flag.of ||| Flag.nx)
  else
    let tiny : Bool :=
      decide (top < emin) &&
        !(decide (top = emin - 1) && decide ((roundShift mode neg num sticky (q - e)).1 = 2 ^ (f.fbits + 1)))
    (f.zero neg + mag, Flag.on inexact Flag.nx ||| Flag.on (inexact && tiny) Flag.uf)

/-- A signed exact value m × 2^e rounded; `zneg` is the sign of an exact zero (04 R80). -/
def FF.roundInt (f : FF) (mode : Rnd) (m : Int) (e : Int) (zneg : Bool) : Nat × Word :=
  if m = 0 then (f.zero zneg, 0#32) else f.round mode (decide (m < 0)) m.natAbs false e

/-- The sum of two exact values. -/
def exactSum (m1 : Int) (e1 : Int) (m2 : Int) (e2 : Int) : Int × Int :=
  let e := min e1 e2
  (m1 * 2 ^ (e1 - e).toNat + m2 * 2 ^ (e2 - e).toNat, e)

/-- The first NaN among the operands, quietened, with NV when any operand is signaling (04 R79). -/
def FF.nanOf (f : FF) (ps : List Nat) : Option (Nat × Word) :=
  match ps.filter (fun p => (f.val p).isNan) with
  | [] => none
  | p :: _ => some (f.quiet p, Flag.on (ps.any fun q => (f.val q).isSig) Flag.nv)

/-- The sign of an exact zero sum (04 R80): equal signs keep it; otherwise +0, or −0 under RDN. -/
def zeroSign (mode : Rnd) (n1 n2 : Bool) : Bool := if n1 == n2 then n1 else mode == .rdn

/-- a + b, rounded once (06 R114). -/
def FF.add (f : FF) (mode : Rnd) (a b : Nat) : Nat × Word :=
  match f.nanOf [a, b] with
  | some r => r
  | none =>
    match f.val a, f.val b with
    | .inf n, .inf n' => if n == n' then (f.infBits n, 0#32) else (f.nan, Flag.nv)
    | .inf n, _ => (f.infBits n, 0#32)
    | _, .inf n => (f.infBits n, 0#32)
    | x, y =>
      let (m, e) := exactSum x.int x.exp y.int y.exp
      f.roundInt mode m e (if x.isZero && y.isZero then zeroSign mode x.neg y.neg else mode == .rdn)

/-- The sign of a pattern inverted. -/
def FF.negate (f : FF) (a : Nat) : Nat := a ^^^ f.signBit

/-- a − b, rounded once: a NaN operand is delivered as it stands (04 R79). -/
def FF.sub (f : FF) (mode : Rnd) (a b : Nat) : Nat × Word :=
  match f.nanOf [a, b] with
  | some r => r
  | none => f.add mode a (f.negate b)

/-- a × b, rounded once. -/
def FF.mul (f : FF) (mode : Rnd) (a b : Nat) : Nat × Word :=
  match f.nanOf [a, b] with
  | some r => r
  | none =>
    let x := f.val a
    let y := f.val b
    let n := x.neg != y.neg
    if x.isInf || y.isInf then
      if x.isZero || y.isZero then (f.nan, Flag.nv) else (f.infBits n, 0#32)
    else f.roundInt mode (x.int * y.int) (x.exp + y.exp) n

/-- a × b + c with a single rounding and the NaN order of 04 R80. -/
def FF.fma (f : FF) (mode : Rnd) (a b c : Nat) : Nat × Word :=
  let x := f.val a
  let y := f.val b
  let z := f.val c
  let inval := (x.isInf && y.isZero) || (x.isZero && y.isInf)
  let sig := x.isSig || y.isSig || z.isSig
  let n := x.neg != y.neg
  if z.isNan then (f.quiet c, Flag.on (inval || sig) Flag.nv)
  else match f.nanOf [a, b] with
  | some (r, _) => (r, Flag.on sig Flag.nv)
  | none =>
    if inval then (f.nan, Flag.nv)
    else if x.isInf || y.isInf then
      if z.isInf && z.neg != n then (f.nan, Flag.nv) else (f.infBits n, 0#32)
    else match z with
    | .inf nz => (f.infBits nz, 0#32)
    | _ =>
      let p := x.int * y.int
      let (m, e) := exactSum p (x.exp + y.exp) z.int z.exp
      f.roundInt mode m e (if p = 0 && z.isZero then zeroSign mode n z.neg else mode == .rdn)

/-- Whether the value of a lies below the value of b; −0 and +0 are equal. -/
def FV.lt (a b : FV) : Bool :=
  match a, b with
  | .nan _ _ _, _ => false
  | _, .nan _ _ _ => false
  | .inf n, .inf n' => n && !n'
  | .inf n, .fin _ _ _ => n
  | .fin _ _ _, .inf n => !n
  | x, y => decide ((exactSum x.int x.exp (-y.int) y.exp).1 < 0)

/-- Whether the values are equal; −0 and +0 are. -/
def FV.eq (a b : FV) : Bool := !a.isNan && !b.isNan && !a.lt b && !b.lt a

/-- minimumNumber (`min`) and maximumNumber, −0 below +0 (06 R115). -/
def FF.minmax (f : FF) (min : Bool) (a b : Nat) : Nat × Word :=
  let x := f.val a
  let y := f.val b
  let fl := Flag.on (x.isSig || y.isSig) Flag.nv
  if x.isNan && y.isNan then (f.quiet a, fl)
  else if x.isNan then (b, fl)
  else if y.isNan then (a, fl)
  else
    let aLess := x.lt y || (x.eq y && x.neg)
    (if aLess == min then a else b, fl)

/-- The condition of fcmp and its NV (06 R116). -/
def FF.cmp (f : FF) (sub : BitVec 2) (a b : Nat) : Bool × Word :=
  let x := f.val a
  let y := f.val b
  let sig := x.isSig || y.isSig
  let nan := x.isNan || y.isNan
  match sub.toNat with
  | 0 => (x.eq y, Flag.on sig Flag.nv)
  | 1 => (x.lt y, Flag.on nan Flag.nv)
  | 2 => (x.lt y || x.eq y, Flag.on nan Flag.nv)
  | _ => (nan, Flag.on sig Flag.nv)

/-- The class mask of fclass (06 R117). -/
def FF.classify (f : FF) (a : Nat) : Nat :=
  match f.val a with
  | .nan _ s _ => if s then 256 else 512
  | .inf n => if n then 1 else 128
  | .fin n m _ =>
    if m = 0 then (if n then 8 else 16)
    else if m < 2 ^ f.fbits then (if n then 4 else 32)
    else (if n then 2 else 64)

/-- The integer square root, bit by bit from 2^k down: the largest r + … with square at most n. -/
def isqrtFrom (n : Nat) : Nat → Nat → Nat
  | 0, r => if (r + 1) * (r + 1) ≤ n then r + 1 else r
  | k + 1, r => isqrtFrom n k (if (r + 2 ^ (k + 1)) * (r + 2 ^ (k + 1)) ≤ n then r + 2 ^ (k + 1) else r)

/-- The integer square root. -/
def isqrt (n : Nat) : Nat := isqrtFrom n (Nat.log2 n / 2 + 1) 0

/-- An integer converted exactly to the format, rounded (04 R82). -/
def FF.ofInt (f : FF) (mode : Rnd) (v : Int) : Nat × Word := f.roundInt mode v 0 false

/-- A value of one format converted to another (04 R81). -/
def FF.convert (src dst : FF) (mode : Rnd) (a : Nat) : Nat × Word :=
  match src.val a with
  | .nan n s frac =>
    let fl := Flag.on s Flag.nv
    if !dst.inf then (dst.zero n + (2 ^ (dst.ebits + dst.fbits) - 1), fl)
    else
      let fr := if !src.inf then 2 ^ (dst.fbits - 1)
                else if src.fbits ≤ dst.fbits then frac * 2 ^ (dst.fbits - src.fbits)
                else frac / 2 ^ (src.fbits - dst.fbits)
      (dst.zero n + dst.emax * 2 ^ dst.fbits + (fr ||| 2 ^ (dst.fbits - 1)), fl)
  | .inf n =>
    if dst.inf then (dst.infBits n, 0#32) else (dst.zero n + (2 ^ (dst.ebits + dst.fbits) - 1), Flag.nv)
  | .fin n m e => if m = 0 then (dst.zero n, 0#32) else dst.round mode n m false e

/-- A value rounded to an integer (04 R75): the integer and whether it is inexact. -/
def roundToInt (mode : Rnd) (n : Bool) (m : Nat) (e : Int) : Int × Bool :=
  let (r, ix) := roundShift mode n m false (-e)
  (if n then -(r : Int) else r, ix)

/-- A float converted to an integer within lo to hi (04 R82). -/
def FF.toIntRange (f : FF) (mode : Rnd) (lo hi : Int) (a : Nat) : Int × Word :=
  match f.val a with
  | .nan _ _ _ => (0, Flag.nv)
  | .inf n => (if n then lo else hi, Flag.nv)
  | .fin n m e =>
    let (r, ix) := roundToInt mode n m e
    if r < lo then (lo, Flag.nv) else if hi < r then (hi, Flag.nv) else (r, Flag.on ix Flag.nx)

end Sys2Proof
end

