-- ==== Sys2Proof/Machine/Layout.lean ====
section
/-!
DEFINITION. Layout records, the address generator and main memory (16 R259 to R261, 10 R191 to R193), and the reduction operators
of engine writes (16 R268).
-/
namespace Sys2Proof.Machine

/-- A layout record's fields (16 R259). -/
structure LRec where
  base : Nat
  win  : Bool
  ext  : List Nat
  str  : List Int
  fill : Nat
  esz  : Nat
  fillen : Bool
  red  : Nat
  rty  : Nat
  pad  : Nat
  rsv  : Bool
  deriving DecidableEq, Repr

/-- Bits [lo+n−1:lo] of a record as a number. -/
def recBits (r : BitVec 512) (lo n : Nat) : Nat := r.toNat / 2 ^ lo % 2 ^ n

/-- A signed 40-bit stride. -/
def recStride (r : BitVec 512) (lo : Nat) : Int := (BitVec.ofNat 40 (recBits r lo 40)).toInt

/-- The fields of a record's 512 bits (16 R259). -/
def LRec.ofBits (r : BitVec 512) : LRec :=
  { base := recBits r 0 48, win := recBits r 63 1 == 1
    ext := [recBits r 64 24, recBits r 88 24, recBits r 112 24, recBits r 136 24]
    str := [recStride r 160, recStride r 200, recStride r 240, recStride r 280]
    fill := recBits r 320 32, esz := recBits r 384 3, fillen := recBits r 387 1 == 1, red := recBits r 388 2
    rty := recBits r 390 3, pad := recBits r 432 16
    rsv := recBits r 48 15 != 0 || recBits r 352 32 != 0 || recBits r 393 39 != 0 || recBits r 448 64 != 0 }

namespace LRec

/-- Element size in bytes. -/
def es (r : LRec) : Nat := 2 ^ r.esz

/-- EXTd. -/
def x (r : LRec) (d : Nat) : Nat := (r.ext[d]?).getD 1

/-- STRd. -/
def st (r : LRec) (d : Nat) : Int := (r.str[d]?).getD 0

/-- The element indices in element order, i0 fastest (16 R261). -/
def indices (r : LRec) : List (Nat × Nat × Nat × Nat) :=
  (List.range (r.x 3)).flatMap fun i3 => (List.range (r.x 2)).flatMap fun i2 =>
    (List.range (r.x 1)).flatMap fun i1 => (List.range (r.x 0)).map fun i0 => (i0, i1, i2, i3)

/-- Addr (16 R261). -/
def addr (r : LRec) (off : Int) (i : Nat × Nat × Nat × Nat) : Int :=
  (r.base : Int) + (off + i.1 * r.st 0 + i.2.1 * r.st 1 + i.2.2.1 * r.st 2 + i.2.2.2 * r.st 3) * (r.es : Int)

/-- Dense (16 R261). -/
def dense (r : LRec) (i : Nat × Nat × Nat × Nat) : Nat :=
  ((i.2.2.2 * r.x 2 + i.2.2.1) * r.x 1 + i.2.1) * (r.x 0 + r.pad) + i.1

/-- DenseBytes (16 R261). -/
def denseBytes (r : LRec) : Nat := (r.x 0 + r.pad) * r.x 1 * r.x 2 * r.x 3 * r.es

/-- Bytes of one row with its padding (16 R267). -/
def rowBytes (r : LRec) : Nat := (r.x 0 + r.pad) * r.es

/-- The positions of the padding elements of the dense image (16 R261); an empty record has none. -/
def padPos (r : LRec) : List Nat :=
  if r.ext.any (· == 0) then []
  else (List.range (r.x 3)).flatMap fun i3 => (List.range (r.x 2)).flatMap fun i2 =>
    (List.range (r.x 1)).flatMap fun i1 => (List.range r.pad).map fun j => r.dense (r.x 0 + j, i1, i2, i3)

/-- The fill element's bytes (16 R259). -/
def fillBytes (r : LRec) : List Byte := bytesOf r.es r.fill
where
  /-- n little-endian bytes. -/
  bytesOf (n v : Nat) : List Byte :=
    match n with
    | 0 => []
    | k + 1 => BitVec.ofNat 8 v :: bytesOf k (v / 256)

end LRec

/-- What a command uses a record for (16 R260). -/
inductive RecUse | cpin | cpout (red : Bool) | gather | scatter | preload | postload
  deriving DecidableEq, Repr

/-- Whether RTY and ESZ admit a reduction (16 R260). -/
def LRec.redOk (r : LRec) : Bool :=
  match r.rty with
  | 0 => r.esz == 1 || r.esz == 2
  | 1 | 2 => decide (r.esz ≤ 3)
  | 3 => r.esz == 1
  | _ => false

/-- The field checks of 16 R260, the index and the poison apart: `true` when they hold. -/
def LRec.usable (r : LRec) (u : RecUse) : Bool :=
  !r.rsv && decide (r.esz ≤ 4) && decide (r.rty ≤ 3) && (!r.win || decide (r.base < 2 ^ 32)) && decide (r.base % r.es = 0) &&
  (match u with
   | .cpin | .preload => true
   | .cpout red => !r.win && (!red || r.redOk)
   | .gather => r.x 2 == 1 && r.x 3 == 1
   | .scatter => !r.win && r.x 2 == 1 && r.x 3 == 1
   | .postload => !r.win && (r.red == 0 || r.redOk))

/-! ### Main memory -/

/-- Little-endian bytes as a number. -/
def leNat (bs : List Byte) : Nat := bs.foldr (fun b n => b.toNat + 256 * n) 0

/-- n little-endian bytes of a number. -/
def leBytes (n v : Nat) : List Byte := LRec.fillBytes.bytesOf n v

/-- The page that maps an address. -/
def State.page? (s : State) (a : Nat) : Option Page := s.pages.find? fun p => decide (p.va ≤ a ∧ a < p.va + p.size)

/-- Whether every byte of n from an address may be read (or written) by an engine: below 2^48, mapped, with the right
(10 R191, R192). -/
def State.mayRead (s : State) (a : Int) (n : Nat) : Bool :=
  decide (0 ≤ a) && (List.range n).all fun i => decide (a.toNat + i < 2 ^ 48) && (s.page? (a.toNat + i)).any Page.r

def State.mayWrite (s : State) (a : Int) (n : Nat) : Bool :=
  decide (0 ≤ a) && (List.range n).all fun i => decide (a.toNat + i < 2 ^ 48) && (s.page? (a.toNat + i)).any Page.w

/-- Whether a word of n bytes from an address holds a poison mark in a set of 8-byte words. -/
def poisonIn (marks : NSet) (a n : Nat) : Bool := marks.any fun w => decide (a / 8 ≤ w ∧ w * 8 < a + n)

/-- The marks of the 8-byte words that n bytes from an address reach, set. -/
def markPoison (marks : NSet) (a n : Nat) : NSet :=
  (List.range ((a + n - 1) / 8 + 1 - a / 8)).foldl (fun m i => NSet.add m (a / 8 + i)) marks

/-- The marks of the words that a set of written addresses covers whole, cleared (10 R182). -/
def clearCovered (marks : NSet) (addrs : List Nat) : NSet :=
  marks.filter fun w => !((List.range 8).all fun i => addrs.contains (8 * w + i))

/-- Words of main memory that n bytes from an address reach and that hold an uncorrectable error, met by a copy: they take the poison
mark, and the log an entry for each (10 R193). -/
def State.meet (s : State) (a n : Nat) : State :=
  (s.mbad.filter fun w => decide (a / 8 ≤ w ∧ w * 8 < a + n)).foldl (fun s w =>
    let die := ((s.page? (8 * w)).map Page.home).getD 0
    let s := { s with mpois := NSet.add s.mpois w, mbad := NSet.del s.mbad w }
    (s.logErr .uncorrectable die 0 (8 * w) []).logErr .poison die 0 (8 * w) []) s

/-- A page's place, and whether it covers an address. -/
def Page.covers (p : Page) (a : Nat) : Bool := decide (p.va ≤ a ∧ a < p.va + p.size)

/-- What a translation finds where no page is mapped: the smallest page around the address, without a right (10 R191). -/
def Page.absent (a : Nat) : Page := { va := a / 2 ^ 16 * 2 ^ 16, size := 2 ^ 16, r := false, w := false, home := 0, peers := [] }

/-- A translation miss of a page on a core (10 R192): the page enters the cache of 256 entries, whose oldest entry leaves
(notes/assumptions/53.md, DESIGN CHOICE); the service's time, which the spec does not give, is charged to the launch (22 R354). -/
def State.miss (s : State) (lid die core : Nat) (p : Page) : State :=
  match s.launch? lid with
  | none => s
  | some l =>
    let k := s.core die core
    let es := k.tcache ++ [p.va]
    let s := s.setCore die core { k with tcache := es.drop (es.length - 256) }
    (s.setLaunch { l with missing := max l.missing (s.cycle + Config.missTime s.fresh) }).bump

/-- An address translated for a command that has made the translations `seen` (10 R192, 16 R274): each page once, through the core's
cache. -/
def State.translate (s : State) (lid die core : Nat) (seen : List Page) (a : Int) : State × List Page :=
  if decide (a < 0) || decide ((2 : Int) ^ 48 ≤ a) || seen.any fun p => p.covers a.toNat then (s, seen)
  else match s.page? a.toNat with
  | none => (s, seen ++ [Page.absent a.toNat])
  | some p => (if (s.core die core).tcache.contains p.va then s else s.miss lid die core p, seen ++ [p])

/-- Addresses translated in order by one command. -/
def State.translateAll (s : State) (lid die core : Nat) (as : List Int) : State :=
  (as.foldl (fun q a => q.1.translate lid die core q.2 a) (s, [])).1

/-- A record's 64 bytes from the image's table (16 R259). -/
def State.recordBits (s : State) (im : Image) (r : Nat) : BitVec 512 :=
  BitVec.ofNat 512 (leNat (s.mem.readN (im.recs + 64 * r) 64))

/-- Words of records that hold an uncorrectable error, met by the read of them that a use makes (10 R193, 16 R260). -/
def State.metRecords (s : State) (im : Image) (rs : List Nat) : State :=
  (rs.filter fun r => decide (r < im.nrecs)).foldl (fun s r => s.meet (im.recs + 64 * r) 64) s

/-- The record check of 16 R260: the trap's cause, %taddr being the index, or the record. -/
def State.recordFor (s : State) (im : Image) (r : Nat) (u : RecUse) : Except Cause (BitVec 512) :=
  if im.nrecs ≤ r then .error 0x0A#8
  else if poisonIn s.mpois (im.recs + 64 * r) 64 then .error 0x07#8
  else
    let b := s.recordBits im r
    if (LRec.ofBits b).usable u then .ok b else .error 0x09#8

/-! ### Reductions of engine writes -/

/-- Smaller (`min`) or larger of two numbers, read as signed w-bit values where `sg`. -/
def pickInt (sg min : Bool) (w : Nat) (a b : Nat) : Nat :=
  let va : Int := if sg && decide (2 ^ (w - 1) ≤ a) then (a : Int) - 2 ^ w else a
  let vb : Int := if sg && decide (2 ^ (w - 1) ≤ b) then (b : Int) - 2 ^ w else b
  if min then (if vb < va then b else a) else (if va < vb then b else a)

/-- The floating-point format of a reducing record (16 R259). -/
def LRec.redFF (r : LRec) : FF := if r.rty = 3 then FF.bf16 else if r.esz = 1 then FF.f16 else FF.f32

/-- Apply (16 R268): 1 add, 2 min, 3 max at RTY and ESZ, anything else a store; floats round RNE. -/
def LRec.applyRed (r : LRec) (op : Nat) (m y : Nat) : Nat :=
  let w := 8 * r.es
  let isF := r.rty == 0 || r.rty == 3
  match op with
  | 1 => if isF then (r.redFF.add .rne m y).1 else (m + y) % 2 ^ w
  | 2 => if isF then (r.redFF.minmax true m y).1 else pickInt (r.rty == 1) true w m y
  | 3 => if isF then (r.redFF.minmax false m y).1 else pickInt (r.rty == 1) false w m y
  | _ => y

end Sys2Proof.Machine
end

