-- ==== Sys2Proof/Machine/Groups.lean ====
section
/-!
DEFINITION. The life of groups: keys and timestamps (12 R215 to R219), the least uncommitted key of a die (12 R231), placement
(08 R163, 17 R277), a group and its teams at dispatch (08 R164, R165; 01 R10), bins (12 R223), aborts and their cascades (11 R208,
12 R228), and the end of a group by a fault (20 R313).
-/
namespace Sys2Proof.Machine

/-- Entry d of a list of four, or a default. -/
def nth (l : List Nat) (d : Nat) (dflt : Nat := 0) : Nat := (l[d]?).getD dflt

/-- Position in row-major order, dimension 0 fastest. -/
def linear (ext idx : List Nat) : Nat :=
  (List.range 4).foldl (fun acc d => acc + nth idx d * prodL ((ext.take d).map fun e => e)) 0

/-! ### Timestamps and keys -/

/-- ts of a point (12 R215). -/
def Chart.tsAt (c : Chart) (crd : List Nat) : DWord :=
  (List.range 4).foldl (fun acc d => acc + ((c.tscoef[d]?).getD 0#64) * BitVec.ofNat 64 (nth crd d)) c.tsbase

/-- The corner of a box whose timestamp is the box's (12 R216). -/
def Chart.corner (c : Chart) (org ext : List Nat) : List Nat :=
  (List.range 4).map fun d =>
    if (((c.tscoef[d]?).getD 0#64).msb) then nth org d + nth ext d 1 - 1 else nth org d

/-- The extents of the space, 1 above the rank (08 R150). -/
def Chart.space (c : Chart) : List Nat := (List.range 4).map fun d => if d < c.rank then nth c.ext d else 1

/-- A key of KIND 0 (12 R217). -/
def cutKey (ts : DWord) (pos : Nat) : Key := ts ++ 0#1 ++ BitVec.ofNat 63 pos

/-- The digest of a key (12 R218). -/
def digest (k : Key) : BitVec 39 :=
  let x := k.extractLsb' 64 64 ^^^ k.extractLsb' 0 64
  (x ^^^ (x >>> 39)).setWidth 39

/-- A spawn index (12 R219). -/
def spawnIndex (team c lane : Nat) : BitVec 24 := BitVec.ofNat 24 (team * 2 ^ 18 + c * 2 ^ 10 + lane)

/-- A record's key (12 R222). -/
def recKey (ts : DWord) (parent : Key) (idx : BitVec 24) : Key := ts ++ 1#1 ++ digest parent ++ idx

/-- The smaller of two keys. -/
def minKey (a b : Key) : Key := if b.toNat < a.toNat then b else a

/-- The band dimension (08 R153). -/
def Chart.z (c : Chart) : Nat := c.rank - 1

/-- The bound for the space not yet formed into bands (12 R231); none once the last band is formed. -/
def Launch.restBound (l : Launch) (c : Chart) : Key :=
  let sp := c.space
  let z := c.z
  if nth sp z ≤ l.origin || c.rank == 0 then Key.none
  else
    let org := (List.range 4).map fun d => if d = z then l.origin else 0
    let ext := (List.range 4).map fun d => if d = z then nth sp z - l.origin else nth sp d 1
    cutKey (c.tsAt (c.corner org ext)) (l.origin * prodL (sp.take z))

/-- The home die: the lowest of the set (21 R328). -/
def Launch.home (l : Launch) : Nat := (l.dies.head?).getD 0

/-- The least uncommitted key that a die holds, the groups in transit from it included (12 R231, R232). -/
def State.dieLeast (s : State) (l : Launch) (c : Chart) (d : Nat) : Key :=
  let mine := (s.groupsOf l.id).filter fun g =>
    g.status != .done && (g.die == d || l.transit.any fun t => t.1 == g.gid && t.2.1 == d)
  let k := mine.foldl (fun k g => minKey k g.key) Key.none
  let k := (l.bins.filter fun b => b.die == d).foldl (fun k b => b.recs.foldl (fun k r => minKey k r.key) k) k
  if d == l.home then minKey k (l.restBound c) else k

/-! ### Placement -/

/-- The largest group volume (08 R146, R151). -/
def Chart.vmaxEff (c : Chart) : Nat := if c.vmax = 0 then (64 - c.stageTeams) * c.width else c.vmax

/-- Bytes of the window, of the handle area, of a team's spill area with what a translation keeps above it (22 R357), and of the team
buffers with the commit area, for the largest group (08 R163). -/
def Chart.areas (c : Chart) : List Nat :=
  let v := c.vmaxEff
  let teams := (v + c.width - 1) / c.width + c.stageTeams
  [(c.winfix + c.winpp * v + 63) / 64 * 64, 2 * c.hcount * c.hsize, teams * c.tbufBytes + c.commitBytes] ++
  List.replicate teams ((c.spill + c.kept) * c.width)

/-- Scratchpad bytes that a group reserves (08 R163). -/
def Chart.reservation (c : Chart) : Nat := c.areas.foldl (· + ·) 0

/-- Scratchpad bytes that a group takes with the alignment padding: every area from a multiple of 1 KiB on (10 R177). -/
def Chart.footprint (c : Chart) : Nat := c.areas.foldl (fun n a => n + (a + 1023) / 1024 * 1024) 0

/-- Scratchpad bytes of a core (10 R177). -/
def scratchBytes : Nat := 3 * 2 ^ 20

/-- Whether a group holds a core's reservation. -/
def Group.resident (g : Group) : Bool := g.status == .loading || g.status == .running || g.status == .ended

/-- The groups resident on a core. -/
def State.residents (s : State) (die core : Nat) : List Group :=
  s.groups.filter fun g => g.resident && g.die == die && g.core == core

/-- The count at which a team is to be placed whose vgrow moves its group (07 R142); 0 of any other, and while the group still stands
stopped where it was. -/
def Group.growOf (g : Group) (i : Nat) : Nat := if g.stop then 0 else ((g.grow.find? fun e => e.1 == i).map Prod.snd).getD 0

/-- Registers, teams and tiles that a slot's resident teams hold (07 R127, 17 R277), and whether a vgrow waits there. -/
structure SlotLoad where
  regs  : Nat
  teams : Nat
  tiles : Nat
  vgrow : Bool
  deriving DecidableEq, Repr

/-- The load of the four slots of a core. -/
def State.slotLoads (s : State) (die core : Nat) : List SlotLoad :=
  (List.range 4).map fun k =>
    (s.residents die core).foldl (fun acc g =>
      match (s.launch? g.launch).bind fun l => s.chartOf l g with
      | none => acc
      | some c => (g.teams.filter fun t => t.phase != .ended && t.slot == k).foldl (fun a t =>
          { regs := a.regs + c.width * max t.nregs (g.growOf t.idx), teams := a.teams + 1, tiles := a.tiles + c.width / 8 * c.tiles
            vgrow := a.vgrow || (match t.wait with
              | some (.vgrow _) => true
              | _ => false) }) acc) { regs := 0, teams := 0, tiles := 0, vgrow := false }

/-- Teams put on slots in index order: each on the slot with the most free registers among those with fewer than 16 teams,
the lowest on ties (08 R163); `none` when some team does not fit its slot. -/
def placeTeams (width tiles : Nat) (allowed : List Bool) : List SlotLoad → List Nat → Option (List Nat)
  | _, [] => some []
  | loads, n :: ns =>
    let cand := (List.range 4).filter fun k =>
      (allowed[k]?).getD false && (match loads[k]? with
        | some x => decide (x.teams < 16)
        | none => false)
    let better : Option Nat → Nat → Option Nat := fun best k => match best with
      | none => some k
      | some b => if ((loads[k]?).map SlotLoad.regs).getD 65536 < ((loads[b]?).map SlotLoad.regs).getD 65536 then some k else some b
    match cand.foldl better none with
    | none => none
    | some k =>
      match loads[k]? with
      | none => none
      | some x =>
        if x.regs + width * n ≤ 65536 && x.tiles + width / 8 * tiles ≤ 64 then
          (placeTeams width tiles allowed
            (loads.set k { x with regs := x.regs + width * n, teams := x.teams + 1, tiles := x.tiles + width / 8 * tiles }) ns).map
            (k :: ·)
        else none

/-- The load of an empty slot. -/
def SlotLoad.empty : SlotLoad := { regs := 0, teams := 0, tiles := 0, vgrow := false }

/-- Whether teams of the given register counts fit an empty core (07 R142, 08 R149, R163). -/
def Chart.fitsEmpty (c : Chart) (ns : List Nat) : Bool :=
  decide (c.footprint ≤ scratchBytes) &&
  (placeTeams c.width c.tiles [true, true, true, true] (List.replicate 4 SlotLoad.empty) ns).isSome

/-- The part of each core's export of a die that its launches' regions take, each from a multiple of 1 KiB on (10 R177, R183;
notes/assumptions/57.md, DEDUCED). -/
def State.exportUsed (s : State) (die : Nat) : Nat :=
  (s.launches.filter fun l => l.live && l.dies.contains die).foldl (fun n l => n + (l.dsize + 1023) / 1024 * 1024) 0

/-- Scratchpad in use on a core: the die regions, and what its residents take (10 R177). -/
def State.scratchUsed (s : State) (die core : Nat) : Nat :=
  s.exportUsed die + (s.residents die core).foldl (fun n g => n + (((s.launch? g.launch).bind fun l => s.chartOf l g).map Chart.footprint).getD 0) 0

/-- The positions that the teams of a slot hold (07 R143). -/
def State.positions (s : State) (die core slot : Nat) : List Nat :=
  (s.residents die core).flatMap fun g => (g.teams.filter fun t => t.phase != .ended && t.slot == slot).map Team.pos

/-- Positions for teams put on slots in order: each the lowest that is free on its slot. 07 R143 does not say how positions are given
(notes/assumptions/6.md, DESIGN CHOICE). -/
def freePos (taken : Nat → List Nat) : List Nat → List Nat
  | [] => []
  | k :: ks =>
    let p := ((List.range 16).find? fun i => !(taken k).contains i).getD 15
    p :: freePos (fun j => if j = k then p :: taken j else taken j) ks

/-- Register counts of the teams of a group that still need a slot: a saved group's live teams, or the Chart's; a team whose vgrow
moved the group counts as it asked (07 R142). -/
def Group.counts (g : Group) (c : Chart) : List Nat :=
  if g.saved then (g.teams.filter fun t => t.phase != .ended).map fun t => max t.nregs (g.growOf t.idx)
  else (List.range (c.pointTeams g + c.stageTeams)).map fun i => max c.regs (g.growOf i)

/-- Whether, and on which slots, a core accepts a group now (08 R163, 17 R277, 07 R142, 10 R181, 21 R340, R342). A slot where a vgrow
waits takes no team: the next best slot of R163 is taken (notes/assumptions/51.md, DEDUCED). -/
def State.plan (s : State) (g : Group) (c : Chart) (die core : Nat) : Option (List Nat) :=
  let k := s.core die core
  if k.removed || k.reset.isSome || decide (scratchBytes < s.scratchUsed die core + c.footprint) then none
  else
    let loads := s.slotLoads die core
    let allowed := (List.range 4).map fun i =>
      let x := s.slotOf (slotKey die core i)
      x.cap != .off && x.point != .off && !x.leaving && !((loads[i]?).map SlotLoad.vgrow).getD false
    placeTeams c.width c.tiles allowed loads (g.counts c)

/-! ### A group and its teams at dispatch -/

/-- The stage of a team index (08 R151): 0 for a point team. -/
def Chart.stageOf (c : Chart) (points i : Nat) : Nat :=
  if i < points then 0
  else if i < points + nth c.stages 0 then 1
  else if i < points + nth c.stages 0 + nth c.stages 1 then 2 else 3

/-- Scalars at team start: s32 to s63 hold the argument bytes (01 R10, R11). -/
def startScalars (args : List Byte) : Store SReg :=
  (List.range 32).foldl (fun m i =>
    Store.put { val := 0#64, poi := false } m (32 + i)
      { val := BitVec.ofNat 64 (leNat ((args.drop (8 * i)).take 8)), poi := false }) []

/-- Vector registers at team start: the record fields in a record group (01 R10, 12 R223), otherwise 0. -/
def startVectors (g : Group) (w i : Nat) : Store VReg :=
  if g.isRec then
    (List.range w).foldl (fun m l => match g.recs[i * w + l]? with
      | none => m
      | some r => (List.range 16).foldl (fun m j =>
          Store.put { val := 0#32, poi := false } m (vKey l j) { val := (r.words[j]?).getD 0#32, poi := false }) m) []
  else []

/-- A team at its start (01 R10, 11 R199). -/
def startTeam (l : Launch) (c : Chart) (g : Group) (i slot pos : Nat) : Team :=
  let w := c.width
  let st := c.stageOf (c.pointTeams g) i
  let pc := dwordOf (if st = 0 then c.entry else nth c.sent (st - 1))
  let mask := if st = 0 then lanesTo (min w (g.vol - i * w)) else lanesTo w
  let ss := startScalars l.args
  { idx := i, stage := st, phase := .waiting, slot := slot, pos := pos, nregs := c.regs
    v := startVectors g w i, p := [], s := ss, vx := [], px := [], sx := [], pc := pc, mask := mask, mstack := [], rstack := []
    flags := 0#32, tctl := 0#32, pend := [], loads := [], atoms := [], mats := [], late := false, busy := 0, earliest := 0, readySince := none
    promoted := none, yielding := none, wait := none, qturn := none, phaseBit := false, inhandler := false
    frame := Frame.none
    retry := none, held := none, noroll := false
    ckpt := { n := 0, k := 0, v := [], p := [], s := ss }
    resume := { pc := pc, mask := mask, depth := 0, rdepth := 0, tctl := 0#32 }
    buf := [], spill := [], spois := [], tiles := [], latch := { lv := false, regs := [] }, step := 0, spawns := 0
    burst := none, mburstAt := none, ramp := none, quota := none, t0 := 0 }

/-- The barriers at dispatch (08 R165): bN counts the point teams and the teams of the stages that BARST names. -/
def startBarriers (c : Chart) (g : Group) : List Barrier :=
  let points := c.pointTeams g
  (List.range 8).map fun n =>
    { members := (List.range (points + c.stageTeams)).filter fun i =>
        let st := c.stageOf points i
        st == 0 || c.barst / 2 ^ (3 * n + st - 1) % 2 == 1
      arrived := [], gen := false }

/-- A group's record set to what a dispatch starts from (08 R162, R164 step 1, 11 R208). A .d atomic not yet performed is discarded with its
team (notes/assumptions/70.md, DEDUCED). -/
def Group.cleared (g : Group) : Group :=
  { g with
    teams := [], window := [], wpois := [], harea := [], hpois := [], handles := [], cmds := [], carea := []
    contested := [], queues := [], bars := [], committers := [], turn := none, committed := false, gcommitted := false, freed := false
    written := [], nonspec := false, bkconf := 0, gconf := false, reads := []
    meas := Meas.zero, posts := none, pres := [], preFault := none, parked := none
    grace := none, stop := false, saved := false }

/-- A group put on a core: its dispatch (08 R162 to R165). -/
def Group.dispatched (g : Group) (l : Launch) (c : Chart) (core : Nat) (slots pos : List Nat) : Group :=
  let g := g.cleared
  { g with
    status := .loading, core := core
    teams := (List.range slots.length).map fun i => startTeam l c g i (nth slots i) (nth pos i)
    handles := List.replicate c.hcount Handle.free
    queues := List.replicate c.qcount { entries := [], allow := c.qdepth }
    bars := startBarriers c g
    nonspec := !c.ordered || (l.front[g.die]?).getD Key.none == g.key }

/-- A group that nothing has started, in a share. A record group's %cutno, which 01 R14 and 12 R223 do not give, reads 0
(notes/assumptions/43.md, DESIGN CHOICE). -/
def Group.fresh (gid launch chart : Nat) : Group :=
  { gid := gid, launch := launch, chart := chart, isRec := false, recs := [], key := 0#128, ts := 0#64, org := [0, 0, 0, 0]
    ext := [1, 1, 1, 1], cutno := 0, status := .share, saved := false, die := 0, core := 0, teams := [], window := [], wpois := []
    harea := [], hpois := [], handles := [], cmds := [], carea := [], contested := [], queues := [], bars := []
    committers := [], turn := none, committed := false, gcommitted := false, freed := false, written := [], nonspec := false, bkconf := 0
    gconf := false, reads := [], meas := Meas.zero, drawn := false, drawAt := 0
    posts := none, pres := [], preFault := none, parked := none, grow := [], grace := none, stop := false }

/-- A launch of a Chart of an image, with nothing of it formed. -/
def Launch.fresh (id image chart : Nat) : Launch :=
  { id := id, image := image, chart := chart, args := [], budget := 0, stamp := 0, dies := [], dsize := 0, nc := 0, load := none
    save := none, preds := [], bkpt := 0#16, sample := 0, sampled := [0, 0, 0, 0], session := 0, tag := 0#64, phase := .admitted
    status := .pending, saved := false, loaded := [], savedTo := 0, shape := [], bearing := 0, cutno := 0, origin := 0, bandAt := 0, scriptN := 0, script := []
    shares := [[], [], [], []], seen := [[], [], [], []], steals := [none, none, none, none], inbox := [], replies := []
    exchanged := [0, 0, 0, 0], fwd := [], held := [], draws := 0, dvol := 0, markVol := 0, bins := []
    reports := [Key.none, Key.none, Key.none, Key.none], reported := [0, 0, 0, 0]
    front := [Key.none, Key.none, Key.none, Key.none], transit := [], faults := [], nfaults := 0, races := 0, region := []
    rpois := [], acct := [0, 0, 0, 0, 0], missing := 0, cont := 0 }

/-! ### Shares -/

/-- A group entering dispatch again: at the head of its die's share (21 R332). -/
def Launch.requeue (l : Launch) (die gid : Nat) : Launch :=
  { l with shares := l.shares.set die (gid :: (l.shares[die]?).getD []) }

/-- The ranks of the operations on a die's share that arrive in one cycle (21 R333): fetch-and-adds by core, steal requests by thief,
arrivals. -/
def drawRank (core : Nat) : Nat := core
def stealRank (thief : Nat) : Nat := 64 + thief
def arrivalRank : Nat := 68

/-- Whether a die's distributor has served nothing yet in this cycle that comes after an operation of a rank (21 R333). -/
def State.deskFree (s : State) (die rank : Nat) : Bool :=
  (s.desks[die]?).all fun d => decide (d.1 < s.cycle ∨ d.2 ≤ rank)

/-- An operation of a die's distributor noted: of those of one cycle the one that comes last in R333's order stands. -/
def State.atDesk (s : State) (die rank : Nat) : State :=
  let last := match s.desks[die]? with
    | some d => if d.1 = s.cycle then d.2 else 0
    | none => 0
  { s with desks := s.desks.set die (s.cycle, max last rank) }

/-- A group put at the head of the share of its die. -/
def State.requeueGroup (s : State) (g : Group) : State :=
  match s.launch? g.launch with
  | none => s
  | some l => (s.setLaunch (l.requeue g.die g.gid)).atDesk g.die arrivalRank

/-! ### Bins -/

/-- The Chart bound to a node, by index (12 R220). -/
def Image.nodeChart (im : Image) (node : Nat) : Option Nat :=
  (List.range im.charts.length).find? fun i => match im.charts[i]? with
    | some c => c.nodeb && c.node == node
    | none => false

/-- A bin of a die and node. -/
def Launch.bin (l : Launch) (die node : Nat) : Bin :=
  (l.bins.find? fun b => b.die == die && b.node == node).getD { die := die, node := node, recs := [], timers := [] }

/-- A bin written back; an empty one is dropped. -/
def Launch.setBin (l : Launch) (b : Bin) : Launch :=
  let rest := l.bins.filter fun x => !(x.die == b.die && x.node == b.node)
  { l with bins := if b.recs.isEmpty then rest else rest ++ [b] }

/-- The set of records that a timestamp names: all of them in an unordered launch (12 R223). -/
def Bin.set (b : Bin) (ts : Option DWord) : List Rec :=
  match ts with
  | none => b.recs
  | some t => b.recs.filter fun r => r.ts == t

/-- Records put in a bin: the timer of a set starts when its first record arrives (12 R223), and one that runs stands where records return
(notes/assumptions/69.md, DEDUCED). -/
def Bin.add (b : Bin) (ordered : Bool) (now : Nat) (r : Rec) : Bin :=
  let k : Option DWord := if ordered then some r.ts else none
  { b with
    recs := b.recs ++ [r]
    timers := if b.timers.any fun t => t.1 == k then b.timers else b.timers ++ [(k, now)] }

/-- A record inserted by ascending key, before the first larger one. -/
def insertByKey (r : Rec) : List Rec → List Rec
  | [] => [r]
  | x :: xs => if r.key.toNat < x.key.toNat then r :: x :: xs else x :: insertByKey r xs

/-- Records in ascending key order; of records of equal keys, whose order 12 R223 does not give, the later arrival first
(notes/assumptions/71.md, DESIGN CHOICE). -/
def sortByKey (rs : List Rec) : List Rec := rs.foldr insertByKey []

/-- A record group launched from a bin (12 R223): the oldest records in an unordered launch, those of least key in an ordered one;
the records left start a new timer. The group enters the head of its die's share (21 R332). -/
def State.binLaunch (s : State) (l : Launch) (im : Image) (die node : Nat) (ts : Option DWord) : State :=
  let b := l.bin die node
  match im.nodeChart node, im.nodes[node]? with
  | some ci, some (count, _) =>
    let all := b.set ts
    let chosen := if ts.isSome then (sortByKey all).take count else all.take count
    if chosen.isEmpty then s
    else
      let rest := b.recs.filter fun r => !chosen.contains r
      let timers := b.timers.filter fun t => t.1 != ts
      let left := match ts with
        | none => !rest.isEmpty
        | some t => rest.any fun r => r.ts == t
      let b' : Bin := { b with recs := rest, timers := if left then timers ++ [(ts, s.cycle)] else timers }
      let g : Group :=
        { Group.fresh s.nextId l.id ci with
          isRec := true, recs := chosen, key := chosen.foldl (fun k r => minKey k r.key) Key.none
          ts := chosen.foldl (fun t r => if r.ts.toNat < t.toNat then r.ts else t) (BitVec.allOnes 64)
          ext := [chosen.length, 1, 1, 1], die := die }
      let l := (l.setBin b').requeue die g.gid
      { (s.setLaunch l).atDesk die arrivalRank with nextId := s.nextId + 1, groups := s.groups ++ [g] }
  | _, _ => s

/-- The set a record belongs to. -/
def Rec.setKey (r : Rec) (ordered : Bool) : Option DWord := if ordered then some r.ts else none

/-- Whether a set of a bin launches as it stands (12 R223, R230): it holds the coalescing count of records, or its least key is the
frontier that the die holds. No bin launches once dispatch has stopped (20 R324). -/
def Launch.binRipe (l : Launch) (im : Image) (die node : Nat) (ts : Option DWord) : Bool :=
  let rs := (l.bin die node).set ts
  l.phase == .dispatching && ((im.nodes[node]?).any fun n => decide (n.1 ≤ rs.length)) ||
  l.phase == .dispatching && ts.isSome && rs.any fun r => (l.front[die]?).getD Key.none == r.key

/-- A set of a bin launched as long as it is ripe, at most k times. -/
def State.binFlush (s : State) (lid die node : Nat) (ts : Option DWord) : Nat → State
  | 0 => s
  | k + 1 =>
    match s.launch? lid with
    | none => s
    | some l =>
      match s.image? l.image with
      | none => s
      | some im => if l.binRipe im die node ts then (s.binLaunch l im die node ts).binFlush lid die node ts k else s

/-- A record entered into a bin (12 R222, R223). -/
def State.binEnter (s : State) (lid : Nat) (ordered : Bool) (die node : Nat) (r : Rec) : State :=
  match s.launch? lid with
  | none => s
  | some l =>
    let b := (l.bin die node).add ordered s.cycle r
    (s.setLaunch (l.setBin b)).binFlush lid die node (r.setKey ordered) b.recs.length

/-- Every set of a die's bins launched that is ripe (12 R230). -/
def State.binsFlush (s : State) (lid die : Nat) : State :=
  match s.launch? lid with
  | none => s
  | some l => (l.bins.filter fun b => b.die == die).foldl (fun s b =>
      b.timers.foldl (fun s t => s.binFlush lid die b.node t.1 b.recs.length) s) s

/-! ### Aborts -/

/-- The record groups that hold a record of a task of the set, and the set itself, to a fixed depth: the descendants
(12 R228), those that have committed or ended among them. -/
def descendants (gs : List Group) : Nat → List Nat → List Nat
  | 0, set => set
  | n + 1, set =>
    let more := (gs.filter fun g => g.isRec && !set.contains g.gid &&
      g.recs.any fun r => set.contains r.parent).map Group.gid
    if more.isEmpty then set else descendants gs n (set ++ more)

/-- A group taken out of every list that may start it: shares and local lists. -/
def State.unlist (s : State) (gid : Nat) : State :=
  { s with
    launches := s.launches.map fun l => { l with shares := l.shares.map fun sh => sh.filter (· != gid) }
    cores := s.cores.map fun c => (c.1, { c.2 with drawn := c.2.drawn.filter (· != gid) }) }

/-- The records of bins whose parent is in a set of tasks, withdrawn (12 R228). -/
def State.withdraw (s : State) (lid : Nat) (set : List Nat) : State :=
  match s.launch? lid with
  | none => s
  | some l =>
    let bins := (l.bins.map fun b => { b with recs := b.recs.filter fun r => !set.contains r.parent }).filter fun b => !b.recs.isEmpty
    s.setLaunch { l with bins := bins.map fun b => { b with timers := b.timers.filter fun t => !(b.set t.1).isEmpty } }

/-- A descendant record group aborted: it leaves the active groups, and its records of no aborted parent return to their bin on its
die (12 R228, notes/assumptions/42.md). One that has committed stands (12 R229, 20 R313). -/
def State.dropDescendant (s : State) (ordered : Bool) (set : List Nat) (gid : Nat) : State :=
  match s.group? gid with
  | none => s
  | some g =>
    if g.committed || g.status == .done then s
    else
      let s := (s.unlist gid).setGroup { g.cleared with status := .done, recs := [] }
      match (s.launch? g.launch).bind (fun l => s.chartOf l g) with
      | none => s
      | some c => (g.recs.filter fun r => !set.contains r.parent).foldl (fun s r => s.binEnter g.launch ordered g.die c.node r) s

/-- Every descendant of a task that has not committed aborted, the task itself apart (12 R228, 20 R313). -/
def State.abortDescendants (s : State) (lid gid : Nat) (ordered : Bool) : State :=
  let set := descendants s.groups s.groups.length [gid]
  let s := s.withdraw lid set
  (set.filter (· != gid)).foldl (fun s x => s.dropDescendant ordered set x) s

/-- The measures that a cut group has filed, changed wherever they stand, or taken back (08 R157). -/
def State.refile (s : State) (g : Group) (f : Meas → Option Meas) : State :=
  if g.isRec || g.status != .ended then s
  else
    let on (m : Meas) : Option Meas := if m.key == g.key then f m else some m
    { s with
      launches := s.launches.map fun l =>
        if l.id == g.launch then
          { l with
            fwd := l.fwd.filterMap fun e => (on e.2.1).map fun m => (e.1, m, e.2.2)
            held := l.held.filterMap fun e => (on e.1).map fun m => (m, e.2) }
        else l
      packets := s.packets.filterMap fun p => match p.what with
        | .measure l m v => if l == g.launch then (on m).map fun m => { p with what := .measure l m v } else some p
        | _ => some p }

/-- The measures that a cut group has filed, taken back (08 R157). -/
def State.unmeasure (s : State) (g : Group) : State := s.refile g fun _ => none

/-- A group discarded and re-dispatched from step 1 (11 R208, 12 R228), its descendants aborted: gabort without its checks. -/
def State.abortGroup (s : State) (gid : Nat) : State :=
  match s.group? gid with
  | none => s
  | some g =>
    match (s.launch? g.launch).bind (fun l => s.chartOf l g) with
    | none => s
    | some c =>
      let s := (s.unmeasure g).abortDescendants g.launch gid c.ordered
      let s := s.unlist gid
      (s.setGroup { g.cleared with status := .share }).requeueGroup g

/-- An entry appended to the launch status (20 R313, 22 R351): beyond 64 faults are counted, not listed. -/
def Launch.addFault (l : Launch) (f : FaultEntry) : Launch :=
  { l with nfaults := l.nfaults + 1, faults := if l.faults.length < 64 then l.faults ++ [f] else l.faults }

/-- A group ended without a commit: out of the active groups, its descendants aborted (20 R313); measures of a cut group whose
teams have started count as ended, and those of one whose teams had ended hold no drain or postload, which move nothing (08 R157). Drains
that an earlier commit has applied go on to their end. -/
def State.dropGroup (s : State) (gid : Nat) : State :=
  match s.group? gid with
  | none => s
  | some g =>
    match (s.launch? g.launch).bind (fun l => s.chartOf l g) with
    | none => s
    | some c =>
      let s := (s.refile g fun m => some { m with bytes := g.meas.bytes }).abortDescendants g.launch gid c.ordered
      let s := s.unlist gid
      let started := g.status == .running
      let s := s.setGroup { g.cleared with status := .done, written := g.written }
      match s.launch? g.launch with
      | none => s
      | some l =>
        if started && !g.isRec then
          let m := { g.meas with dur := s.cycle - g.meas.start, key := g.key }
          s.setLaunch { l with fwd := l.fwd ++ [(g.die, m, g.vol)] }
        else s

/-- EndGroup (20 R313): the fault recorded with the group's key, and the group ended. -/
def State.endGroup (s : State) (gid : Nat) (cause : Cause) (team : Word) (iaddr addr : DWord) : State :=
  match s.group? gid with
  | none => s
  | some g =>
    let s := s.dropGroup gid
    match s.launch? g.launch with
    | none => s
    | some l => s.setLaunch (l.addFault { cause := cause, team := team, key := g.key, iaddr := iaddr, taddr := addr })

/-- %team of a fault that no team raises (20 R313). -/
def noTeamWord : Word := 0xFFFFFFFF#32

end Sys2Proof.Machine
end

