-- ==== Sys2Proof/Machine/Net.lean ====
section
/-!
DEFINITION. The on-package network: routes (21 R334, R335), and a packet's acceptance (R337 to R339).
-/
namespace Sys2Proof.Machine

/-- A router: die and core. -/
abbrev RouterAt := Nat × Nat

/-- Routers of one row of a die from column a to column b. -/
def rowWalk (die y a b : Nat) : List RouterAt :=
  if a ≤ b then (List.range (b - a + 1)).map fun i => (die, 8 * y + (a + i))
  else (List.range (a - b + 1)).map fun i => (die, 8 * y + (a - i))

/-- Routers of one column of a die from row a to row b. -/
def colWalk (die x a b : Nat) : List RouterAt :=
  if a ≤ b then (List.range (b - a + 1)).map fun i => (die, 8 * (a + i) + x)
  else (List.range (a - b + 1)).map fun i => (die, 8 * (a - i) + x)

/-- The route of a packet (21 R335): the die's x first, then its y, then x and y within the destination die. -/
def route (src dst : RouterAt) : List RouterAt :=
  let x0 := src.2 % 8
  let y0 := src.2 / 8
  let dx := dst.1 % 2
  let first := src.1 % 2 != dx
  let edgeX := if first then (if src.1 % 2 < dx then 7 else 0) else x0
  let leg1 := rowWalk src.1 y0 x0 edgeX
  let d1 := if first then src.1 / 2 * 2 + dx else src.1
  let x1 := if first then (if src.1 % 2 < dx then 0 else 7) else x0
  let second := src.1 / 2 != dst.1 / 2
  let edgeY := if second then (if src.1 / 2 < dst.1 / 2 then 7 else 0) else y0
  let leg2 := colWalk d1 x1 y0 edgeY
  let y1 := if second then (if src.1 / 2 < dst.1 / 2 then 0 else 7) else y0
  let leg3 := rowWalk dst.1 y1 x1 (dst.2 % 8)
  let leg4 := colWalk dst.1 (dst.2 % 8) y1 (dst.2 / 8)
  (leg1 ++ leg2 ++ leg3 ++ leg4).eraseDups

/-- The router of a die's distributor: not given; core 0's (notes/assumptions/8.md, DESIGN CHOICE). -/
def distRouter (die : Nat) : RouterAt := (die, 0)

/-- The route of a packet between two dies' distributors. -/
def Packet.route (p : Packet) : List RouterAt := Sys2Proof.Machine.route (distRouter p.src) (distRouter p.dst)

/-- Whether a packet in flight is routed through a router. -/
def State.routed (s : State) (r : RouterAt) : Bool := s.packets.any fun p => p.route.contains r

/-- A router's idle count started again, where it is up (21 R339). -/
def State.touch (s : State) (r : RouterAt) : State :=
  let v := s.router r.1 r.2
  if v.down then s else s.setRouter r.1 r.2 { v with idle := s.cycle }

/-- A packet accepted (21 R338): in a drain phase nothing is injected, so its acceptance waits for the phase's end (R337). -/
def State.send (s : State) (src dst : Nat) (what : Parcel) : State :=
  let p : Packet := { id := s.nextId, src := src, dst := dst, at_ := s.drain.getD s.cycle, what := what }
  p.route.foldl State.touch { s with packets := s.packets ++ [p], nextId := s.nextId + 1 }

/-- Whether a router takes flits now. -/
def State.routerUp (s : State) (r : RouterAt) : Bool :=
  let v := s.router r.1 r.2
  !v.down && (match v.waking with
    | none => true
    | some t => decide (t ≤ s.cycle))

/-- The island of a die's network, of its control unit, and of the row of a core (21 R341). -/
def netIsland (die : Nat) : Nat := 1024 + 10 * die + 8
def ctlIsland (die : Nat) : Nat := 1024 + 10 * die + 9
def rowIsland (die core : Nat) : Nat := 1024 + 10 * die + core / 8

/-- Whether a row, network or control island is ON: not in RETAIN, and not on its way back (21 R342). -/
def State.islandOn (s : State) (i : Nat) : Bool := !s.retain.contains i && !(s.waking.any fun w => w.1 == i && decide (s.cycle < w.2))

/-- Whether the control, network and row islands of a die are ON (21 R342). -/
def State.dieOn (s : State) (die : Nat) : Bool :=
  s.islandOn (ctlIsland die) && s.islandOn (netIsland die) && (List.range 8).all fun k => s.islandOn (rowIsland die (8 * k))

/-- Whether a packet may be delivered (21 R338, R339, R342): accepted, its routers up, the dies' networks and the unit that takes it on. -/
def State.deliverable (s : State) (id : Nat) : Option Packet :=
  match s.packets.find? fun p => p.id == id with
  | none => none
  | some p =>
    if decide (p.at_ ≤ s.cycle) && p.route.all s.routerUp && p.route.all (fun r => s.islandOn (netIsland r.1)) &&
        s.islandOn (ctlIsland p.dst) then some p else none

end Sys2Proof.Machine
end

