-- ==== Sys2Proof/Machine/Commit.lean ====
section
/-!
DEFINITION. Write buffers and commits: the team buffer (11 R196 to R198), the commit area and the group commit with its races,
conflicts and drains (11 R204 to R210, 12 R228, 16 R268), and the combining functions of atomics (13 R240, R246).
-/
namespace Sys2Proof.Machine

/-! ### Combining functions -/

/-- The new word of atom and red (13 R240). -/
def atomInt (op : BitVec 4) (m b c : Word) : Word :=
  match op.toNat with
  | 0 => m + b
  | 1 => if m.toInt ≤ b.toInt then m else b
  | 2 => if m.toNat ≤ b.toNat then m else b
  | 3 => if m.toInt ≤ b.toInt then b else m
  | 4 => if m.toNat ≤ b.toNat then b else m
  | 5 => m &&& b
  | 6 => m ||| b
  | 7 => m ^^^ b
  | 8 => b
  | 9 => if m = c then b else m
  | _ => if b.toNat ≤ m.toNat then 0#32 else m + 1#32

/-- The new word of atomf and redf with its flags (13 R240): RNE whatever %tctl.RM holds. -/
def atomFlt (op : BitVec 4) (m b : Word) : Word × Word :=
  let r := match op.toNat with
    | 0 => FF.f32.add .rne m.toNat b.toNat
    | 1 => FF.f32.minmax true m.toNat b.toNat
    | _ => FF.f32.minmax false m.toNat b.toNat
  (BitVec.ofNat 32 r.1, r.2)

/-- F of 13 R243 and R246. -/
def atomF (isF : Bool) (op : BitVec 4) (m b c : Word) : Word × Word :=
  if isF then atomFlt op m b else (atomInt op m b c, 0#32)

/-! ### Entries -/

namespace Entry

/-- The byte that an entry holds at an offset. -/
def byte? (e : Entry) (ofs : Nat) : Option Byte := (e.bytes.find? fun x => x.1 == ofs).map Prod.snd

/-- The reduction that an entry holds on a word. -/
def red? (e : Entry) (w : Nat) : Option RedVal := (e.reds.find? fun x => x.1 == w).map Prod.snd

/-- Whether the entry is of a granule. -/
def isAt (e : Entry) (sp : Space) (gran : Nat) : Bool := e.sp == sp && e.gran == gran

/-- Whether bytes stand in a word of the entry. -/
def bytesIn (e : Entry) (w : Nat) : Bool := e.bytes.any fun x => x.1 / 4 == w

/-- Two pending reductions that combine (13 R246). -/
def sameRed (a b : RedVal) : Bool := a.isF == b.isF && a.op == b.op && a.bound == b.bound

/-- Whether content of another kind stands in the way of an entry's bytes and reductions (13 R246, mixed content). -/
def mixes (e new : Entry) : Bool :=
  (new.bytes.any fun x => (e.red? (x.1 / 4)).isSome) ||
  (new.reds.any fun x => e.bytesIn x.1 || (e.red? x.1).any fun r => !sameRed r x.2)

/-- A pending reduction combined into an entry: p := F(op, p, b), the first operand becoming p (13 R246), with its flags. -/
def addRed (e : Entry) (w : Nat) (r : RedVal) : Entry × Word :=
  match e.red? w with
  | none => ({ e with reds := Store.insert e.reds w r }, 0#32)
  | some p =>
    let x := atomF r.isF r.op p.val r.val 0#32
    ({ e with reds := Store.insert e.reds w { p with val := x.1 } }, x.2)

/-- The words of an entry that stay poisoned when bytes are written into it: those not written whole (10 R182). -/
def poiAfter (e : Entry) (bs : List (Nat × Byte)) : NSet :=
  e.poi.filter fun w => !(List.range 8).all fun i => bs.any fun x => x.1 == 8 * w + i

/-- Another entry's bytes and reductions put into an entry: the later write wins each byte (11 R197, R200). -/
def merge (e new : Entry) : Entry × Word :=
  let e := { e with
    bytes := new.bytes.foldl (fun bs x => Store.insert bs x.1 x.2) e.bytes
    poi := new.poi.foldl NSet.add (e.poiAfter new.bytes) }
  new.reds.foldl (fun acc x => let r := acc.1.addRed x.1 x.2; (r.1, acc.2 ||| r.2)) (e, 0#32)

end Entry

/-- The entry of a granule in a buffer. -/
def findEntry (es : List Entry) (sp : Space) (gran : Nat) : Option Entry := es.find? fun e => e.isAt sp gran

/-- An entry put in its place, or at the end. -/
def putEntry (es : List Entry) (e : Entry) : List Entry :=
  if es.any fun x => x.isAt e.sp e.gran then es.map fun x => if x.isAt e.sp e.gran then e else x else es ++ [e]

/-! ### The storage of a group -/

/-- Where an entry's byte stands in the storage it names. -/
def Entry.addr (e : Entry) (ofs : Nat) : Nat := e.gran * 64 + ofs

/-- Bytes written into the window or the handle area: whole words lose their poison mark (10 R182). -/
def Group.writeLoc (g : Group) (sp : Space) (bs : List (Nat × Byte)) : Group :=
  match sp with
  | .win =>
    { g with
      window := bs.foldl (fun m x => m.write x.1 x.2) g.window
      wpois := clearCovered g.wpois (bs.map Prod.fst) }
  | .slot =>
    { g with
      harea := bs.foldl (fun m x => m.write x.1 x.2) g.harea
      hpois := clearCovered g.hpois (bs.map Prod.fst) }
  | .die _ => g

/-- Key of a byte of the die region: die, core and offset (10 R184). -/
def regionKey (die : Nat) (a : Nat) : Nat := die * 2 ^ 28 + a / 2 ^ 26 * 2 ^ 22 + a % 2 ^ 22

/-- Granule of a die-space address. -/
def dieGran (a : Nat) : Nat := regionKey 0 a / 64

/-- Bytes written into the die region (10 R182). -/
def Launch.writeRegion (l : Launch) (bs : List (Nat × Byte)) : Launch :=
  { l with
    region := bs.foldl (fun m x => m.write x.1 x.2) l.region
    rpois := clearCovered l.rpois (bs.map Prod.fst) }

/-- A granule dropped from the remote-read caches of a die's cores (10 R189, R190). -/
def State.dropLines (s : State) (l die : Nat) (grans : List Nat) : State :=
  { s with cores := s.cores.map fun c =>
      if c.1 / 64 == die then (c.1, { c.2 with rcache := c.2.rcache.filter fun x => !(x.1 == l && grans.contains x.2) }) else c }

/-- The words of a storage that an entry's poisoned words reach, marked (10 R182). -/
def Entry.mark (e : Entry) (base : Nat) (marks : NSet) : NSet :=
  (e.poi.filter fun w => (e.bytes.any fun x => x.1 / 8 == w) || e.reds.any fun x => x.1 / 2 == w).foldl (fun m w => NSet.add m ((base + e.gran * 64) / 8 + w)) marks

/-- An entry written into the window or the handle area. -/
def Group.writeEntry (g : Group) (e : Entry) : Group :=
  let g := g.writeLoc e.sp (e.bytes.map fun b => (e.addr b.1, b.2))
  match e.sp with
  | .win => { g with wpois := e.mark 0 g.wpois }
  | .slot => { g with hpois := e.mark 0 g.hpois }
  | .die _ => g

/-! ### Drains -/

/-- Whether a command writes main memory. -/
def CmdKind.drain : CmdKind → Bool
  | .cpout _ | .scatter => true
  | _ => false

/-- The operator code of a drain (16 R268). -/
def CmdKind.rop : CmdKind → Nat
  | .cpout .add => 1
  | .cpout .min => 2
  | .cpout .max => 3
  | _ => 0

/-- (main-memory address, byte of the dense image) of each element that a cpout or a postload writes, in element order
(16 R261). -/
def LRec.drainMap (r : LRec) (off : Int) : List (Int × Nat) := r.indices.map fun i => (r.addr off i, r.dense i * r.es)

/-- The same of a scatter, or of a gather's reads: row k of lane L[k], rows out of bounds left out (16 R267, R268). -/
def LRec.rowMap (r : LRec) (idx : List Word) : List (Int × Nat) :=
  (List.range idx.length).flatMap fun k =>
    let x := ((idx[k]?).getD 0#32).toNat
    if x < r.x 1 then (List.range (r.x 0)).map fun j => (r.addr 0 (j, x, 0, 0), k * r.rowBytes + j * r.es) else []

/-- The elements that a command moves. -/
def Cmd.map (c : Cmd) : List (Int × Nat) :=
  let r := LRec.ofBits c.lrec
  match c.kind with
  | .cpin | .cpout _ | .fetch _ _ => r.drainMap c.off
  | .gather | .scatter => r.rowMap c.idx

/-- The main-memory granules that a non-reducing write of the elements reaches (11 R204). -/
def mainGrans (m : List (Int × Nat)) : List Nat := (m.map fun x => x.1.toNat / 64).eraseDups

/-- One element written to main memory (16 R268): `src` and `poi` are the storage it comes from, `base` its offset there, `acc` the
state with the addresses that the command's clean elements have covered. A reduction onto a poisoned word writes nothing; a poisoned
source word marks the destination; a word that clean elements cover whole loses its mark (10 R182). -/
def LRec.writeElem (r : LRec) (op : Nat) (src : Memory) (poi : NSet) (base : Nat) (acc : State × List Nat) (x : Int × Nat) :
    State × List Nat :=
  let a := x.1.toNat
  let s := if op = 0 then acc.1 else acc.1.meet a r.es
  if op ≠ 0 ∧ poisonIn s.mpois a r.es then (s, acc.2)
  else
    let y := leNat (src.readN (base + x.2) r.es)
    let s := { s with mem := s.mem.writeN a (leBytes r.es (r.applyRed op (leNat (s.mem.readN a r.es)) y)) }
    if poisonIn poi (base + x.2) r.es then
      ({ s with mpois := markPoison s.mpois a r.es }, acc.2.filter fun b => !decide (a / 8 ≤ b / 8 ∧ b / 8 * 8 < a + r.es))
    else
      let cov := acc.2 ++ (List.range r.es).map fun i => a + i
      ({ s with mpois := clearCovered s.mpois cov, mbad := clearCovered s.mbad cov }, cov)

/-- Elements written to main memory in order (16 R268). -/
def State.writeMain (s : State) (r : LRec) (op : Nat) (m : List (Int × Nat)) (src : Memory) (poi : NSet) (base : Nat) : State :=
  (m.foldl (r.writeElem op src poi base) (s, [])).1

/-- A drain's write at the commit point (16 R268). -/
def State.applyDrain (s : State) (g : Group) (c : Chart) (cmd : Cmd) : State :=
  s.writeMain (LRec.ofBits cmd.lrec) cmd.kind.rop cmd.map g.harea g.hpois (cmd.slot * c.hsize)

/-- The drains of a group, in acceptance order. -/
def Group.drains (g : Group) : List Cmd := g.cmds.filter fun c => c.kind.drain

/-- The bank conflicts of the batches that read a place of the window or of the handle area: none where the elements lie one after
another, at most one for each element beyond the first otherwise; how the engine batches them is not given (10 R179,
notes/assumptions/2.md). A record with PAD 0 counts as lying so, rows left out or not (notes/assumptions/73.md, DESIGN CHOICE). -/
def LRec.readConf (r : LRec) (base : Nat) (m : List (Int × Nat)) : Nat :=
  if r.pad = 0 then 0 else min (Config.winBatchConf (m.map fun e => ((base + e.2 : Nat) : Int)) r.es) (m.length - 1)

/-- The bank conflicts of a drain's reads of its slot (10 R179). -/
def Cmd.drainConf (k : Cmd) (hsize : Nat) : Nat := (LRec.ofBits k.lrec).readConf (k.slot * hsize) k.map

/-- Main-memory bytes that a group's drains move (08 R157). -/
def Group.drainBytes (g : Group) : Nat := g.drains.foldl (fun n d => n + d.map.length * (LRec.ofBits d.lrec).es) 0

/-! ### Group commit -/

/-- Whether a group is speculative (12 R224). -/
def State.specOf (l : Launch) (c : Chart) (g : Group) : Bool :=
  c.ordered && !g.nonspec && ((l.front[g.die]?).getD Key.none != g.key)

/-- Whether the tasks that spawned a record group's records have ended, or have parked after their group commit (11 R204,
12 R229). -/
def State.parentsDone (s : State) (g : Group) : Bool :=
  g.recs.all fun r => match s.group? r.parent with
    | none => true
    | some p => p.status == .done || p.freed

/-- Whether a group commit may go on: its waits of 11 R204, 16 R268 and, for the final one, 08 R164 have ended. An implicit one of
11 R207 is a group commit of R204, and waits for the parents of a record group as any other (12 R229; notes/assumptions/59.md, DEDUCED). -/
def State.commitReady (s : State) (gid : Nat) (final : Bool) : Bool :=
  match s.group? gid with
  | none => false
  | some g =>
    match s.launch? g.launch with
    | none => false
    | some l =>
      match s.chartOf l g with
      | none => false
      | some c =>
        !State.specOf l c g && (c.ordered || s.parentsDone g) &&
        (g.drains.all fun d => !((g.handles[d.hdl]?).map Handle.chk).getD false) &&
        (!final || g.posts.isSome || c.post.all Option.isNone)

/-- The postloads whose checks passed: record snapshot and window offset, POST0 first (08 R164). -/
def Group.goodPosts (g : Group) (c : Chart) : List (BitVec 512 × Nat) :=
  (c.post.zip (g.posts.getD [])).filterMap fun x => match x.1, x.2 with
    | some (_, ofs), some k => if k.fault.isNone then some (k.lrec, ofs) else none
    | _, _ => none

/-- The granules that a group's commit writes to main memory without a reduction (11 R204). -/
def Group.mainWrites (g : Group) (c : Chart) (final : Bool) : List Nat :=
  ((g.drains.filter fun d => d.kind.rop == 0).flatMap fun d => mainGrans d.map) ++
  (if final then (g.goodPosts c).flatMap fun p =>
     if (LRec.ofBits p.1).red == 0 then mainGrans ((LRec.ofBits p.1).drainMap 0) else []
   else [])

/-- The ranges of bytes that the same writes cover, for the conflict check (12 R228). -/
def Group.mainBytes (g : Group) (c : Chart) (final : Bool) : List (Nat × Nat) :=
  ((g.drains.filter fun d => d.kind.rop == 0).flatMap fun d =>
    d.map.map fun x => (x.1.toNat, x.1.toNat + (LRec.ofBits d.lrec).es - 1)) ++
  (if final then (g.goodPosts c).flatMap fun p =>
     let r := LRec.ofBits p.1
     if r.red == 0 then (r.drainMap 0).map fun x => (x.1.toNat, x.1.toNat + r.es - 1) else []
   else [])

/-- The granules that a group's commit writes, and whether each write is other than a reduction (11 R204). -/
def Group.writeSet (g : Group) (c : Chart) (final : Bool) : List (GranKey × Bool) :=
  (g.carea.map fun e => (GranKey.loc e.sp e.gran, !e.bytes.isEmpty)) ++
  (g.mainWrites c final).map fun x => (GranKey.main x, true)

/-- A write to a granule held in a group's commit area, its team buffers or its drains: whether it is other than a reduction
(11 R204). -/
def Group.holds (g : Group) (k : GranKey) : Option Bool :=
  match k with
  | .loc sp gr =>
    let es := (g.carea ++ g.teams.flatMap Team.buf).filter fun e => e.isAt sp gr
    if es.isEmpty then none else some (es.any fun e => !e.bytes.isEmpty)
  | .main gr => if (g.drains.any fun d => d.kind.rop == 0 && (mainGrans d.map).contains gr) then some true else none

/-- The other active groups of the launch in which a commit marks granules contested (11 R204, R210). -/
def markContested (ws : List (GranKey × Bool)) (h : Group) : Group :=
  let new := (ws.filter fun w => match h.holds w.1 with
    | none => false
    | some hard => w.2 || hard).map Prod.fst
  { h with contested := h.contested ++ new.filter fun k => !h.contested.contains k }

/-- A die entry applied to the region (11 R204, 13 R245, R246): a reduction onto a poisoned word writes nothing. -/
def Launch.applyEntry (l : Launch) (e : Entry) : Launch :=
  match e.sp with
  | .die d =>
    let l := l.writeRegion (e.bytes.map fun x => (d * 2 ^ 28 + e.addr x.1, x.2))
    let l := { l with rpois := e.mark (d * 2 ^ 28) l.rpois }
    e.reds.foldl (fun l x =>
      let a := d * 2 ^ 28 + e.addr (4 * x.1)
      if poisonIn l.rpois a 4 then l
      else
        let m := BitVec.ofNat 32 (leNat (l.region.readN a 4))
        { l with region := l.region.writeN a (leBytes 4 (atomF x.2.isF x.2.op m x.2.val 0#32).1.toNat) }) l
  | _ => l

/-- The eight words of a granule marked poisoned, and the poison logged with its die, core and offset (10 R182, 11 R204,
22 R361). -/
def State.poisonGran (s : State) (lid : Nat) (k : GranKey) : State :=
  match k with
  | .main gr =>
    { s with mpois := markPoison s.mpois (gr * 64) 64 }.logErr .poison (((s.page? (gr * 64)).map Page.home).getD 0) 0 (gr * 64) []
  | .loc (.die d) gr =>
    match s.launch? lid with
    | none => s
    | some l =>
      (s.setLaunch { l with rpois := markPoison l.rpois (d * 2 ^ 28 + gr * 64) 64 }).logErr .poison d (gr * 64 / 2 ^ 22 % 64)
        (gr * 64 % 2 ^ 22) []
  | .loc _ _ => s

/-- Whether a group's read set meets a commit's write set (12 R225, R228). -/
def Group.readsMeet (h : Group) (dies : List (Nat × Nat)) (main : List (Nat × Nat)) : Bool :=
  h.reads.any fun r => match r with
    | .gran d gr => dies.contains (d, gr)
    | .range lo hi => main.any fun m => decide (m.1 ≤ hi ∧ lo ≤ m.2)

/-- Every active group of the launch with a later key whose read set a write meets, aborted (12 R228, 13 R247). -/
def State.conflicts (s : State) (g : Group) (dies : List (Nat × Nat)) (main : List (Nat × Nat)) : State :=
  let hit := (s.groupsOf g.launch).filter fun h =>
    h.gid != g.gid && h.activeG && decide (g.key.toNat < h.key.toNat) && h.readsMeet dies main
  hit.foldl (fun s h => if ((s.group? h.gid).map Group.activeG).getD false then s.abortGroup h.gid else s) s

/-- The fault entries of failed postloads, POST0 first (08 R164, 20 R313). -/
def Group.postFaults (g : Group) : List FaultEntry :=
  (g.posts.getD []).filterMap fun x => match x with
    | some k => k.fault.map fun f => { cause := f.1, team := noTeamWord, key := g.key, iaddr := 0#64, taddr := f.2 }
    | none => none

/-- GroupCommit's commit point (11 R204, R205; 12 R228; 16 R268), its waits being over: races, poison, cache lines, the die
region, drains in acceptance order, postloads at the final commit, and conflicts. A granule counts among the poisoned at each commit that
writes it so (notes/assumptions/67.md, DEDUCED). -/
def State.groupCommit (s : State) (gid : Nat) (final : Bool) : State :=
  match s.group? gid with
  | none => s
  | some g =>
    match (s.launch? g.launch).bind fun l => s.chartOf l g with
    | none => s
    | some c =>
      let ws := g.writeSet c final
      let s := if c.ordered then s else
        { s with groups := s.groups.map fun h =>
            if h.launch == g.launch && h.gid != gid && h.activeG then markContested ws h else h }
      let bad := ((ws.map Prod.fst).filter fun k => g.contested.contains k).eraseDups
      let dies := g.carea.filterMap fun e => match e.sp with
        | .die d => some (d, e.gran)
        | _ => none
      let s := (dies.map Prod.fst).eraseDups.foldl (fun s d =>
        s.dropLines g.launch d ((dies.filter fun x => x.1 == d).map Prod.snd)) s
      let s := match s.launch? g.launch with
        | none => s
        | some l => s.setLaunch (g.carea.foldl Launch.applyEntry l)
      let s := g.drains.foldl (fun s d => s.applyDrain g c d) s
      let s := if final then (g.goodPosts c).foldl (fun s p =>
          let r := LRec.ofBits p.1
          s.writeMain r r.red (r.drainMap 0) g.window g.wpois p.2) s else s
      let s := bad.foldl (fun s k => s.poisonGran g.launch k) s
      let s := match s.launch? g.launch with
        | none => s
        | some l =>
          let l := { l with races := l.races + bad.length }
          s.setLaunch (if final then g.postFaults.foldl Launch.addFault l else l)
      let s := s.setGroup
        { g with
          carea := [], committed := true, bkconf := g.bkconf + g.drains.foldl (fun n d => n + d.drainConf c.hsize) 0
          cmds := g.cmds.filter fun x => !x.kind.drain, written := g.written ++ g.drains
          meas := { g.meas with bytes := g.meas.bytes + (if final then 0 else g.drainBytes) }
          contested := g.contested.filter fun k => !bad.contains k }
      if c.ordered then s.conflicts g dies (g.mainBytes c final) else s

/-! ### The working copies across a change of the whole state -/

/-- A change of the saved state, the working copies read back. -/
def Ctx.sync (x : Ctx) (f : State → State) : Ctx :=
  let s := f x.save
  let g := (s.group? x.g.gid).getD x.g
  { x with s := s, g := g, t := (g.team? x.t.idx).getD x.t, l := (s.launch? x.l.id).getD x.l }

/-! ### Reads performed -/

/-- A read set's granule entries counted. -/
def grantCount (rs : List ReadEntry) : Nat := (rs.filter fun r => match r with
  | .gran _ _ => true
  | .range _ _ => false).length

/-- Set-table entries in use on a core: those of its speculative groups (12 R225, 20 R319). -/
def State.poolUsed (s : State) (die core : Nat) : Nat :=
  (s.residents die core).foldl (fun n g =>
    match s.launch? g.launch with
    | none => n
    | some l => if (s.chartOf l g).any fun c => State.specOf l c g then n + g.reads.length else n) 0

/-- Reads entered into a group's set table, an entry for each granule, and one for each command (12 R225): `none` where an entry is
lacking (R226). -/
def Group.noteReads (g : Group) (poolFree : Nat) (new : List ReadEntry) : Option Group :=
  let fresh := (new.filter fun r => match r with
    | .gran _ _ => !g.reads.contains r
    | .range _ _ => true).eraseDups
  let all := g.reads ++ fresh
  if fresh.length ≤ poolFree ∧ grantCount all ≤ 4096 ∧ all.length - grantCount all ≤ 64 then some { g with reads := all } else none

namespace Ctx

/-- The reads of a speculative group noted, or nothing where the group is not (12 R225, R226). -/
def noteReads (x : Ctx) (new : List ReadEntry) : Option Ctx :=
  if x.spec then (x.g.noteReads (16384 - x.s.poolUsed x.g.die x.g.core) new).map fun g => { x with g := g } else some x

/-- A byte of the commit area as a die read sees it, with its poison (10 R188, step 2): bytes stored by the group's committed teams;
of a word with a pending reduction, the reduction's pre-combined value (notes/assumptions/41.md). -/
def areaByte (x : Ctx) (key : Nat) : Option (Byte × Bool) :=
  match findEntry x.g.carea (.die x.g.die) (key / 64) with
  | none => none
  | some e =>
    match e.byte? (key % 64) with
    | some b => some (b, e.poi.contains (key % 64 / 8))
    | none => (e.red? (key % 64 / 4)).map fun r => (((leBytes 4 r.val.toNat)[key % 4]?).getD 0#8, e.poi.contains (key % 64 / 8))

/-- A byte that a storage gives a read performed now, with its poison (05 R107; 10 R188, steps 2 and 3). -/
def storeByte (x : Ctx) (sp : Space) (a : Nat) : Byte × Bool :=
  match sp with
  | .win => (x.g.window.read a, poisonIn x.g.wpois a 1)
  | .slot => (x.g.harea.read a, poisonIn x.g.hpois a 1)
  | .die d => (x.areaByte a).getD (x.l.region.read (d * 2 ^ 28 + a), poisonIn x.l.rpois (d * 2 ^ 28 + a) 1)

/-- The bytes that a part of a load reads. -/
def partBytes (x : Ctx) (p : LoadPart) : List (Byte × Bool) :=
  (List.range p.own.length).map fun i => ((p.own[i]?).getD none).getD (x.storeByte p.sp (p.a + i))

/-- The places of a part of a load that the die region itself serves (10 R188, step 3). -/
def regionKeys (x : Ctx) (p : LoadPart) : List Nat :=
  match p.sp with
  | .die _ => ((List.range p.own.length).filter fun i =>
      ((p.own[i]?).getD none).isNone && (x.areaByte (p.a + i)).isNone).map fun i => p.a + i
  | _ => []

end Ctx

/-- A loaded value of n bytes, n at most 4, extended to 32 bits (05 R103). -/
def extendBytes (sx : Bool) (bs : List Byte) : Word :=
  let v := leNat bs
  let n := 8 * bs.length
  if sx && decide (2 ^ (n - 1) ≤ v) then BitVec.ofInt 32 ((v : Int) - 2 ^ n) else BitVec.ofNat 32 v

/-- The registers' values of a loaded access: one of up to four bytes, or one for each four bytes, each with poison where one of its
own bytes comes from a poisoned word (05 R103, R104; 10 R182). -/
def loadRegs (sx : Bool) (bs : List (Byte × Bool)) : List VReg :=
  let one (sx : Bool) (b : List (Byte × Bool)) : VReg := { val := extendBytes sx (b.map Prod.fst), poi := b.any Prod.snd }
  if bs.length ≤ 4 then [one sx bs] else (List.range (bs.length / 4)).map fun j => one false ((bs.drop (4 * j)).take 4)

/-- The register writes of a loaded access in a lane. -/
def loadWrites (lane r : Nat) (sx : Bool) (bs : List (Byte × Bool)) : List RegWrite :=
  let rs := loadRegs sx bs
  (List.range rs.length).map fun j => .v lane (r + j) ((rs[j]?).getD { val := 0#32, poi := false })

/-- Whether two parts of loads reach a common byte in one lane. -/
def LoadPart.meets (p q : LoadPart) : Bool :=
  p.lane == q.lane && p.sp == q.sp && decide (p.a < q.a + q.own.length ∧ q.a < p.a + p.own.length)

/-- Whether the k-th load of a team may be performed as far as the team's earlier loads go: die loads are performed in issue order
(10 R188), window loads so in each lane's overlapping bytes (05 R107). -/
def Team.loadFree (t : Team) (k : Nat) : Bool :=
  match t.loads[k]? with
  | none => false
  | some l => (t.loads.take k).all fun m =>
      m.todo.isEmpty || m.path != l.path || (l.path != .die && m.todo.all fun p => l.todo.all fun q => !p.meets q)

/-- Whether a place of the die region is served now: its core is not being reset (21 R340), and the core's row and the die's network are
ON (R342). -/
def State.served (s : State) (die key : Nat) : Bool :=
  let core := key / 2 ^ 22 % 64
  (s.core die core).reset.isNone && s.islandOn (rowIsland die core) && s.islandOn (netIsland die)

/-- A load with the bytes at the places that are hit taken now, where they have not been: it does not see what then becomes of them. -/
def Load.taken (hit : LoadPart → Nat → Bool) (now : LoadPart → Nat → Byte × Bool) (l : Load) : Load :=
  let own (p : LoadPart) (i : Nat) : Option (Byte × Bool) :=
    (p.own[i]?).getD none <|> if hit p (p.a + i) then some (now p (p.a + i)) else none
  { l with todo := l.todo.map fun p => { p with own := (List.range p.own.length).map (own p) } }

namespace Ctx

/-- A team's k-th load performed, whole at one point (10 R188): its reads noted (12 R225), its values taken. `none` where the set
table has no entry for it (R226). -/
def performLoad (x : Ctx) (k : Nat) : Option Ctx :=
  match x.t.loads[k]? with
  | none => none
  | some l =>
    (x.noteReads ((l.todo.flatMap x.regionKeys).map fun a => .gran x.g.die (a / 64))).map fun y =>
      let ws := l.todo.flatMap fun p => loadWrites p.lane p.r p.sx (x.partBytes p)
      { y with t := { y.t with loads := y.t.loads.set k { l with todo := [], ws := l.ws ++ ws } } }

/-- Whether every core that a team's k-th load reads serves it now (21 R340). -/
def loadServed (x : Ctx) (k : Nat) : Bool :=
  (x.t.loads[k]?).all fun l => (l.todo.flatMap x.regionKeys).all (x.s.served x.g.die)

/-- Every load of a team that is still to be performed, performed in issue order; what it waits for where one cannot be. -/
def performLoads (x : Ctx) : Except WaitOn Ctx :=
  (List.range x.t.loads.length).foldl (fun acc k => match acc with
    | .error w => .error w
    | .ok x => if ((x.t.loads[k]?).map fun l => l.todo.isEmpty).getD true then .ok x
               else if !x.loadServed k then .error .load
               else match x.performLoad k with
                 | some y => .ok y
                 | none => .error .frontier) (.ok x)

/-- The bytes of a storage that an access of the team is about to change, taken for the team's earlier loads of them, lane by lane: a
load never sees a later store of its team (05 R107), a lane's window access comes before its own later ones (24 R365). -/
def capture (x : Ctx) (hit : Nat → Space → Nat → Bool) : Ctx :=
  { x with t := { x.t with loads := x.t.loads.map (Load.taken (fun p => hit p.lane p.sp) (fun p => x.storeByte p.sp)) } }

/-! ### Atomics served -/

/-- The word that a .g or .d atomic reads, and its poison (13 R243, R245, R248). -/
def atomRead (x : Ctx) (scope : Scope) (ea : Nat) : Word × Bool :=
  match scope with
  | .d =>
    let k := x.g.die * 2 ^ 28 + regionKey 0 ea
    (BitVec.ofNat 32 (leNat (x.l.region.readN k 4)), poisonIn x.l.rpois k 4)
  | _ => (BitVec.ofNat 32 (leNat (x.g.window.readN ea 4)), poisonIn x.g.wpois ea 4)

/-- What a .d atomic does to its granule whether it writes or not (13 R247, 10 R189): the granule leaves the remote-read caches, and
later groups that read it are aborted in an ordered launch. -/
def atomTouch (x : Ctx) (scope : Scope) (ea : Nat) : Ctx :=
  match scope with
  | .d =>
    let y := { x with s := x.s.dropLines x.l.id x.g.die [dieGran ea] }
    if x.c.ordered then y.sync fun s => s.conflicts x.g [(x.g.die, dieGran ea)] [] else y
  | _ => x

/-- The word that a .g or .d atomic writes (13 R238, R248): into the window, or into the die region. -/
def atomWrite (x : Ctx) (scope : Scope) (ea : Nat) (v : Word) : Ctx :=
  let bs (a : Nat) : List (Nat × Byte) := (List.range 4).map fun i => (a + i, ((leBytes 4 v.toNat)[i]?).getD 0#8)
  match scope with
  | .d => { x with l := x.l.writeRegion (bs (x.g.die * 2 ^ 28 + regionKey 0 ea)) }
  | _ => { x with g := x.g.writeLoc .win (bs ea) }

/-- The lanes of one address served in ascending lane order (13 R243): the lanes' old values, the new word and the flags. -/
def atomServe (isF : Bool) (op : BitVec 4) (m : Word) : List AtomLane → List (Nat × Word) × Word × Word
  | [] => ([], m, 0#32)
  | l :: ls =>
    let r := atomF isF op m l.b l.c
    let rest := atomServe isF op r.1 ls
    ((l.lane, m) :: rest.1, rest.2.1, r.2 ||| rest.2.2)

/-- Whether an access lies on the four bytes of an atomic. -/
def atomHit (x : Ctx) (scope : Scope) (ea : Nat) (sp : Space) (a : Nat) : Bool :=
  match scope with
  | .d => sp == .die x.g.die && decide (regionKey 0 ea ≤ a ∧ a < regionKey 0 ea + 4)
  | _ => sp == .win && decide (ea ≤ a ∧ a < ea + 4)

/-- One address of an outstanding .g or .d atomic served, as one indivisible step (13 R243, R245): the lanes' old values, 0 with
poison where the word is poisoned and nothing is written. A lane's own earlier window loads of the bytes come before it. -/
def atomOne (x : Ctx) (q : AtomReq) (ea : Nat) : Ctx × AtomReq :=
  let mine := q.todo.filter fun l => l.ea == ea
  let left := q.todo.filter fun l => l.ea != ea
  let m := x.atomRead q.scope ea
  let old (r : Nat) (p : Nat × Word) : RegWrite := .v p.1 r { val := p.2, poi := m.2 }
  let ws (ps : List (Nat × Word)) : List RegWrite := (q.ret.map fun r => ps.map (old r)).getD []
  if m.2 then (x.atomTouch q.scope ea, { q with todo := left, ws := q.ws ++ ws (mine.map fun l => (l.lane, 0#32)) })
  else
    let r := atomServe q.isF q.op m.1 mine
    let hit (l : Nat) (sp : Space) (a : Nat) : Bool := q.scope != .d && x.atomHit q.scope ea sp a && mine.any fun m => m.lane == l
    let y := ((x.capture hit).atomWrite q.scope ea r.2.1).atomTouch q.scope ea
    ({ y with t := { y.t with flags := y.t.flags ||| r.2.2 } }, { q with todo := left, ws := q.ws ++ ws r.1 })

/-- The position of the team's first atomic that is not served whole, with an address that its core serves now (21 R340): none where it is
one of .t, which is served as a store of the team (`headStep`). -/
def atomHead (x : Ctx) (ea : Option Nat) : Option (Nat × AtomReq × Nat) :=
  match x.t.atoms.findIdx? fun q => !q.todo.isEmpty with
  | none => none
  | some k =>
    match x.t.atoms[k]? with
    | none => none
    | some q =>
      let free (a : Nat) : Bool := match q.scope with
        | .t => false
        | .g => true
        | .d => x.s.served x.g.die (regionKey 0 a)
      (q.todo.find? fun l => ea.all (· == l.ea) && free l.ea).map fun l => (k, q, l.ea)

/-- One address of the team's oldest unserved atomic served (13 R243, R244): the one named, or the first. -/
def atomStep (x : Ctx) (ea : Option Nat) : Option Ctx :=
  (x.atomHead ea).map fun h =>
    let r := x.atomOne h.2.1 h.2.2
    { r.1 with t := { r.1.t with atoms := r.1.t.atoms.set h.1 r.2 } }

/-- The team's atomics served one address after another, at most n of them. -/
def atomFlush (x : Ctx) : Nat → Ctx
  | 0 => x
  | n + 1 => match x.atomStep none with
    | none => x
    | some y => y.atomFlush n

/-- Every earlier atomic of the team served (13 R244), as far as the cores serve them now. -/
def atomsServed (x : Ctx) : Ctx := x.atomFlush (x.t.atoms.foldl (fun n q => n + q.todo.length) 0)

/-- Whether an atomic of the team is still to be served. -/
def atomsOpen (x : Ctx) : Bool := x.t.atoms.any fun q => !q.todo.isEmpty

end Ctx

/-! ### B of outstanding matrix instructions -/

/-- The granules of the handle area that B of an outstanding matrix instruction lies in. -/
def reqGrans (r : MatReq) : List Nat :=
  (r.sets.flatMap fun s =>
    let a := r.base + s.2.1
    (List.range ((a + s.2.2.2 + 63) / 64 - a / 64)).map fun i => a / 64 + i).eraseDups

namespace Ctx

/-- A byte of the handle area as it stands, with its poison. -/
def slotByte (x : Ctx) (a : Nat) : Byte × Bool := (x.g.harea.read a, poisonIn x.g.hpois a 1)

/-- A granule of B read, unless it has been. -/
def readGran (x : Ctx) (r : MatReq) (gran : Nat) : MatReq :=
  if r.got.any fun g => g.1 == gran then r
  else { r with got := r.got ++ [(gran, (List.range 64).map fun i => x.slotByte (gran * 64 + i))] }

/-- A granule of B read for the k-th outstanding matrix instruction of the team, where it lies in one (17 R288). -/
def matRead (x : Ctx) (k gran : Nat) : Ctx :=
  match x.t.mats[k]? with
  | none => x
  | some r => if (reqGrans r).contains gran then { x with t := { x.t with mats := x.t.mats.set k (x.readGran r gran) } } else x

/-- What is left of B read for the team's outstanding matrix instructions: before its next commit takes effect (17 R288). -/
def matsRead (x : Ctx) : Ctx :=
  { x with t := { x.t with mats := x.t.mats.map fun r => (reqGrans r).foldl x.readGran r } }

end Ctx

/-! ### Team commit -/

/-- K(n) (11 R199). -/
def ckptSize (w n : Nat) : Nat := (w * (4 * n + 12) + 576 + 63) / 64 * 64

/-- E (11 R197). -/
def Ctx.bufCap (x : Ctx) : Nat := (x.c.tbufBytes - x.t.ckpt.k) / 64

/-- Commit-area entries in use: granules and pending drains (11 R196). -/
def Group.areaUsed (g : Group) : Nat := g.carea.length + g.drains.length

/-- Entries of the commit area (11 R196). -/
def Chart.areaCap (c : Chart) : Nat := c.commitBytes / 64

/-- The fallback where the commit area has no entry, or holds mixed content (11 R207, 13 R246): an implicit group commit, or a
wait where it cannot be made yet. -/
def Ctx.areaFallback (x : Ctx) : Except WaitOn Ctx :=
  if x.spec then .error .frontier
  else if x.save.commitReady x.g.gid false then .ok (x.sync fun s => s.groupCommit x.g.gid false)
  else .error .commit

/-- An entry put into the commit area, its room assured (11 R200, 13 R246). -/
def Group.areaPut (g : Group) (e : Entry) : Group :=
  match findEntry g.carea e.sp e.gran with
  | none => { g with carea := g.carea ++ [e] }
  | some old => { g with carea := putEntry g.carea (old.merge e).1 }

/-- Whether the commit area takes an entry as it stands. -/
def Ctx.areaTakes (x : Ctx) (e : Entry) : Bool :=
  match findEntry x.g.carea e.sp e.gran with
  | some old => !old.mixes e
  | none => decide (x.g.areaUsed < x.c.areaCap)

/-- The committer recorded for a granule, and GCONF where another team committed it since the last turn (11 R200). -/
def Group.recordCommit (g : Group) (t : Nat) (k : GranKey) : Group :=
  let other := g.committers.any fun p => p.1 == k && p.2 != t
  { g with gconf := g.gconf || other, committers := (g.committers.filter fun p => p.1 != k) ++ [(k, t)] }

/-- One entry of a team commit (11 R200). -/
def Ctx.commitEntry (x : Ctx) (e : Entry) : Except WaitOn Ctx :=
  let x := if e.bytes.isEmpty then x else { x with g := x.g.recordCommit x.t.idx (.loc e.sp e.gran) }
  match e.sp with
  | .die _ =>
    if x.areaTakes e then .ok { x with g := x.g.areaPut e }
    else match x.areaFallback with
      | .error w => .error w
      | .ok x => .ok { x with g := x.g.areaPut e }
  | _ => .ok { x with g := x.g.writeEntry e }

/-- The entries of a team commit in the order of the buffer: that in which their granules first entered it. 11 R200 gives none
(notes/assumptions/74.md, DESIGN CHOICE). -/
def Ctx.commitEntries (x : Ctx) : List Entry → Except WaitOn Ctx
  | [] => .ok x
  | e :: es =>
    match x.commitEntry e with
    | .error w => .error w
    | .ok x => x.commitEntries es

/-- What must come before a team commit: the team's atomics served (13 R244), B of its matrix instructions read (17 R288), and the window
bytes that the commit changes taken for the team's loads in flight, which never see a later store of the team (05 R107). -/
def Ctx.beforeCommit (x : Ctx) : Except WaitOn Ctx :=
  let x := x.atomsServed
  let hit (sp : Space) (a : Nat) : Bool :=
    (match sp with
     | .die _ => false
     | _ => true) && x.t.buf.any fun e => e.isAt sp (a / 64) && (e.byte? (a % 64)).isSome
  if x.atomsOpen then .error .atomic else .ok (x.matsRead.capture (fun _ => hit))

/-- TeamCommit (11 R200): the buffer moved on; `resume` gives the address of the next instruction to an explicit commit, which waits
for the team's pending results; an implicit one never does (11 R209). A commit that must wait answers what for, and changes
nothing. -/
def Ctx.teamCommit (x : Ctx) (resume : Option DWord) : Except WaitOn Ctx :=
  if resume.isSome && x.t.pending x.t.t0 then .error .result
  else
    match x.beforeCommit with
    | .error w => .error w
    | .ok x =>
      match x.commitEntries x.t.buf with
      | .error w => .error w
      | .ok x =>
        let x := { x with g := { x.g with turn := some (x.s.cycle, x.t.idx) } }
        let t := { x.t with buf := [] }
        match resume with
        | none => .ok { x with t := { t with noroll := true } }
        | some pc =>
          .ok { x with t := { t with
            noroll := false
            resume := { pc := pc, mask := t.mask, depth := t.mstack.length, rdepth := t.rstack.length, tctl := t.tctl } } }

/-! ### The team buffer -/

/-- A write of bytes and reductions to one granule in the team buffer (11 R197, R198): a new entry beyond the capacity, or mixed
content (13 R246), makes an implicit team commit first. Flags of a reduction's combination are the team's (R246). -/
def Ctx.bufPut (x : Ctx) (e : Entry) : Except WaitOn Ctx :=
  let put (x : Ctx) : Ctx :=
    match findEntry x.t.buf e.sp e.gran with
    | none => { x with t := { x.t with buf := x.t.buf ++ [e] } }
    | some old =>
      let r := old.merge e
      { x with t := { x.t with buf := putEntry x.t.buf r.1, flags := x.t.flags ||| r.2 } }
  let takes := match findEntry x.t.buf e.sp e.gran with
    | some old => !old.mixes e
    | none => decide (x.t.buf.length < x.bufCap)
  if takes then .ok (put x)
  else match x.teamCommit none with
    | .error w => .error w
    | .ok x => .ok (put x)

/-- A list of entries put into the buffer in order. -/
def Ctx.bufPuts (x : Ctx) : List Entry → Except WaitOn Ctx
  | [] => .ok x
  | e :: es =>
    match x.bufPut e with
    | .error w => .error w
    | .ok x => x.bufPuts es

/-- The entries of n bytes written at an address of a storage: an access never crosses a granule. -/
def storeEntry (sp : Space) (a : Nat) (bs : List Byte) : Entry :=
  { sp := sp, gran := a / 64, bytes := (List.range bs.length).map fun i => (a % 64 + i, (bs[i]?).getD 0#8), reds := [] }

/-- The byte that a team's own buffer holds, with its poison. -/
def Team.bufByte (t : Team) (sp : Space) (a : Nat) : Option (Byte × Bool) :=
  (findEntry t.buf sp (a / 64)).bind fun e => (e.byte? (a % 64)).map fun b => (b, e.poi.contains (a % 64 / 8))

/-- n bytes as a team's read performed now sees them, with their poison: its own buffer first (05 R104, R107; 10 R188). -/
def Ctx.locRead (x : Ctx) (sp : Space) (a n : Nat) : List (Byte × Bool) :=
  (List.range n).map fun i => (x.t.bufByte sp (a + i)).getD (x.storeByte sp (a + i))

/-- What a team's own buffer holds of n bytes. -/
def Team.ownBytes (t : Team) (sp : Space) (a n : Nat) : List (Option (Byte × Bool)) :=
  (List.range n).map fun i => t.bufByte sp (a + i)

end Sys2Proof.Machine
end

