-- ==== Sys2Proof/Machine/Account.lean ====
section
/-!
DEFINITION. Time: the end of tasks and of the ids that a launch waits for (22 R350), page-table edits that commands hold (16 R274), a
launch's time account (22 R354), and time moved on.
-/
namespace Sys2Proof.Machine

/-! ### Ends -/

/-- The launch's root Chart. -/
def State.rootChart (s : State) (l : Launch) : Option Chart := (s.image? l.image).bind fun im => im.charts[l.chart]?

/-- The final status of a launch or copy id (22 R350): `none` while it is unfinished. -/
def State.finalStatus (s : State) (id : Nat) : Option Status :=
  match s.launch? id with
  | some l => if l.phase == .complete then some l.status else none
  | none => (s.copies.find? fun c => c.id == id).bind Copy.done

/-- Whether every predecessor has ended with SUCCESS. -/
def State.predsDone (s : State) (ps : List Nat) : Bool := ps.all fun p => s.finalStatus p == some .success

/-- Whether every task of a launch has ended: its space is cut, its groups are done and the writes of their drains have completed (22 R351),
no bin holds a record. -/
def State.tasksDone (s : State) (l : Launch) : Bool :=
  (s.rootChart l).any (fun c => decide (nth c.space c.z ≤ l.origin)) && l.bins.isEmpty &&
  (s.groupsOf l.id).all fun g => g.status == .done && g.written.isEmpty

/-! ### Page-table edits -/

/-- Whether a page lies wholly in a range, and whether it meets it. -/
def Page.inside (p : Page) (va len : Nat) : Bool := decide (va ≤ p.va ∧ p.va + p.size ≤ va + len)
def Page.meets (p : Page) (va len : Nat) : Bool := decide (p.va < va + len ∧ va < p.va + p.size)

/-- Whether a command of a group that has translated a page of a range holds an edit of it: a fill or a preload until it has finished, a
drain or a postload whose check passed until its commit-time write completes (16 R274, 08 R164). -/
def State.heldBy (s : State) (g : Group) (va len : Nat) : Bool :=
  let meets (es : Nat) (m : List (Int × Nat)) : Bool := m.any fun e => decide (e.1 < (va + len : Nat) ∧ (va : Int) < e.1 + es)
  let found (k : Cmd) : Bool := k.seen.any fun p => p.meets va len && s.pages.any fun q => q.va == p.va
  ((g.cmds ++ g.pres.map PreCmd.cmd).any found) ||
  ((g.written ++ g.drains.filter fun d => !((g.handles[d.hdl]?).map Handle.chk).getD false).any fun d =>
    meets (LRec.ofBits d.lrec).es d.map) ||
  ((g.posts.getD []).any fun p => p.any fun k =>
    k.fault.isNone && meets (LRec.ofBits k.lrec).es ((LRec.ofBits k.lrec).drainMap 0))

/-- Whether a command of some group holds an edit of a range. -/
def State.edited (s : State) (va len : Nat) : Bool := s.groups.any fun g => s.heldBy g va len

/-- The range of a page-table edit. -/
def editRange : Instr → Nat × Nat
  | .map _ o => (o.va, o.len)
  | .unmap _ va len => (va, len)
  | _ => (0, 0)

/-! ### Accounts -/

/-- The launch that a packet is of. -/
def Parcel.launch : Parcel → Nat
  | .stripe l _ | .stealReq l _ | .stealRep l _ | .counts l _ _ | .report l _ _ _ _ | .frontier l _ | .measure l _ _ => l

/-- Whether a region image of a launch is being moved (22 R350): its load image, once the launch waits for nothing before it, or its save
image, once its tasks have ended. -/
def State.imagePending (s : State) (l : Launch) : Bool :=
  (l.phase == .admitted && l.load.isSome && s.predsDone l.preds) ||
  (l.phase == .dispatching && l.save.isSome && !l.saved && s.tasksDone l)

/-- Whether a copy or a transfer of a launch is pending (22 R354, WAIT): a preload, an engine command, a drain whose writes are to
complete, a region image, a packet, a stolen group on its way. -/
def State.transfers (s : State) (l : Launch) : Bool :=
  (s.groupsOf l.id).any (fun g => g.status == .loading || !g.cmds.isEmpty || !g.written.isEmpty) || s.imagePending l ||
  s.packets.any (fun p => p.what.launch == l.id) || !l.transit.isEmpty

/-- The reference cycle until which the passes of a launch's teams go on, and that from which one is ready (22 R354, EXEC). -/
def State.execSpan (s : State) (l : Launch) : Nat × Option Nat :=
  (s.groupsOf l.id).foldl (fun acc g =>
    if g.status != .running then acc
    else (g.teams.filter fun t => t.phase == .running).foldl (fun acc t =>
      let sl := s.slotOf (slotKey g.die g.core t.slot)
      (max acc.1 (sl.refOf t.busy), match t.readySince, acc.2 with
        | none, r => r
        | some k, none => some (sl.refOf k)
        | some k, some r => some (min r (sl.refOf k)))) acc) (s.cycle, none)

/-- Whether a shoot-down waits for a command of a launch (16 R274, 22 R354). -/
def State.shotDown (s : State) (l : Launch) : Bool :=
  s.edits.any fun e => let r := editRange e.cmd; (s.groupsOf l.id).any fun g => s.heldBy g r.1 r.2

/-- What the time up to a cycle adds to a launch's account (22 R354), in cycles: INGRESS, EXEC, FAULT, WAIT, QUEUE, each instant in
the first that applies. -/
def State.account (s : State) (l : Launch) (cyc : Nat) : List Nat :=
  let span := s.execSpan l
  let a := min cyc span.1
  let b := max a (min cyc (span.2.getD cyc))
  let f := if s.shotDown l then b else max a (min b l.missing)
  [0, (a - s.cycle) + (cyc - b), f - a, if s.transfers l then b - f else 0, if s.transfers l then 0 else b - f]

/-! ### Time -/

/-- Time moved on to a reference cycle (never back), each live launch's account charged (22 R354; in cycles). -/
def State.advance (s : State) (cyc : Nat) : State :=
  if cyc ≤ s.cycle then s
  else
    { s with
      cycle := cyc
      launches := s.launches.map fun l =>
        if l.live then { l with acct := List.zipWith (· + ·) l.acct (s.account l cyc) } else l }

end Sys2Proof.Machine
end

