-- ==== Sys2Proof/Decode.lean ====
section
/-!
DEFINITION. The encodings of 02 R24 to R38 and of the chapters: fields of words, the encoder, and the decoder with the
checks of 02 R41, steps 1 to 8, as far as they depend on the words and on their place.
-/
namespace Sys2Proof

/-- Why the decoder turns words away: the trap of 02 R41 that they raise. -/
inductive Reject
  /-- Fewer than eight bytes were given: there is no base word. -/
  | short
  | illegalOpcode
  | illegalPair
  | reservedField
  | align
  deriving DecidableEq, Repr

/-- The fields of a base word (02 R24). -/
structure Raw where
  opc   : BitVec 10
  stall : BitVec 4
  form  : BitVec 2
  neg   : BitVec 1
  pred  : BitVec 6
  dst   : BitVec 8
  a     : BitVec 8
  b     : BitVec 8
  c     : BitVec 8
  kind  : BitVec 2
  mod   : BitVec 7
  deriving DecidableEq, Repr

/-- The base word of the fields (02 R24). -/
def Raw.pack (r : Raw) : DWord :=
  r.opc ++ r.stall ++ r.form ++ r.neg ++ r.pred ++ r.dst ++ r.a ++ r.b ++ r.c ++ r.kind ++ r.mod

/-- The fields of a base word (02 R24). -/
def Raw.unpack (w : DWord) : Raw :=
  { opc := w.extractLsb' 54 10, stall := w.extractLsb' 50 4, form := w.extractLsb' 48 2, neg := w.extractLsb' 47 1
    pred := w.extractLsb' 41 6, dst := w.extractLsb' 33 8, a := w.extractLsb' 25 8, b := w.extractLsb' 17 8
    c := w.extractLsb' 9 8, kind := w.extractLsb' 7 2, mod := w.extractLsb' 0 7 }

/-- The extension word of EXF and IMM, EXK 00 (02 R34). -/
def extWord (exf : BitVec 30) (imm : Word) : DWord := 0#2 ++ exf ++ imm

/-- IMM of an extension word. -/
def extImm (w : DWord) : Word := w.extractLsb' 0 32

/-- EXF of an extension word. -/
def extExf (w : DWord) : BitVec 30 := w.extractLsb' 32 30

/-- A Bool as a bit. -/
def bit (b : Bool) : BitVec 1 := if b then 1#1 else 0#1

/-- OPC of an integer vector opcode (02 R40). -/
def IntOpc.code : IntOpc → BitVec 10
  | .iadd => 0x001#10
  | .isub => 0x002#10
  | .imul => 0x003#10
  | .imulh => 0x004#10
  | .imad => 0x005#10
  | .iadd64 => 0x006#10
  | .isub64 => 0x007#10
  | .imin => 0x008#10
  | .imax => 0x009#10
  | .iabs => 0x00A#10
  | .ineg => 0x00B#10
  | .iaddsat => 0x00C#10
  | .isubsat => 0x00D#10
  | .and => 0x010#10
  | .or => 0x011#10
  | .xor => 0x012#10
  | .not => 0x013#10
  | .andn => 0x014#10
  | .shl => 0x018#10
  | .shr => 0x019#10
  | .sar => 0x01A#10
  | .rol => 0x01B#10
  | .bfx => 0x01C#10
  | .bfi => 0x01D#10
  | .popc => 0x020#10
  | .clz => 0x021#10
  | .ctz => 0x022#10
  | .brev => 0x023#10
  | .sel => 0x028#10
  | .icmp => 0x029#10
  | .clamp => 0x02A#10
  | .idot4 => 0x030#10
  | .idot8 => 0x031#10
  | .srshr => 0x032#10

/-- The an integer vector opcode opcode of an OPC value. -/
def IntOpc.ofCode (c : BitVec 10) : Option IntOpc :=
  match c.toNat with
  | 0x001 => some .iadd
  | 0x002 => some .isub
  | 0x003 => some .imul
  | 0x004 => some .imulh
  | 0x005 => some .imad
  | 0x006 => some .iadd64
  | 0x007 => some .isub64
  | 0x008 => some .imin
  | 0x009 => some .imax
  | 0x00A => some .iabs
  | 0x00B => some .ineg
  | 0x00C => some .iaddsat
  | 0x00D => some .isubsat
  | 0x010 => some .and
  | 0x011 => some .or
  | 0x012 => some .xor
  | 0x013 => some .not
  | 0x014 => some .andn
  | 0x018 => some .shl
  | 0x019 => some .shr
  | 0x01A => some .sar
  | 0x01B => some .rol
  | 0x01C => some .bfx
  | 0x01D => some .bfi
  | 0x020 => some .popc
  | 0x021 => some .clz
  | 0x022 => some .ctz
  | 0x023 => some .brev
  | 0x028 => some .sel
  | 0x029 => some .icmp
  | 0x02A => some .clamp
  | 0x030 => some .idot4
  | 0x031 => some .idot8
  | 0x032 => some .srshr
  | _ => none

/-- The instruction of an opcode and its fields. -/
def IntOpc.instr (op : IntOpc) (o : VInt) : Instr :=
  match op with
  | .iadd => .iadd o
  | .isub => .isub o
  | .imul => .imul o
  | .imulh => .imulh o
  | .imad => .imad o
  | .iadd64 => .iadd64 o
  | .isub64 => .isub64 o
  | .imin => .imin o
  | .imax => .imax o
  | .iabs => .iabs o
  | .ineg => .ineg o
  | .iaddsat => .iaddsat o
  | .isubsat => .isubsat o
  | .and => .and o
  | .or => .or o
  | .xor => .xor o
  | .not => .not o
  | .andn => .andn o
  | .shl => .shl o
  | .shr => .shr o
  | .sar => .sar o
  | .rol => .rol o
  | .bfx => .bfx o
  | .bfi => .bfi o
  | .popc => .popc o
  | .clz => .clz o
  | .ctz => .ctz o
  | .brev => .brev o
  | .sel => .sel o
  | .icmp => .icmp o
  | .clamp => .clamp o
  | .idot4 => .idot4 o
  | .idot8 => .idot8 o
  | .srshr => .srshr o

/-- OPC of a floating-point opcode (02 R40). -/
def FltOpc.code : FltOpc → BitVec 10
  | .fadd => 0x040#10
  | .fsub => 0x041#10
  | .fmul => 0x042#10
  | .ffma => 0x043#10
  | .fmin => 0x044#10
  | .fmax => 0x045#10
  | .fabs => 0x046#10
  | .fneg => 0x047#10
  | .fcmp => 0x048#10
  | .fclass => 0x049#10
  | .hadd2 => 0x060#10
  | .hmul2 => 0x061#10
  | .hfma2 => 0x062#10
  | .frcp => 0x050#10
  | .frsq => 0x051#10
  | .fsqrt => 0x052#10
  | .fexp2 => 0x053#10
  | .flog2 => 0x054#10
  | .fsin => 0x055#10
  | .fcos => 0x056#10
  | .ftanh => 0x057#10
  | .pchk => 0x070#10

/-- The a floating-point opcode opcode of an OPC value. -/
def FltOpc.ofCode (c : BitVec 10) : Option FltOpc :=
  match c.toNat with
  | 0x040 => some .fadd
  | 0x041 => some .fsub
  | 0x042 => some .fmul
  | 0x043 => some .ffma
  | 0x044 => some .fmin
  | 0x045 => some .fmax
  | 0x046 => some .fabs
  | 0x047 => some .fneg
  | 0x048 => some .fcmp
  | 0x049 => some .fclass
  | 0x060 => some .hadd2
  | 0x061 => some .hmul2
  | 0x062 => some .hfma2
  | 0x050 => some .frcp
  | 0x051 => some .frsq
  | 0x052 => some .fsqrt
  | 0x053 => some .fexp2
  | 0x054 => some .flog2
  | 0x055 => some .fsin
  | 0x056 => some .fcos
  | 0x057 => some .ftanh
  | 0x070 => some .pchk
  | _ => none

/-- The instruction of an opcode and its fields. -/
def FltOpc.instr (op : FltOpc) (o : VFlt) : Instr :=
  match op with
  | .fadd => .fadd o
  | .fsub => .fsub o
  | .fmul => .fmul o
  | .ffma => .ffma o
  | .fmin => .fmin o
  | .fmax => .fmax o
  | .fabs => .fabs o
  | .fneg => .fneg o
  | .fcmp => .fcmp o
  | .fclass => .fclass o
  | .hadd2 => .hadd2 o
  | .hmul2 => .hmul2 o
  | .hfma2 => .hfma2 o
  | .frcp => .frcp o
  | .frsq => .frsq o
  | .fsqrt => .fsqrt o
  | .fexp2 => .fexp2 o
  | .flog2 => .flog2 o
  | .fsin => .fsin o
  | .fcos => .fcos o
  | .ftanh => .ftanh o
  | .pchk => .pchk o

/-- OPC of a conversion opcode (02 R40). -/
def CvtOpc.code : CvtOpc → BitVec 10
  | .cvt => 0x080#10
  | .qpack4 => 0x081#10
  | .qunpack4 => 0x082#10
  | .scalepick => 0x083#10
  | .cvt8x4 => 0x084#10
  | .cvtq => 0x085#10

/-- The a conversion opcode opcode of an OPC value. -/
def CvtOpc.ofCode (c : BitVec 10) : Option CvtOpc :=
  match c.toNat with
  | 0x080 => some .cvt
  | 0x081 => some .qpack4
  | 0x082 => some .qunpack4
  | 0x083 => some .scalepick
  | 0x084 => some .cvt8x4
  | 0x085 => some .cvtq
  | _ => none

/-- The instruction of an opcode and its fields. -/
def CvtOpc.instr (op : CvtOpc) (o : VCvt) : Instr :=
  match op with
  | .cvt => .cvt o
  | .qpack4 => .qpack4 o
  | .qunpack4 => .qunpack4 o
  | .scalepick => .scalepick o
  | .cvt8x4 => .cvt8x4 o
  | .cvtq => .cvtq o

/-- OPC of a scalar ALU opcode (02 R40). -/
def SclOpc.code : SclOpc → BitVec 10
  | .sadd => 0x0A0#10
  | .ssub => 0x0A1#10
  | .smul => 0x0A2#10
  | .smad => 0x0A3#10
  | .sand => 0x0A4#10
  | .sor => 0x0A5#10
  | .sxor => 0x0A6#10
  | .sshl => 0x0A7#10
  | .sshr => 0x0A8#10
  | .ssar => 0x0A9#10
  | .smin => 0x0AA#10
  | .smax => 0x0AB#10
  | .scmp => 0x0AC#10
  | .smov => 0x0AD#10

/-- The a scalar ALU opcode opcode of an OPC value. -/
def SclOpc.ofCode (c : BitVec 10) : Option SclOpc :=
  match c.toNat with
  | 0x0A0 => some .sadd
  | 0x0A1 => some .ssub
  | 0x0A2 => some .smul
  | 0x0A3 => some .smad
  | 0x0A4 => some .sand
  | 0x0A5 => some .sor
  | 0x0A6 => some .sxor
  | 0x0A7 => some .sshl
  | 0x0A8 => some .sshr
  | 0x0A9 => some .ssar
  | 0x0AA => some .smin
  | 0x0AB => some .smax
  | 0x0AC => some .scmp
  | 0x0AD => some .smov
  | _ => none

/-- The instruction of an opcode and its fields. -/
def SclOpc.instr (op : SclOpc) (o : SOp) : Instr :=
  match op with
  | .sadd => .sadd o
  | .ssub => .ssub o
  | .smul => .smul o
  | .smad => .smad o
  | .sand => .sand o
  | .sor => .sor o
  | .sxor => .sxor o
  | .sshl => .sshl o
  | .sshr => .sshr o
  | .ssar => .ssar o
  | .smin => .smin o
  | .smax => .smax o
  | .scmp => .scmp o
  | .smov => .smov o

/-- OPC of a cross-lane opcode (02 R40). -/
def XOpc.code : XOpc → BitVec 10
  | .shfl => 0x0E0#10
  | .ballot => 0x0E1#10
  | .vote => 0x0E2#10
  | .popm => 0x0E3#10
  | .scan => 0x0E4#10
  | .reduce => 0x0E5#10
  | .matchOp => 0x0E6#10
  | .elect => 0x0E7#10
  | .lmask => 0x0E8#10

/-- The a cross-lane opcode opcode of an OPC value. -/
def XOpc.ofCode (c : BitVec 10) : Option XOpc :=
  match c.toNat with
  | 0x0E0 => some .shfl
  | 0x0E1 => some .ballot
  | 0x0E2 => some .vote
  | 0x0E3 => some .popm
  | 0x0E4 => some .scan
  | 0x0E5 => some .reduce
  | 0x0E6 => some .matchOp
  | 0x0E7 => some .elect
  | 0x0E8 => some .lmask
  | _ => none

/-- The instruction of an opcode and its fields. -/
def XOpc.instr (op : XOpc) (o : XLane) : Instr :=
  match op with
  | .shfl => .shfl o
  | .ballot => .ballot o
  | .vote => .vote o
  | .popm => .popm o
  | .scan => .scan o
  | .reduce => .reduce o
  | .matchOp => .matchOp o
  | .elect => .elect o
  | .lmask => .lmask o

/-- OPC of a memory opcode (02 R40). -/
def MemOpc.code : MemOpc → BitVec 10
  | .ldl => 0x100#10
  | .stl => 0x101#10
  | .lds => 0x108#10
  | .sts => 0x109#10
  | .ldd => 0x110#10
  | .std => 0x111#10

/-- The a memory opcode opcode of an OPC value. -/
def MemOpc.ofCode (c : BitVec 10) : Option MemOpc :=
  match c.toNat with
  | 0x100 => some .ldl
  | 0x101 => some .stl
  | 0x108 => some .lds
  | 0x109 => some .sts
  | 0x110 => some .ldd
  | 0x111 => some .std
  | _ => none

/-- The instruction of an opcode and its fields. -/
def MemOpc.instr (op : MemOpc) (o : MemOp) : Instr :=
  match op with
  | .ldl => .ldl o
  | .stl => .stl o
  | .lds => .lds o
  | .sts => .sts o
  | .ldd => .ldd o
  | .std => .std o

/-- OPC of an atomic opcode (02 R40). -/
def AtomOpc.code : AtomOpc → BitVec 10
  | .atom => 0x140#10
  | .atomf => 0x141#10
  | .red => 0x142#10
  | .redf => 0x143#10

/-- The an atomic opcode opcode of an OPC value. -/
def AtomOpc.ofCode (c : BitVec 10) : Option AtomOpc :=
  match c.toNat with
  | 0x140 => some .atom
  | 0x141 => some .atomf
  | 0x142 => some .red
  | 0x143 => some .redf
  | _ => none

/-- The instruction of an opcode and its fields. -/
def AtomOpc.instr (op : AtomOpc) (o : AtomOp) : Instr :=
  match op with
  | .atom => .atom o
  | .atomf => .atomf o
  | .red => .red o
  | .redf => .redf o

/-- The TYPE code of the integer class (02 R36). -/
def ITy.code : ITy → BitVec 3
  | .s32 => 0 | .n32 => 1 | .s16 => 2 | .n16 => 3 | .s8 => 4 | .n8 => 5 | .s64 => 6 | .n64 => 7

/-- The integer type of a TYPE code. -/
def ITy.ofCode (c : BitVec 3) : ITy :=
  match c.toNat with
  | 0 => .s32 | 1 => .n32 | 2 => .s16 | 3 => .n16 | 4 => .s8 | 5 => .n8 | 6 => .s64 | _ => .n64

/-- The TYPE code of the floating-point class (02 R36). -/
def FTy.code : FTy → BitVec 2
  | .f32 => 0 | .f16 => 1 | .bf16 => 2

/-- The floating-point type of a TYPE code (11 is reserved: any type, which the encoder does not give back). -/
def FTy.ofCode (c : BitVec 2) : FTy :=
  match c.toNat with
  | 0 => .f32 | 1 => .f16 | _ => .bf16

/-- The RND code (02 R36). -/
def Rnd.code : Rnd → BitVec 3
  | .rne => 0 | .rna => 1 | .rtz => 2 | .rup => 3 | .rdn => 4 | .dyn => 7

/-- The rounding of an RND code (101 and 110 are reserved). -/
def Rnd.ofCode (c : BitVec 3) : Rnd :=
  match c.toNat with
  | 0 => .rne | 1 => .rna | 2 => .rtz | 3 => .rup | 4 => .rdn | _ => .dyn

/-- The SIZE code (02 R36). -/
def Size.code : Size → BitVec 3
  | .b8 => 0 | .b16 => 1 | .b32 => 2 | .b64 => 3 | .b128 => 4

/-- The size of a SIZE code (101 to 111 are reserved). -/
def Size.ofCode (c : BitVec 3) : Size :=
  match c.toNat with
  | 0 => .b8 | 1 => .b16 | 2 => .b32 | 3 => .b64 | _ => .b128

/-- The SCOPE code (02 R36). -/
def Scope.code : Scope → BitVec 2
  | .t => 0 | .g => 1 | .d => 2

/-- The scope of a SCOPE code (11 is reserved). -/
def Scope.ofCode (c : BitVec 2) : Scope :=
  match c.toNat with
  | 0 => .t | 1 => .g | _ => .d

/-- The path code of waitp (05 R109). -/
def Path.code : Path → BitVec 8
  | .loc => 0 | .die => 1 | .spill => 2

/-- The path of a waitp code. -/
def Path.ofCode (c : BitVec 8) : Path :=
  match c.toNat with
  | 0 => .loc | 1 => .die | _ => .spill

/-- The COND code of brc (05 R100). -/
def BrCond.code : BrCond → BitVec 2
  | .any => 0 | .all => 1 | .none => 2 | .snz => 3

/-- The condition of a COND code. -/
def BrCond.ofCode (c : BitVec 2) : BrCond :=
  match c.toNat with
  | 0 => .any | 1 => .all | 2 => .none | _ => .snz

/-- The ROP code of cpout (16 R264). -/
def Rop.code : Rop → BitVec 2
  | .st => 0 | .add => 1 | .min => 2 | .max => 3

/-- The operator of a ROP code. -/
def Rop.ofCode (c : BitVec 2) : Rop :=
  match c.toNat with
  | 0 => .st | 1 => .add | 2 => .min | _ => .max

/-- The CV code (17 R283). -/
def Cv.code : Cv → BitVec 3
  | .f32 => 0 | .bf16 => 1 | .s32 => 2 | .raw => 3 | .fw => 7

/-- The conversion of a CV code (100 to 110 are reserved). -/
def Cv.ofCode (c : BitVec 3) : Cv :=
  match c.toNat with
  | 0 => .f32 | 1 => .bf16 | 2 => .s32 | 3 => .raw | _ => .fw

/-- MOD[8:7] of source B (02 R27). -/
def SrcB.kind : SrcB → BitVec 2
  | .vec _ => 0 | .scl _ => 1 | .imm8 _ => 2 | .imm32 _ => 3

/-- SRCB of source B (02 R27). -/
def SrcB.field : SrcB → BitVec 8
  | .vec r => r | .scl r => r.setWidth 8 | .imm8 v => v | .imm32 _ => 0#8

/-- The extension word that source B takes. -/
def SrcB.ext : SrcB → Option DWord
  | .imm32 v => some (extWord 0#30 v)
  | _ => none

/-- Source B of MOD[8:7], SRCB and IMM (02 R27). -/
def SrcB.parse (kind : BitVec 2) (f : BitVec 8) (imm : Word) : SrcB :=
  match kind.toNat with
  | 0 => .vec f | 1 => .scl (f.setWidth 6) | 2 => .imm8 f | _ => .imm32 imm

/-- The words of an instruction: a base word, and the second word of a 16-byte form. -/
abbrev Words := DWord × Option DWord

/-- The words of base fields whose FORM is 01 exactly when an extension word is given. -/
def wordsOf (opc : BitVec 10) (h : Head) (dst a : BitVec 8) (b c : BitVec 8) (kind : BitVec 2) (mod : BitVec 7)
    (ext : Option DWord) : Words :=
  (Raw.pack { opc := opc, stall := h.stall, form := if ext.isSome then 1#2 else 0#2, neg := bit h.neg, pred := h.pred,
              dst := dst, a := a, b := b, c := c, kind := kind, mod := mod }, ext)

/-- The head of a Team-guarded instruction (02 R31). -/
def teamHead (stall : BitVec 4) : Head := { stall := stall, neg := false, pred := 63#6 }

/-- A Team-guarded instruction without a source B. -/
def teamWords (opc : BitVec 10) (stall : BitVec 4) (dst a c : BitVec 8) (mod : BitVec 7) (ext : Option DWord) : Words :=
  wordsOf opc (teamHead stall) dst a 0#8 c 0#2 mod ext

/-- A Team-guarded instruction with a source B and no other extension. -/
def teamWordsB (opc : BitVec 10) (stall : BitVec 4) (dst a : BitVec 8) (b : SrcB) (c : BitVec 8) (mod : BitVec 7) : Words :=
  wordsOf opc (teamHead stall) dst a b.field c b.kind mod b.ext

def encInt (op : IntOpc) (o : VInt) : Words :=
  wordsOf op.code o.h o.d o.a o.b.field o.c o.b.kind (o.ty.code ++ bit o.sat ++ o.sub) o.b.ext

def encFlt (op : FltOpc) (o : VFlt) : Words :=
  wordsOf op.code o.h o.d o.a o.b.field o.c o.b.kind (o.ty.code ++ o.rnd.code ++ o.sub) o.b.ext

def encCvt (op : CvtOpc) (o : VCvt) : Words :=
  wordsOf op.code o.h o.d o.a o.b.field o.c o.b.kind (o.fmt.code ++ o.rnd.code) o.b.ext

def encScl (op : SclOpc) (o : SOp) : Words :=
  teamWordsB op.code o.stall (o.d.setWidth 8) (o.a.setWidth 8) o.b (o.c.setWidth 8) (o.sub ++ 0#4)

def encVbcast (o : VBcast) : Words :=
  wordsOf 0x0B2#10 o.h o.d 0#8 o.b.field 0#8 o.b.kind (0#2 ++ bit o.hi ++ 0#4) o.b.ext

def encX (op : XOpc) (o : XLane) : Words :=
  wordsOf op.code o.h o.d o.a o.b.field o.c o.b.kind (o.sub ++ o.seg) o.b.ext

def encMem (op : MemOpc) (o : MemOp) : Words :=
  let mod := o.size.code ++ bit o.hofs ++ bit o.sx ++ 0#2
  match o.off with
  | .short v => wordsOf op.code o.h o.r o.a v (o.hdl.setWidth 8) 0#2 mod none
  | .long v => wordsOf op.code o.h o.r o.a 0#8 (o.hdl.setWidth 8) 0#2 mod (some (extWord 0#30 v))

def encAtom (op : AtomOpc) (o : AtomOp) : Words :=
  wordsOf op.code o.h o.d o.a o.b.field o.c o.b.kind (o.op ++ o.scope.code ++ 0#1)
    (o.off.map fun v => extWord 0#30 v)

/-- The words of gpark (12 R234). -/
def encGpark (stall : BitVec 4) (on : ParkOn) (live : BitVec 9) : Words :=
  match on with
  | .hstate h m => teamWords 0x165#10 stall 0#8 (h.setWidth 8) 0#8 0#7 (some (extWord (0#17 ++ m ++ live) 0#32))
  | .qne q => teamWords 0x165#10 stall 0#8 (q.setWidth 8) 0#8 1#7 (some (extWord (0#21 ++ live) 0#32))
  | .timer n => teamWords 0x165#10 stall 0#8 0#8 0#8 2#7 (some (extWord (0#21 ++ live) n))
  | .signal s v => teamWords 0x165#10 stall 0#8 (s.setWidth 8) 0#8 3#7 (some (extWord (0#21 ++ live) v))

/-- The words of mma and mmas (17 R283): `imm` is 0 for mma. -/
def encMma (opc : BitVec 10) (o : MmaOp) (imm : Word) : Words :=
  let mod := bit o.reuse ++ 0#6
  match o.b with
  | .handle h vo => wordsOf opc o.h (o.tile.setWidth 8) o.a vo o.f 0#2 mod (some (extWord (0#25 ++ h) imm))
  | .tile h r st =>
    wordsOf opc o.h (o.tile.setWidth 8) o.a (st.setWidth 8) o.f 1#2 mod (some (extWord (0#9 ++ r ++ h) imm))

/-- The base word of one operation of a pair, FORM apart. -/
def encHalf : PairHalf → DWord
  | .int op o => (encInt op o).1
  | .flt op o => (encFlt op o).1
  | .smov o => (encScl .smov o).1
  | .vbcast o => (encVbcast o).1

/-- FORM 10 set in a base word (02 R33). -/
def setPaired (w : DWord) : DWord := w ||| (2#64 <<< 48)

/-- THE ENCODER: the words of an instruction (02 R24 to R38 and the encoding table of each chapter); `none` for a step of
the device and for a host command, which have none. -/
def encode : Instr → Option Words
  | .iadd o => some (encInt .iadd o)
  | .isub o => some (encInt .isub o)
  | .imul o => some (encInt .imul o)
  | .imulh o => some (encInt .imulh o)
  | .imad o => some (encInt .imad o)
  | .iadd64 o => some (encInt .iadd64 o)
  | .isub64 o => some (encInt .isub64 o)
  | .imin o => some (encInt .imin o)
  | .imax o => some (encInt .imax o)
  | .iabs o => some (encInt .iabs o)
  | .ineg o => some (encInt .ineg o)
  | .iaddsat o => some (encInt .iaddsat o)
  | .isubsat o => some (encInt .isubsat o)
  | .and o => some (encInt .and o)
  | .or o => some (encInt .or o)
  | .xor o => some (encInt .xor o)
  | .not o => some (encInt .not o)
  | .andn o => some (encInt .andn o)
  | .shl o => some (encInt .shl o)
  | .shr o => some (encInt .shr o)
  | .sar o => some (encInt .sar o)
  | .rol o => some (encInt .rol o)
  | .bfx o => some (encInt .bfx o)
  | .bfi o => some (encInt .bfi o)
  | .popc o => some (encInt .popc o)
  | .clz o => some (encInt .clz o)
  | .ctz o => some (encInt .ctz o)
  | .brev o => some (encInt .brev o)
  | .sel o => some (encInt .sel o)
  | .icmp o => some (encInt .icmp o)
  | .clamp o => some (encInt .clamp o)
  | .idot4 o => some (encInt .idot4 o)
  | .idot8 o => some (encInt .idot8 o)
  | .srshr o => some (encInt .srshr o)
  | .fadd o => some (encFlt .fadd o)
  | .fsub o => some (encFlt .fsub o)
  | .fmul o => some (encFlt .fmul o)
  | .ffma o => some (encFlt .ffma o)
  | .fmin o => some (encFlt .fmin o)
  | .fmax o => some (encFlt .fmax o)
  | .fabs o => some (encFlt .fabs o)
  | .fneg o => some (encFlt .fneg o)
  | .fcmp o => some (encFlt .fcmp o)
  | .fclass o => some (encFlt .fclass o)
  | .hadd2 o => some (encFlt .hadd2 o)
  | .hmul2 o => some (encFlt .hmul2 o)
  | .hfma2 o => some (encFlt .hfma2 o)
  | .frcp o => some (encFlt .frcp o)
  | .frsq o => some (encFlt .frsq o)
  | .fsqrt o => some (encFlt .fsqrt o)
  | .fexp2 o => some (encFlt .fexp2 o)
  | .flog2 o => some (encFlt .flog2 o)
  | .fsin o => some (encFlt .fsin o)
  | .fcos o => some (encFlt .fcos o)
  | .ftanh o => some (encFlt .ftanh o)
  | .pchk o => some (encFlt .pchk o)
  | .cvt o => some (encCvt .cvt o)
  | .qpack4 o => some (encCvt .qpack4 o)
  | .qunpack4 o => some (encCvt .qunpack4 o)
  | .scalepick o => some (encCvt .scalepick o)
  | .cvt8x4 o => some (encCvt .cvt8x4 o)
  | .cvtq o => some (encCvt .cvtq o)
  | .sadd o => some (encScl .sadd o)
  | .ssub o => some (encScl .ssub o)
  | .smul o => some (encScl .smul o)
  | .smad o => some (encScl .smad o)
  | .sand o => some (encScl .sand o)
  | .sor o => some (encScl .sor o)
  | .sxor o => some (encScl .sxor o)
  | .sshl o => some (encScl .sshl o)
  | .sshr o => some (encScl .sshr o)
  | .ssar o => some (encScl .ssar o)
  | .smin o => some (encScl .smin o)
  | .smax o => some (encScl .smax o)
  | .scmp o => some (encScl .scmp o)
  | .smov o => some (encScl .smov o)
  | .shfl o => some (encX .shfl o)
  | .ballot o => some (encX .ballot o)
  | .vote o => some (encX .vote o)
  | .popm o => some (encX .popm o)
  | .scan o => some (encX .scan o)
  | .reduce o => some (encX .reduce o)
  | .matchOp o => some (encX .matchOp o)
  | .elect o => some (encX .elect o)
  | .lmask o => some (encX .lmask o)
  | .ldl o => some (encMem .ldl o)
  | .stl o => some (encMem .stl o)
  | .lds o => some (encMem .lds o)
  | .sts o => some (encMem .sts o)
  | .ldd o => some (encMem .ldd o)
  | .std o => some (encMem .std o)
  | .atom o => some (encAtom .atom o)
  | .atomf o => some (encAtom .atomf o)
  | .red o => some (encAtom .red o)
  | .redf o => some (encAtom .redf o)
  | .sli stall sub d imm =>
    some (teamWords 0x0AE#10 stall (d.setWidth 8) 0#8 0#8 (0#1 ++ sub ++ 0#4) (some (extWord 0#30 imm)))
  | .sget stall d x => some (teamWords 0x0B0#10 stall d x 0#8 0#7 none)
  | .sset stall x b => some (teamWordsB 0x0B1#10 stall x 0#8 b 0#8 0#7)
  | .vbcast o => some (encVbcast o)
  | .vlane stall sx d a b => some (teamWordsB 0x0B3#10 stall (d.setWidth 8) a b 0#8 (0#2 ++ bit sx ++ 0#4))
  | .bra stall imm => some (teamWords 0x0C0#10 stall 0#8 0#8 0#8 0#7 (some (extWord 0#30 imm)))
  | .brc stall c x imm =>
    some (teamWords 0x0C1#10 stall 0#8 (x.setWidth 8) 0#8 (0#5 ++ c.code) (some (extWord 0#30 imm)))
  | .call stall imm => some (teamWords 0x0C2#10 stall 0#8 0#8 0#8 0#7 (some (extWord 0#30 imm)))
  | .ret stall => some (teamWords 0x0C3#10 stall 0#8 0#8 0#8 0#7 none)
  | .exit stall => some (teamWords 0x0C4#10 stall 0#8 0#8 0#8 0#7 none)
  | .nop stall => some (teamWords 0x0D0#10 stall 0#8 0#8 0#8 0#7 none)
  | .ifOp stall c imm =>
    some (teamWords 0x0C8#10 stall 0#8 (c.p.setWidth 8) 0#8 (0#6 ++ bit c.neg) (some (extWord 0#30 imm)))
  | .elseOp stall imm => some (teamWords 0x0C9#10 stall 0#8 0#8 0#8 0#7 (some (extWord 0#30 imm)))
  | .endif stall => some (teamWords 0x0CA#10 stall 0#8 0#8 0#8 0#7 none)
  | .loop stall imm => some (teamWords 0x0CB#10 stall 0#8 0#8 0#8 0#7 (some (extWord 0#30 imm)))
  | .breakOp stall c imm =>
    some (teamWords 0x0CC#10 stall 0#8 (c.p.setWidth 8) 0#8 (0#6 ++ bit c.neg) (some (extWord 0#30 imm)))
  | .cont stall c imm =>
    some (teamWords 0x0CD#10 stall 0#8 (c.p.setWidth 8) 0#8 (0#6 ++ bit c.neg) (some (extWord 0#30 imm)))
  | .endloop stall c imm =>
    some (teamWords 0x0CE#10 stall 0#8 (c.p.setWidth 8) 0#8 (0#6 ++ bit c.neg) (some (extWord 0#30 imm)))
  | .yield stall => some (teamWords 0x0D1#10 stall 0#8 0#8 0#8 0#7 none)
  | .waitp stall path b => some (teamWordsB 0x120#10 stall path.code 0#8 b 0#8 0#7)
  | .tcommit stall => some (teamWords 0x160#10 stall 0#8 0#8 0#8 0#7 none)
  | .tcommitCk stall b => some (teamWordsB 0x160#10 stall 0#8 0#8 b 0#8 1#7)
  | .tabort stall => some (teamWords 0x161#10 stall 0#8 0#8 0#8 0#7 none)
  | .gcommit stall => some (teamWords 0x162#10 stall 0#8 0#8 0#8 0#7 none)
  | .gabort stall => some (teamWords 0x163#10 stall 0#8 0#8 0#8 0#7 none)
  | .fence h s => some (wordsOf 0x178#10 h 0#8 0#8 0#8 0#8 0#2 (0#5 ++ s.code) none)
  | .xfence stall h => some (teamWords 0x179#10 stall 0#8 (h.setWidth 8) 0#8 0#7 none)
  | .spawn h a t node len => some (wordsOf 0x164#10 h 0#8 a t (node.setWidth 8) 0#2 (0#3 ++ len) none)
  | .gpark stall on live => some (encGpark stall on live)
  | .bar stall b => some (teamWords 0x168#10 stall 0#8 (b.setWidth 8) 0#8 0#7 none)
  | .bara stall b => some (teamWords 0x169#10 stall 0#8 (b.setWidth 8) 0#8 0#7 none)
  | .barw stall b => some (teamWords 0x16A#10 stall 0#8 (b.setWidth 8) 0#8 0#7 none)
  | .qpush stall q b => some (teamWordsB 0x170#10 stall 0#8 (q.setWidth 8) b 0#8 0#7)
  | .qpop stall d q => some (teamWords 0x171#10 stall (d.setWidth 8) (q.setWidth 8) 0#8 0#7 none)
  | .qtryPop stall d f q => some (teamWords 0x172#10 stall (d.setWidth 8) (q.setWidth 8) (f.setWidth 8) 0#7 none)
  | .qtryPush stall f q b => some (teamWordsB 0x172#10 stall (f.setWidth 8) (q.setWidth 8) b 0#8 1#7)
  | .cpin stall h r b =>
    some (wordsOf 0x180#10 (teamHead stall) 0#8 (h.setWidth 8) b.field 0#8 b.kind 0#7 (some (extWord (0#14 ++ r) 0#32)))
  | .cpout stall rop h r b =>
    some (wordsOf 0x181#10 (teamHead stall) 0#8 (h.setWidth 8) b.field 0#8 b.kind (0#5 ++ rop.code)
      (some (extWord (0#14 ++ r) 0#32)))
  | .gather hd h r v => some (wordsOf 0x182#10 hd 0#8 (h.setWidth 8) v 0#8 0#2 0#7 (some (extWord (0#14 ++ r) 0#32)))
  | .scatter hd h r v => some (wordsOf 0x183#10 hd 0#8 (h.setWidth 8) v 0#8 0#2 0#7 (some (extWord (0#14 ++ r) 0#32)))
  | .hwait stall h m => some (teamWords 0x188#10 stall 0#8 (h.setWidth 8) 0#8 (0#3 ++ m) none)
  | .hrel stall h => some (teamWords 0x189#10 stall 0#8 (h.setWidth 8) 0#8 0#7 none)
  | .hstatSt stall d h => some (teamWords 0x18A#10 stall (d.setWidth 8) (h.setWidth 8) 0#8 0#7 none)
  | .hstatTag stall d h => some (teamWords 0x18A#10 stall (d.setWidth 8) (h.setWidth 8) 0#8 1#7 none)
  | .lrset stall s b => some (teamWordsB 0x190#10 stall 0#8 (s.setWidth 8) b 0#8 0#7)
  | .lfence stall => some (teamWords 0x191#10 stall 0#8 0#8 0#8 0#7 none)
  | .mma o => some (encMma 0x1C0#10 o 0#32)
  | .mmas o vm sm => some (encMma 0x1C1#10 o (0#18 ++ sm ++ vm))
  | .mzero h tile anchor =>
    match anchor with
    | none => some (wordsOf 0x1C4#10 h (tile.setWidth 8) 0#8 0#8 0#8 0#2 0#7 none)
    | some v => some (wordsOf 0x1C4#10 h (tile.setWidth 8) 0#8 v 0#8 2#2 1#7 none)
  | .mload h tile vs g anchor =>
    some (wordsOf 0x1C5#10 h (tile.setWidth 8) vs 0#8 0#8 0#2 (0#5 ++ g) (some (extWord (0#22 ++ anchor) 0#32)))
  | .mread h d tile cv g => some (wordsOf 0x1C6#10 h d (tile.setWidth 8) 0#8 0#8 0#2 (0#2 ++ cv.code ++ g) none)
  | .mstore h a off tile cv g => some (wordsOf 0x1C7#10 h 0#8 a off (tile.setWidth 8) 0#2 (0#2 ++ cv.code ++ g) none)
  | .mburst stall b => some (teamWordsB 0x1C8#10 stall 0#8 0#8 b 0#8 0#7)
  | .mstepGet stall d => some (teamWords 0x1C9#10 stall (d.setWidth 8) 0#8 0#8 0#7 none)
  | .mstepSet stall b => some (teamWordsB 0x1C9#10 stall 0#8 0#8 b 0#8 1#7)
  | .trap stall n => some (teamWords 0x200#10 stall 0#8 0#8 0#8 (0#3 ++ n) none)
  | .tretAfter stall => some (teamWords 0x201#10 stall 0#8 0#8 0#8 0#7 none)
  | .tretRetry stall => some (teamWords 0x201#10 stall 0#8 0#8 0#8 1#7 none)
  | .cycle stall d => some (teamWords 0x209#10 stall (d.setWidth 8) 0#8 0#8 0#7 none)
  | .chkset stall n => some (teamWords 0x20C#10 stall 0#8 0#8 0#8 (0#6 ++ bit n) none)
  | .vgrow stall b => some (teamWordsB 0x20A#10 stall 0#8 0#8 b 0#8 0#7)
  | .vshrink stall b => some (teamWordsB 0x20B#10 stall 0#8 0#8 b 0#8 0#7)
  | .featq stall d b => some (teamWordsB 0x208#10 stall (d.setWidth 8) 0#8 b 0#8 0#7)
  | .bkpt stall n => some (teamWords 0x210#10 stall 0#8 0#8 0#8 (0#3 ++ n) none)
  | .pairedIssue x y => some (setPaired (encHalf x), some (encHalf y))
  | .unassignedOpcode w => some (w, none)
  | .resultReady _ _ | .loadReturn _ _ _ _ | .atomicReturn _ _ | .deferredTrapDelivery _ _ | .deadlockDetect _
  | .teamPromotion _ _ | .yieldExpiry _ _ | .vgrowGrant _ _ | .bandForm _ | .recut _ | .sextantForward _ _
  | .shareDraw _ _ _ | .localListReturn _ _ _ | .shareCountExchange _ _ | .stealRequest _ _ | .stealServe _ _
  | .stealReply _ _ | .groupDispatch _ _ | .preloadComplete _ | .preloadFault _ | .postloadCheckDone _ | .groupCommit _
  | .binTimerExpiry _ _ _ _ | .frontierReport _ _ | .frontierUpdate _ | .gparkTimerExpiry _ | .continuationResume _
  | .copyAccept _ _ | .publish _ _ | .fillFault _ _ | .drainCheckDone _ _ | .drainCheckFault _ _ | .drainWriteDone _ _
  | .operandPrefetch _ _ _ | .translationMiss _ _ _ _ | .preempt _ | .preemptGraceExpiry _ | .groupResume _ _
  | .budgetExpiry _ | .coreReset _ _ | .coreResetEnd _ _ | .scrub _ _ _ _ | .packetDelivery _ | .drainPoint
  | .drainPhaseEnd | .routerPowerDown _ _ | .routerWake _ _ | .islandControlTick _ _ | .islandPointChangeDone _
  | .retainWake _ | .matrixRampIdle _ | .mburstHoldExpiry _ _ | .sampleTick _ _ _ | .moduleReset | .unsupportedPacket _
  | .launchDispatchStart _ | .regionImageSave _ | .launchComplete _ | .query _ | .map _ _ | .unmap _ _ _
  | .load _ _ _ _ _ | .unload _ _ | .launch _ _ | .launchx _ _ _ | .wait _ _ _ | .cancel _ _ | .cancelKeep _ _
  | .copyPut _ _ _ _ | .copyGet _ _ _ _ | .copyXfer _ _ _ _ _ _ _ | .attest _ _ | .log _ _ _ _ | .islandRead _
  | .islandSet _ _ _ | .unassignedCommand _ _ | .waitTimeout _ | .copyCompletion _ _ | .peerXferRequest _ _ _ _ _
  | .retainEntry _ => none

/-- The head of a base word. -/
def Raw.head (r : Raw) : Head := { stall := r.stall, neg := r.neg == 1#1, pred := r.pred }

/-- Source B of a base word and an IMM. -/
def Raw.srcB (r : Raw) (imm : Word) : SrcB := SrcB.parse r.kind r.b imm

def Raw.vint (r : Raw) (imm : Word) : VInt :=
  { h := r.head, ty := ITy.ofCode (r.mod.extractLsb' 4 3), sat := r.mod.getLsbD 3, sub := r.mod.extractLsb' 0 3
    d := r.dst, a := r.a, b := r.srcB imm, c := r.c }

def Raw.vflt (r : Raw) (imm : Word) : VFlt :=
  { h := r.head, ty := FTy.ofCode (r.mod.extractLsb' 5 2), rnd := Rnd.ofCode (r.mod.extractLsb' 2 3)
    sub := r.mod.extractLsb' 0 2, d := r.dst, a := r.a, b := r.srcB imm, c := r.c }

def Raw.vcvt (r : Raw) (imm : Word) : VCvt :=
  { h := r.head, fmt := (Fmt.ofCode (r.mod.extractLsb' 3 4)).getD .q4, rnd := Rnd.ofCode (r.mod.extractLsb' 0 3)
    d := r.dst, a := r.a, b := r.srcB imm, c := r.c }

def Raw.sop (r : Raw) (imm : Word) : SOp :=
  { stall := r.stall, sub := r.mod.extractLsb' 4 3, d := r.dst.setWidth 6, a := r.a.setWidth 6, b := r.srcB imm
    c := r.c.setWidth 6 }

def Raw.vbc (r : Raw) (imm : Word) : VBcast :=
  { h := r.head, hi := r.mod.getLsbD 4, d := r.dst, b := r.srcB imm }

def Raw.xlane (r : Raw) (imm : Word) : XLane :=
  { h := r.head, sub := r.mod.extractLsb' 4 3, seg := r.mod.extractLsb' 0 4, d := r.dst, a := r.a, b := r.srcB imm, c := r.c }

def Raw.mem (r : Raw) (imm : Word) : MemOp :=
  { h := r.head, size := Size.ofCode (r.mod.extractLsb' 4 3), hofs := r.mod.getLsbD 3, sx := r.mod.getLsbD 2, r := r.dst
    a := r.a, off := if r.form == 1#2 then .long imm else .short r.b, hdl := r.c.setWidth 5 }

def Raw.atom (r : Raw) (imm : Word) : AtomOp :=
  { h := r.head, op := r.mod.extractLsb' 3 4, scope := Scope.ofCode (r.mod.extractLsb' 1 2), d := r.dst, a := r.a
    b := SrcB.parse r.kind r.b 0#32, c := r.c, off := if r.form == 1#2 then some imm else none }

def Raw.cond (r : Raw) : Cond := { p := r.a.setWidth 6, neg := r.mod.getLsbD 0 }

def Raw.park (r : Raw) (exf : BitVec 30) (imm : Word) : ParkOn :=
  match (r.mod.extractLsb' 0 3).toNat with
  | 0 => .hstate (r.a.setWidth 5) (exf.extractLsb' 9 4)
  | 1 => .qne (r.a.setWidth 4)
  | 2 => .timer imm
  | _ => .signal (r.a.setWidth 6) imm

def Raw.mma (r : Raw) (exf : BitVec 30) : MmaOp :=
  { h := r.head, reuse := r.mod.getLsbD 6, tile := r.dst.setWidth 4, a := r.a, f := r.c
    b := if r.kind == 0#2 then .handle (exf.extractLsb' 0 5) r.b
         else .tile (exf.extractLsb' 0 5) (exf.extractLsb' 5 16) (r.b.setWidth 6) }

/-- The instruction of an opcode outside the uniform classes, its fields read without a check. -/
def parseOther (r : Raw) (exf : BitVec 30) (imm : Word) : Option Instr :=
  let s := r.stall
  let b := r.srcB imm
  match r.opc.toNat with
  | 0x0AE => some (.sli s (r.mod.extractLsb' 4 2) (r.dst.setWidth 6) imm)
  | 0x0B0 => some (.sget s r.dst r.a)
  | 0x0B1 => some (.sset s r.dst b)
  | 0x0B2 => some (.vbcast (r.vbc imm))
  | 0x0B3 => some (.vlane s (r.mod.getLsbD 4) (r.dst.setWidth 6) r.a b)
  | 0x0C0 => some (.bra s imm)
  | 0x0C1 => some (.brc s (BrCond.ofCode (r.mod.extractLsb' 0 2)) (r.a.setWidth 6) imm)
  | 0x0C2 => some (.call s imm)
  | 0x0C3 => some (.ret s)
  | 0x0C4 => some (.exit s)
  | 0x0C8 => some (.ifOp s r.cond imm)
  | 0x0C9 => some (.elseOp s imm)
  | 0x0CA => some (.endif s)
  | 0x0CB => some (.loop s imm)
  | 0x0CC => some (.breakOp s r.cond imm)
  | 0x0CD => some (.cont s r.cond imm)
  | 0x0CE => some (.endloop s r.cond imm)
  | 0x0D0 => some (.nop s)
  | 0x0D1 => some (.yield s)
  | 0x120 => some (.waitp s (Path.ofCode r.dst) b)
  | 0x160 => if r.mod.getLsbD 0 then some (.tcommitCk s b) else some (.tcommit s)
  | 0x161 => some (.tabort s)
  | 0x162 => some (.gcommit s)
  | 0x163 => some (.gabort s)
  | 0x164 => some (.spawn r.head r.a r.b (r.c.setWidth 4) (r.mod.extractLsb' 0 4))
  | 0x165 => some (.gpark s (r.park exf imm) (exf.extractLsb' 0 9))
  | 0x168 => some (.bar s (r.a.setWidth 3))
  | 0x169 => some (.bara s (r.a.setWidth 3))
  | 0x16A => some (.barw s (r.a.setWidth 3))
  | 0x170 => some (.qpush s (r.a.setWidth 4) b)
  | 0x171 => some (.qpop s (r.dst.setWidth 6) (r.a.setWidth 4))
  | 0x172 =>
    if r.mod.getLsbD 0 then some (.qtryPush s (r.dst.setWidth 6) (r.a.setWidth 4) b)
    else some (.qtryPop s (r.dst.setWidth 6) (r.c.setWidth 6) (r.a.setWidth 4))
  | 0x178 => some (.fence r.head (Scope.ofCode (r.mod.extractLsb' 0 2)))
  | 0x179 => some (.xfence s (r.a.setWidth 5))
  | 0x180 => some (.cpin s (r.a.setWidth 5) (exf.extractLsb' 0 16) b)
  | 0x181 => some (.cpout s (Rop.ofCode (r.mod.extractLsb' 0 2)) (r.a.setWidth 5) (exf.extractLsb' 0 16) b)
  | 0x182 => some (.gather r.head (r.a.setWidth 5) (exf.extractLsb' 0 16) r.b)
  | 0x183 => some (.scatter r.head (r.a.setWidth 5) (exf.extractLsb' 0 16) r.b)
  | 0x188 => some (.hwait s (r.a.setWidth 5) (r.mod.extractLsb' 0 4))
  | 0x189 => some (.hrel s (r.a.setWidth 5))
  | 0x18A =>
    if r.mod.getLsbD 0 then some (.hstatTag s (r.dst.setWidth 6) (r.a.setWidth 5))
    else some (.hstatSt s (r.dst.setWidth 6) (r.a.setWidth 5))
  | 0x190 => some (.lrset s (r.a.setWidth 6) b)
  | 0x191 => some (.lfence s)
  | 0x1C0 => some (.mma (r.mma exf))
  | 0x1C1 => some (.mmas (r.mma exf) (imm.extractLsb' 0 8) (imm.extractLsb' 8 6))
  | 0x1C4 => some (.mzero r.head (r.dst.setWidth 4) (if r.mod.getLsbD 0 then some r.b else none))
  | 0x1C5 => some (.mload r.head (r.dst.setWidth 4) r.a (r.mod.extractLsb' 0 2) (exf.extractLsb' 0 8))
  | 0x1C6 => some (.mread r.head r.dst (r.a.setWidth 4) (Cv.ofCode (r.mod.extractLsb' 2 3)) (r.mod.extractLsb' 0 2))
  | 0x1C7 => some (.mstore r.head r.a r.b (r.c.setWidth 4) (Cv.ofCode (r.mod.extractLsb' 2 3)) (r.mod.extractLsb' 0 2))
  | 0x1C8 => some (.mburst s b)
  | 0x1C9 => if r.mod.getLsbD 0 then some (.mstepSet s b) else some (.mstepGet s (r.dst.setWidth 6))
  | 0x200 => some (.trap s (r.mod.extractLsb' 0 4))
  | 0x201 => if r.mod.getLsbD 0 then some (.tretRetry s) else some (.tretAfter s)
  | 0x208 => some (.featq s (r.dst.setWidth 6) b)
  | 0x209 => some (.cycle s (r.dst.setWidth 6))
  | 0x20A => some (.vgrow s b)
  | 0x20B => some (.vshrink s b)
  | 0x20C => some (.chkset s (r.mod.getLsbD 0))
  | 0x210 => some (.bkpt s (r.mod.extractLsb' 0 4))
  | _ => none

/-- The instruction of a base word's fields, read without a check; `none` for an unassigned opcode. -/
def parse (r : Raw) (exf : BitVec 30) (imm : Word) : Option Instr :=
  match IntOpc.ofCode r.opc with
  | some op => some (op.instr (r.vint imm))
  | none =>
  match FltOpc.ofCode r.opc with
  | some op => some (op.instr (r.vflt imm))
  | none =>
  match CvtOpc.ofCode r.opc with
  | some op => some (op.instr (r.vcvt imm))
  | none =>
  match SclOpc.ofCode r.opc with
  | some op => some (op.instr (r.sop imm))
  | none =>
  match XOpc.ofCode r.opc with
  | some op => some (op.instr (r.xlane imm))
  | none =>
  match MemOpc.ofCode r.opc with
  | some op => some (op.instr (r.mem imm))
  | none =>
  match AtomOpc.ofCode r.opc with
  | some op => some (op.instr (r.atom imm))
  | none => parseOther r exf imm

/-- One operation of a pair, read without a check; `none` where the opcode is not pairable (02 R40). -/
def parseHalf (r : Raw) : Option PairHalf :=
  match IntOpc.ofCode r.opc with
  | some op => if op.pairable then some (.int op (r.vint 0#32)) else none
  | none =>
  match FltOpc.ofCode r.opc with
  | some op => if op.pairable then some (.flt op (r.vflt 0#32)) else none
  | none =>
    if r.opc == 0x0AD#10 then some (.smov (r.sop 0#32))
    else if r.opc == 0x0B2#10 then some (.vbcast (r.vbc 0#32))
    else none

/-- The opcodes that require FORM 01 (02 R40). -/
def form01Only (c : BitVec 10) : Bool :=
  match c.toNat with
  | 0x0AE | 0x0C0 | 0x0C1 | 0x0C2 | 0x0C8 | 0x0C9 | 0x0CB | 0x0CC | 0x0CD | 0x0CE | 0x165 | 0x180 | 0x181 | 0x182 | 0x183
  | 0x1C0 | 0x1C1 | 0x1C5 => true
  | _ => false

/-- The opcodes that allow FORM 01 (02 R40). -/
def form01Ok (c : BitVec 10) : Bool :=
  form01Only c || (IntOpc.ofCode c).isSome || ((FltOpc.ofCode c).any FltOpc.readsB) || (SclOpc.ofCode c).isSome ||
  c == 0x0E0#10 || (MemOpc.ofCode c).isSome || (AtomOpc.ofCode c).isSome

/-- Step 8 of 02 R41 on the words of a single or extended form: every field holds an accepted value, that is, the words are
those of a well-formed instruction. -/
def checkFields (i : Option Instr) (w : Words) : Except Reject Instr :=
  match i with
  | some i => if encode i = some w && i.wf then .ok i else .error .reservedField
  | none => .error .reservedField

/-- Steps 6 to 8 of 02 R41 for FORM 10. -/
def decodePair (w0 w1 : DWord) : Except Reject Instr :=
  let r1 := Raw.unpack w1
  if !opcAssigned r1.opc then .error .illegalOpcode
  else match parseHalf (Raw.unpack w0), parseHalf r1 with
  | some x, some y =>
    if r1.form != 0#2 || !pairOk x y then .error .illegalPair
    else checkFields (some (.pairedIssue x y)) (w0, some w1)
  | _, _ => .error .illegalPair

/-- THE DECODER on words (02 R41, steps 1 to 8): `odd` says that the first word stands at 8 more than a multiple of 16. -/
def decodeWords (w0 w1 : DWord) (odd : Bool) : Except Reject Instr :=
  let r := Raw.unpack w0
  if !opcAssigned r.opc then .ok (.unassignedOpcode w0)
  else if r.form == 3#2 then .error .reservedField
  else if r.form == 2#2 && (parseHalf r).isNone then .error .illegalPair
  else if (r.form == 0#2 && form01Only r.opc) || (r.form == 1#2 && !form01Ok r.opc) then .error .reservedField
  else if r.form != 0#2 && odd then .error .align
  else if r.form == 2#2 then decodePair w0 w1
  else if r.form == 1#2 then checkFields (parse r (extExf w1) (extImm w1)) (w0, some w1)
  else checkFields (parse r 0#30 0#32) (w0, none)

/-- A value as n little-endian bytes (00 R5). -/
def bytesLE (n : Nat) (v : Nat) : List Byte :=
  match n with
  | 0 => []
  | k + 1 => BitVec.ofNat 8 v :: bytesLE k (v / 256)

/-- The value of little-endian bytes (00 R5). -/
def ofBytesLE : List Byte → Nat
  | [] => 0
  | b :: bs => b.toNat + 256 * ofBytesLE bs

/-- THE DECODER on bytes, total on any bytes: a base word and, where bytes stand behind it, the word after it; bytes beyond
the given ones read as 0 (05 R98). -/
def decode (bs : List Byte) (odd : Bool) : Except Reject Instr :=
  if bs.length < 8 then .error .short
  else decodeWords (BitVec.ofNat 64 (ofBytesLE (bs.take 8))) (BitVec.ofNat 64 (ofBytesLE ((bs.drop 8).take 8))) odd

/-- The words of an instruction as bytes in memory (00 R5). -/
def Words.bytes (w : Words) : List Byte :=
  bytesLE 8 w.1.toNat ++ (match w.2 with
    | some v => bytesLE 8 v.toNat
    | none => [])

/-- Size of an instruction in bytes (02 R33): 8, or 16 with a second word. -/
def Instr.size (i : Instr) : Nat :=
  match encode i with
  | some (_, some _) => 16
  | _ => 8

/-- The instruction that the decoder reads from an instruction whose bits are w, as the opcode table numbers them. -/
def decodeTableWord (nbits w : Nat) : Option Instr :=
  match decode (bytesLE 16 (w % 2 ^ nbits)) false with
  | .ok i => some i
  | .error _ => none

end Sys2Proof
end

