-- ==== Sys2Proof/Machine/Formats.lean ====
section
/-!
DEFINITION. Formats as numbers: the integer TYPEs (04 R62, R63, 05 R88), the formats of conversions (04 R61 to R69, 06 R122) and the q4
block family (04 R70 to R74).
-/
namespace Sys2Proof

/-! ### Integer TYPEs -/

/-- The bits of a value read at a TYPE, as a non-negative number (04 R63). -/
def ITy.pat (ty : ITy) (v : DWord) : Nat := v.toNat % 2 ^ ty.width

/-- A w-bit pattern as a two's-complement number (04 R62). -/
def sInt (w p : Nat) : Int := if p < 2 ^ (w - 1) then (p : Int) else (p : Int) - 2 ^ w

/-- The exact integer of a value read at a TYPE (05 R88). -/
def ITy.int (ty : ITy) (v : DWord) : Int := if ty.signed then sInt ty.width (ty.pat v) else (ty.pat v : Int)

/-- A value read at the TYPE's width, signed whatever the TYPE (05 R88, iaddsat). -/
def ITy.sint (ty : ITy) (v : DWord) : Int := sInt ty.width (ty.pat v)

/-- The least value of a TYPE (04 R62). -/
def ITy.lo (ty : ITy) : Int := if ty.signed then -(2 ^ (ty.width - 1) : Int) else 0

/-- The largest value of a TYPE (04 R62). -/
def ITy.hi (ty : ITy) : Int := if ty.signed then 2 ^ (ty.width - 1) - 1 else 2 ^ ty.width - 1

/-- An exact result brought to the TYPE: wrapped or saturated (04 R62), and extended to its registers (04 R63). -/
def ITy.deliver (ty : ITy) (sat : Bool) (r : Int) : DWord :=
  let r := if sat then max ty.lo (min ty.hi r) else r
  let p := (r % 2 ^ ty.width).toNat
  BitVec.ofInt 64 (if ty.signed then sInt ty.width p else (p : Int))

/-- An i4 code's value (04 R69). -/
def i4Val (c : Nat) : Int := if c = 8 then 0 else if 8 ≤ c then (c : Int) - 16 else c

/-! ### Formats -/

/-- The floating-point format of a code (04 R61). -/
def Fmt.ff : Fmt → Option FF
  | .f32 => some FF.f32
  | .f16 => some FF.f16
  | .bf16 => some FF.bf16
  | .e4m3 => some FF.e4m3
  | .e5m2 => some FF.e5m2
  | _ => none

/-- The integer type of a code. -/
def Fmt.ity : Fmt → Option ITy
  | .s32 => some .s32
  | .n32 => some .n32
  | .s16 => some .s16
  | .n16 => some .n16
  | .s8 => some .s8
  | .n8 => some .n8
  | .s64 => some .s64
  | .n64 => some .n64
  | _ => none

/-- The least value of an integer format or i4 (04 R62, R69). -/
def Fmt.lo (f : Fmt) : Int := match f.ity with
  | some t => t.lo
  | none => -7

/-- The largest value. -/
def Fmt.hi (f : Fmt) : Int := match f.ity with
  | some t => t.hi
  | none => 7

/-- The exact integer of an integer or i4 operand, with NRC (04 R63, R69). -/
def Fmt.int (f : Fmt) (v : DWord) : Int × Word := match f.ity with
  | some t => (t.int v, 0#32)
  | none => (i4Val (v.toNat % 16), Flag.on (v.toNat % 16 == 8) Flag.nrc)

/-- An integer in the range of a format, placed in its register or pair (04 R63; an i4 in the low four bits, 06 R122). -/
def Fmt.place (f : Fmt) (r : Int) : DWord := match f.ity with
  | some t => t.deliver false r
  | none => BitVec.ofInt 64 (r % 16)

/-- Destinations narrower than 16 bits convert RNA (04 R76). -/
def Fmt.narrow : Fmt → Bool
  | .s8 | .n8 | .e4m3 | .e5m2 | .i4 | .q4 => true
  | _ => false

/-- A value held to a range. -/
def clampInt (lo hi r : Int) : Int := max lo (min hi r)

/-- A value converted from one format to another (06 R122, 04 R81, R82), with its flags. An i4 source with a float target, which R122's
table does not name, converts its decoded value (notes/assumptions/50.md, DEDUCED). -/
def convertVal (src dst : Fmt) (mode : Rnd) (v : DWord) : DWord × Word :=
  let mode := if dst.narrow then .rna else mode
  match src.ff, dst.ff with
  | some f, some g =>
    let r := f.convert g mode (v.toNat % 2 ^ f.width)
    (BitVec.ofNat 64 r.1, r.2)
  | some f, none =>
    let r := f.toIntRange mode dst.lo dst.hi (v.toNat % 2 ^ f.width)
    (dst.place r.1, r.2)
  | none, some g =>
    let i := src.int v
    let r := g.ofInt mode i.1
    (BitVec.ofNat 64 r.1, i.2 ||| r.2)
  | none, none =>
    let i := src.int v
    (dst.place (clampInt dst.lo dst.hi i.1), i.2)

/-! ### The q4 family -/

/-- Magnitudes of a kind, in eighths (04 R71): 0 INT4, 1 E2M1, 2 POW2, 3 HYBRID. -/
def q4Mags (kind : Nat) : List Nat :=
  match kind with
  | 0 => [0, 8, 16, 24, 32, 40, 48, 56]
  | 1 => [0, 4, 8, 12, 16, 24, 32, 48]
  | 2 => [0, 1, 2, 4, 8, 16, 32, 64]
  | _ => [0, 8, 16, 24, 32, 48, 64, 96]

/-- The magnitude of an index, in eighths. -/
def q4Mag (kind i : Nat) : Nat := ((q4Mags kind)[i]?).getD 0

/-- The value of a code in eighths, its sign apart where it is −0, with NRC (04 R71). -/
def q4Code (kind code : Nat) : Int × Word :=
  if kind = 0 then (8 * i4Val code, Flag.on (code == 8) Flag.nrc)
  else (if 8 ≤ code then -(q4Mag kind (code % 8) : Int) else q4Mag kind (code % 8), 0#32)

/-- How m × 2^e compares with a number. -/
def cmpScaled (m : Nat) (e : Int) (v : Nat) : Ordering :=
  compare (m * 2 ^ e.toNat) (v * 2 ^ (-e).toNat)

/-- Quantisation of an f32 pattern into a kind and exponent (04 R73): the code and its flags. -/
def q4Quant (kind e : Nat) (a : Nat) : Nat × Word :=
  let signed (n : Bool) (i : Nat) : Nat :=
    if kind = 0 then (if n && i != 0 then 16 - i else i) else (if n then 8 + i else i)
  match FF.f32.val a with
  | .nan _ _ _ => (0, Flag.nv)
  | .inf n => (signed n 7, Flag.of ||| Flag.nx)
  | .fin n m ex =>
    let y : Int := ex + 32 - e + 3
    if cmpScaled m y (q4Mag kind 7) == .gt then (signed n 7, Flag.of ||| Flag.nx)
    else
      let i := ((List.range 7).filter fun j => cmpScaled m (y + 1) (q4Mag kind j + q4Mag kind (j + 1)) != .lt).length
      (signed n i, Flag.on (cmpScaled m y (q4Mag kind i) != .eq) Flag.nx)

/-- SCALEPICK (04 R74): the scale byte and its flags. -/
def scalePick (kind : Nat) (xs : List Nat) : Nat × Word :=
  let bad (a : Nat) : Bool := let v := FF.f32.val a; v.isNan || v.isInf
  let fits (e : Nat) (a : Nat) : Bool := match FF.f32.val a with
    | .fin _ m ex => cmpScaled m (ex + 32 - e + 3) (q4Mag kind 7) != .gt
    | _ => false
  if xs.any bad then (kind * 64 + 63, Flag.nv)
  else (kind * 64 + ((List.range 64).find? fun e => xs.all (fits e)).getD 63, 0#32)

/-- An unpacked element as f32, exact (06 R123). -/
def q4Unpack (scale code : Nat) : Nat × Word :=
  let kind := scale / 64 % 4
  if kind ≠ 0 ∧ code = 8 then (FF.f32.signBit, 0#32)
  else
    let v := q4Code kind code
    ((FF.f32.roundInt .rne v.1 (scale % 64 - 35 : Int) false).1, v.2)

end Sys2Proof

namespace Sys2Proof.Machine

/-- All flags of a list. -/
def orFlags (fs : List Word) : Word := fs.foldl (· ||| ·) 0#32

end Sys2Proof.Machine
end

