-- ==== Sys2Proof/Machine/Products.lean ====
section
/-!
DEFINITION. The products of the matrix engine (17 R276 to R282): format words, elements and accumulators, tiles, fused sets, accumulation,
and matrix instructions whose products are made apart from their issue (17 R288).
-/
namespace Sys2Proof

/-! ### Formats, elements and accumulators -/

/-- The width class of a matrix format (17 R278): 0 for 4 bits, 1 for 8, 2 for 16. -/
def Fmt.matClass : Fmt → Option Nat
  | .i4 | .q4 => some 0
  | .s8 | .n8 | .e4m3 | .e5m2 => some 1
  | .s16 | .n16 | .f16 | .bf16 => some 2
  | _ => none

/-- Element width of a class, and its K (17 R278). -/
def matW (cls : Nat) : Nat := 4 * 2 ^ cls
def matK (cls : Nat) : Nat := 64 / 2 ^ cls

/-- The default anchor of a format (04 R85). -/
def Fmt.anchor : Fmt → Int
  | .e4m3 => -18
  | .e5m2 => -32
  | .f16 => -48
  | .q4 | .bf16 => -72
  | _ => 0

/-- A format word (17 R280). -/
structure FWord where
  aty : Fmt
  bty : Fmt
  cls : Nat
  ocv : BitVec 2
  aov : Bool
  ancv : Int
  deriving DecidableEq, Repr

/-- A format word read: `none` for a reserved bit, an illegal format or formats of two classes (17 R280, R284 step 3). -/
def FWord.of (w : Word) : Option FWord :=
  if w &&& 0xFFE00C00#32 ≠ 0#32 then none
  else
    match Fmt.ofCode (w.extractLsb' 0 4), Fmt.ofCode (w.extractLsb' 4 4) with
    | some a, some b =>
      match a.matClass, b.matClass with
      | some k, some j =>
        if k = j then
          some { aty := a, bty := b, cls := k, ocv := w.extractLsb' 8 2, aov := w.getLsbD 20
                 ancv := (w.extractLsb' 12 8).toInt }
        else none
      | _, _ => none
    | _, _ => none

/-- The anchor that a pending tile takes (17 R282, 04 R85). -/
def FWord.anchor (f : FWord) : Int := if f.aov then f.ancv else min f.aty.anchor f.bty.anchor

/-- Registers of an A run (17 R278). -/
def FWord.aRun (f : FWord) : Nat := if f.aty = .q4 then 9 else 8

/-- Bytes of B (17 R278). -/
def FWord.bBytes (f : FWord) : Nat := if f.bty = .q4 then 1088 else 1024

/-- An element's value and its flags (17 R279, R282): `scale` is its block's scale byte. -/
def Fmt.elem (f : Fmt) (bits scale : Nat) : FV × Word :=
  let int (v : Int) (e : Int) : FV := .fin (decide (v < 0)) v.natAbs e
  match f with
  | .q4 => let r := q4Code (scale / 64 % 4) bits; (int r.1 ((scale % 64 : Nat) - 35 : Int), r.2)
  | f => match f.ff with
    | some g => (g.val bits, 0#32)
    | none => let r := f.int (BitVec.ofNat 64 bits); (int r.1 0, r.2)

/-- The bound of an accumulator (04 R83). -/
def accMax : Int := 2 ^ 127 - 1

/-- A value held to the accumulator's range, with ACCOVF (04 R84). -/
def accClamp (v : Int) : Int × Word :=
  if accMax < v then (accMax, Flag.accovf) else if v < -accMax then (-accMax, Flag.accovf) else (v, 0#32)

/-- The sum of an accumulator and a product (17 R282, 04 R84, R85). -/
def accSum (v : Int) (x y : FV) (anc : Int) : Int × Word :=
  if x.isNan || y.isNan || (x.isInf && y.isZero) || (y.isInf && x.isZero) then (v, Flag.nv)
  else if x.isInf || y.isInf then ((if x.neg != y.neg then -accMax else accMax), Flag.accovf)
  else accClamp (v + (roundToInt .rne (x.neg != y.neg) (x.int.natAbs * y.int.natAbs) (x.exp + y.exp - anc)).1)

/-- The 128 bits of an accumulator's raw form (04 R83). -/
def accWords (v : Int) : List Word :=
  let b := BitVec.ofInt 128 v
  (List.range 4).map fun i => b.extractLsb' (32 * i) 32

/-- An accumulator read out (04 R86): the registers' values and the flags. -/
def accOut (cv : Cv) (v anc : Int) : List Word × Word :=
  match cv with
  | .f32 | .fw => let r := FF.f32.roundInt .rne v anc false; ([BitVec.ofNat 32 r.1], r.2)
  | .bf16 => let r := FF.bf16.roundInt .rne v anc false; ([BitVec.ofNat 32 r.1], r.2)
  | .s32 =>
    let r := roundToInt .rne (decide (v < 0)) v.natAbs anc
    if r.1 < -2 ^ 31 then ([0x80000000#32], Flag.nv)
    else if 2 ^ 31 - 1 < r.1 then ([0x7FFFFFFF#32], Flag.nv)
    else ([BitVec.ofInt 32 r.1], Flag.on r.2 Flag.nx)
  | .raw => (accWords v, 0#32)

/-- The conversion that CONV records (17 R280). -/
def Cv.ofConv (c : BitVec 2) : Cv :=
  match c.toNat with
  | 0 => .f32
  | 1 => .bf16
  | 2 => .s32
  | _ => .raw

/-- Registers of a column group (17 R295). -/
def Cv.regs : Cv → Nat
  | .raw => 32
  | _ => 8

/-- Bytes that mstore writes (17 R296). -/
def Cv.bytes : Cv → Nat
  | .bf16 => 16
  | .raw => 128
  | _ => 32

end Sys2Proof

namespace Sys2Proof.Machine

/-! ### Tiles -/

/-- The accumulator of a row and column. -/
def Tile.at (t : Tile) (row col : Nat) : Acc := Store.get { v := 0, pz := false } t.acc (row * 32 + col)

/-- An accumulator written. -/
def Tile.put (t : Tile) (row col : Nat) (a : Acc) : Tile :=
  { t with acc := Store.put { v := 0, pz := false } t.acc (row * 32 + col) a }

/-- The tile of an octet. -/
def Team.tile (t : Team) (oct m : Nat) : Tile := Store.get Tile.start t.tiles (oct * 16 + m)

/-- A tile written back. -/
def Team.setTile (t : Team) (oct m : Nat) (v : Tile) : Team := { t with tiles := Store.put Tile.start t.tiles (oct * 16 + m) v }

namespace Ctx

/-- Flags set in the team's %flags (17 R282). -/
def addFlags (x : Ctx) (f : Word) : Ctx := { x with t := { x.t with flags := x.t.flags ||| f } }

/-- A tile changed. -/
def onTile (x : Ctx) (oct : Nat) (m : BitVec 4) (f : Tile → Tile) : Ctx :=
  { x with t := x.t.setTile oct m.toNat (f (x.t.tile oct m.toNat)) }

/-- The octets of lanes, ascending. -/
def octets (lanes : List Nat) : List Nat := (lanes.map (· / 8)).eraseDups

/-- A fused set (17 R281): its lanes, the offset of its B, its format word. -/
structure FusedSet where
  lanes : List Nat
  ofs   : Nat
  word  : Word
  deriving DecidableEq, Repr

/-- The word of a set read, for a set that has passed step 3. -/
def FusedSet.fw (s : FusedSet) : FWord := (FWord.of s.word).getD { aty := .i4, bty := .i4, cls := 0, ocv := 0#2, aov := false, ancv := 0 }

/-- Bytes of B that a set reads. -/
def FusedSet.need (s : FusedSet) : Nat := s.fw.bBytes

/-! ### Accumulation -/

/-- ElemA (17 R279, R282): value, poison and flags. -/
def elemA (f : FWord) (regs : List VReg) (k : Nat) : FV × Bool × Word :=
  let w := matW f.cls
  let r := (regs[k * w / 32]?).getD { val := 0#32, poi := false }
  let s := (regs[8]?).getD { val := 0#32, poi := false }
  let e := f.aty.elem (r.val.toNat / 2 ^ (k * w % 32) % 2 ^ w) (s.val.toNat / 2 ^ (8 * (k / 32)) % 256)
  (e.1, r.poi || (f.aty == .q4 && s.poi), e.2)

/-- ElemB (17 R279, R282): from bytes of the handle area, B's first at `base`. -/
def elemB (rd : Nat → Byte × Bool) (f : FWord) (base k n : Nat) : FV × Bool × Word :=
  let w := matW f.cls
  let bit := (n * matK f.cls + k) * w
  let a := rd (base + bit / 8)
  let c := if w = 16 then rd (base + bit / 8 + 1) else (0#8, false)
  let s := if f.bty = .q4 then rd (base + 1024 + 2 * n + k / 32) else (0#8, false)
  let e := f.bty.elem (leNat [a.1, c.1] / 2 ^ (bit % 8) % 2 ^ w) s.1.toNat
  (e.1, a.2 || s.2, e.2)

/-- AccAdd (17 R282). -/
def accAdd (anc : Int) (a : Acc) (x y : FV × Bool × Word) : Acc × Word :=
  let r := accSum a.v x.1 y.1 anc
  ({ v := r.1, pz := a.pz || x.2.1 || y.2.1 }, x.2.2 ||| y.2.2 ||| r.2)

/-- One lane's row: every column over the steps, ascending. -/
def matRow (rd : Nat → Byte × Bool) (f : FWord) (base : Nat) (regs : List VReg) (ks : List Nat) (row : Nat) (t : Tile) : Tile × Word :=
  (List.range 32).foldl (fun acc n =>
    let r := ks.foldl (fun (a : Acc × Word) k =>
      let q := accAdd t.anc a.1 (elemA f regs k) (elemB rd f base k n)
      (q.1, a.2 ||| q.2)) (t.at row n, 0#32)
    (acc.1.put row n r.1, acc.2 ||| r.2)) (t, 0#32)

/-- A tile made ready for products (17 R282). -/
def matOpen (f : FWord) (t : Tile) : Tile :=
  { t with anc := if t.pend then f.anchor else t.anc, pend := false, conv := f.ocv }

/-- One lane of a set: its row accumulated. -/
def matLane (x : Ctx) (rd : Nat → Byte × Bool) (tile : Nat) (s : FusedSet) (base : Nat) (regs : List VReg) (ks : List Nat) (l : Nat) : Ctx :=
  let r := matRow rd s.fw base regs ks (l % 8) (x.t.tile (l / 8) tile)
  ({ x with t := x.t.setTile (l / 8) tile r.1 } : Ctx).addFlags r.2

/-- One fused set: its tiles opened, its lanes' rows accumulated; `rd` gives the bytes of B, `steps` the k of a lane. -/
def matSet (x : Ctx) (rd : Nat → Byte × Bool) (tile : BitVec 4) (front : Nat) (regs : Nat → List VReg)
    (steps : FWord → Nat → List Nat) (s : FusedSet) : Ctx :=
  let y := (octets s.lanes).foldl (fun y oct => y.onTile oct tile (matOpen s.fw)) x
  s.lanes.foldl (fun y l => y.matLane rd tile.toNat s (front + s.ofs) (regs l) (steps s.fw l) l) y

/-! ### Products made apart from the issue -/

/-- The fused sets of an outstanding instruction. -/
def reqSets (r : MatReq) : List FusedSet := r.sets.map fun s => { lanes := s.1, ofs := s.2.1, word := s.2.2.1 }

/-- The entry of a lane in a list by lane. -/
def laneEntry {α : Type} (es : List (Nat × List α)) (l : Nat) : List α := ((es.find? fun e => e.1 == l).map Prod.snd).getD []

/-- A byte of B as an outstanding instruction sees it: of a granule that it has read, as it was then; otherwise as it stands. -/
def reqByte (x : Ctx) (r : MatReq) (a : Nat) : Byte × Bool :=
  match r.got.find? fun g => g.1 == a / 64 with
  | some g => (g.2[a % 64]?).getD (0#8, false)
  | none => x.slotByte a

/-- An outstanding instruction performed, what it has not read yet of B read now (17 R282, R288). -/
def perform (x : Ctx) (r : MatReq) : Ctx :=
  (reqSets r).foldl (fun y s => y.matSet (x.reqByte r) r.tile r.base (laneEntry r.regs) (fun _ l => laneEntry r.ks l) s) x

/-- The oldest outstanding instruction performed. -/
def matOne (x : Ctx) : Ctx :=
  match x.t.mats with
  | [] => x
  | r :: rs => let y := x.perform r; { y with t := { y.t with mats := rs } }

/-- Every outstanding instruction performed, in issue order: what comes before an access to the team's tiles, and before the team's next
commit takes effect (17 R283, R288). -/
def matsDone (x : Ctx) : Ctx := x.t.mats.foldl (fun y _ => y.matOne) x

end Ctx

end Sys2Proof.Machine
end

