-- ==== Sys2Proof/Machine/Ops.lean ====
section
/-!
DEFINITION. The shared operations of every native instruction: completing, waiting, raising a trap and taking it, returning from a
handler (05 R110 to R112, 20 R309 to R314), and the end of a team (05 R102, 08 R164, R167).
-/
namespace Sys2Proof.Machine

namespace Cause
def illegalOpcode : Cause := 0x01#8
def illegalPair : Cause := 0x02#8
def reservedField : Cause := 0x03#8
def stallShortfall : Cause := 0x04#8
def extent : Cause := 0x05#8
def align : Cause := 0x06#8
def poisonUse : Cause := 0x07#8
def formatDivergence : Cause := 0x08#8
def copyFault : Cause := 0x09#8
def bound : Cause := 0x0A#8
def tsOrder : Cause := 0x0B#8
def rollbackUnavailable : Cause := 0x0C#8
def handleState : Cause := 0x0D#8
def queue : Cause := 0x0E#8
def divergenceDepth : Cause := 0x0F#8
end Cause

/-- No lanes. -/
def noLanes : LaneSet := 0#1024

/-! ### The word at a program counter -/

/-- A word of an image's text; outside the text words read as 0 (05 R98). -/
def Image.word (im : Image) (a : DWord) : DWord := if a.toNat % 8 = 0 then (im.text[a.toNat / 8]?).getD 0#64 else 0#64

/-- The binding of the record at an address of a translated Eceel block (22 R357): native registers, each with the virtual one that it
stands for. -/
def Image.bindsAt (im : Image) (pc : DWord) : List (RegName × RegName) :=
  ((im.binds.find? fun q => q.1 * 8 == pc.toNat).map Prod.snd).getD []

/-- OPC of a word (02 R24). -/
def wordOpc (w : DWord) : Nat := (w.extractLsb' 54 10).toNat

/-- STALL of a word. -/
def wordStall (w : DWord) : BitVec 4 := w.extractLsb' 50 4

/-- FORM of a word. -/
def wordForm (w : DWord) : BitVec 2 := w.extractLsb' 48 2

/-- Whether a word's opcode is one that 02 R40 guards per lane. -/
def laneWord (w : DWord) : Bool :=
  let o := wordOpc w
  (decide (0 < o) && decide (o < 0xA0)) || o == 0xB2 || (decide (0xE0 ≤ o) && decide (o < 0x120)) ||
  (decide (0x140 ≤ o) && decide (o < 0x160)) || o == 0x164 || o == 0x178 || o == 0x182 || o == 0x183 ||
  (decide (0x1C0 ≤ o) && decide (o < 0x1C8))

/-- Whether a word's opcode is if, break or cont, whose passes the mask gives though no guard does (07 R129). -/
def divergeWord (w : DWord) : Bool := wordOpc w == 0xC8 || wordOpc w == 0xCC || wordOpc w == 0xCD

/-- Whether a word's opcode is endloop, whose passes the lanes that it reads give (07 R129). -/
def endloopWord (w : DWord) : Bool := wordOpc w == 0xCE

/-! ### The mask stack's top -/

/-- The call base (07 R131). -/
def Team.callBase (t : Team) : Nat := (t.rstack.head?.map RetEntry.depth).getD 0

/-- The top entry, absent at or below the call base (07 R131). -/
def Team.top (t : Team) : Option MaskEntry := if t.mstack.length ≤ t.callBase then none else t.mstack.head?

/-- The lanes that an endloop reads (07 R134): the mask, and the B set of the entry on top; with none there, the mask. -/
def Team.loopReads (t : Team) : LaneSet := t.mask ||| (t.top.map MaskEntry.b).getD noLanes

namespace Ctx

/-! ### Waiting -/

/-- The instruction waits: nothing more of it happens, the program counter stays, and the team is not ready until the event comes
(07 R143). A wait for pending results ends at the cycle by which they are ready (01 R18). -/
def block (x : Ctx) (w : WaitOn) : Out :=
  .next { x with t := { x.t with
    wait := some w, readySince := none
    earliest := if w = WaitOn.result then max x.t.earliest x.t.readyAt else x.t.earliest } }.save

/-- The tier of 07 R143 that a team stands in: 0 promoted, 1 the frontier's, then by the launch's priority class. -/
def tier (x : Ctx) : Nat :=
  if x.t.promoted.isSome then 0
  else if x.c.ordered && (x.l.front[x.g.die]?).getD Key.none == x.g.key then 1
  else 5 - min 3 (((x.im.charts[x.l.chart]?).map Chart.prio).getD 0)

/-! ### Completing -/

/-- The issue used up: passes and STALL (01 R18), the round robin moved on (07 R143), nothing waits, a pending retry is over
(05 R112). -/
def issued (x : Ctx) (passes stall : Nat) : Ctx :=
  let k := x.slot
  let sl := x.s.slotOf k
  { x with
    s := x.s.setSlot k { sl with nextFree := x.t.t0 + passes, last := sl.last.set x.tier x.t.pos }
    t := { x.t with
      busy := x.t.t0 + passes, earliest := x.t.t0 + passes + stall, readySince := some (x.t.t0 + passes + stall), wait := none
      promoted := none, yielding := none, retry := none, quota := none, late := false, qturn := none } }

/-- The next instruction: `size` bytes on. -/
def goto (x : Ctx) (pc : DWord) : Ctx := { x with t := { x.t with pc := pc } }

/-- The address of the next instruction. -/
def after (x : Ctx) (size : Nat) : DWord := x.t.pc + dwordOf size

/-- A Team-guarded instruction completes (one pass, 07 R129). -/
def retire (x : Ctx) (size : Nat) (stall : BitVec 4) : Ctx := (x.issued 1 stall.toNat).goto (x.after size)

/-- The measures of a lane-guarded instruction (08 R157): the lanes selected and the passes. -/
def measure (x : Ctx) (lanes : List Nat) : Ctx :=
  { x with g := { x.g with meas := { x.g.meas with
      lanes := x.g.meas.lanes + lanes.length, passes := x.g.meas.passes + x.passes } } }

/-- A lane-guarded instruction completes whose passes take `span` cycles: its measures, and the next instruction. -/
def retireIn (x : Ctx) (span size : Nat) (stall : BitVec 4) (lanes : List Nat) : Ctx :=
  ((x.measure lanes).issued span stall.toNat).goto (x.after size)

/-- A lane-guarded instruction completes, a cycle for each pass (07 R129). -/
def retireLanes (x : Ctx) (size : Nat) (stall : BitVec 4) (lanes : List Nat) : Ctx := x.retireIn x.passes size stall lanes

/-- The next state. -/
def done (x : Ctx) : Out := .next x.save

/-! ### Traps -/

/-- Pending fixed-latency results all written (01 R21): the team goes on once they are. -/
def drainResults (t : Team) : Team :=
  { t.applyAll (t.pend.map Pending.w) with pend := [], earliest := max t.earliest t.readyAt }

/-- TrapEntry (05 R111), the team's issued matrix instructions finished (17 R297). -/
def trapEntry (x : Ctx) (cause : Cause) (lanes : LaneSet) (addr : DWord) (perLane : Bool) : Ctx :=
  let x := x.matsDone
  let t := drainResults x.t
  { x with t := { t with
      frame := { pc := t.pc, mask := t.mask, depth := t.mstack.length, lanes := lanes, cause := cause, perLane := perLane
                 tctl := t.tctl, addr := addr }
      inhandler := true
      wait := none, readySince := some t.earliest, retry := none, promoted := none, yielding := none, held := none
      quota := none, qturn := none, late := false, pc := dwordOf x.c.handler } }

/-- Raise (20 R312): held in a speculative group, the end of the group without a handler or in it, trap entry otherwise. -/
def raise (x : Ctx) (cause : Cause) (lanes : LaneSet) (addr : DWord) (perLane : Bool) : Out :=
  if x.spec then
    block { x with t := { x.t with held := some { cause := cause, lanes := lanes, perLane := perLane, addr := addr } } } .frontier
  else if !x.c.hndl || x.t.inhandler then
    .next (x.save.endGroup x.g.gid cause (BitVec.ofNat 32 x.t.idx) x.t.pc addr)
  else (x.trapEntry cause lanes addr perLane).done

/-- The issue that a precise trap uses (01 R18, 02 R41, 07 R129): the passes of the instruction at the program counter, which count
as passes in which no lane acts where it is lane-guarded, and the STALL of its first word (notes/assumptions/58.md, DEDUCED). A handler
entered from an mmas reads STEP = 0 (17 R292). -/
def trapping (x : Ctx) : Ctx :=
  let w := x.im.word x.t.pc
  let lanes := laneWord w || (wordForm w == 2#2 && laneWord (x.im.word (x.t.pc + 8#64)))
  let y := if lanes then x.measure [] else x
  let y := if wordOpc w == 0x1C1 then { y with t := { y.t with step := 0 } } else y
  y.issued (if endloopWord w then passCount x.w x.t.loopReads else if lanes || divergeWord w then x.passes else 1) (wordStall w).toNat

/-- A precise trap (20 R309). -/
def trap (x : Ctx) (cause : Cause) (lanes : LaneSet) (addr : DWord) : Out := x.trapping.raise cause lanes addr false

/-- A precise trap that names no lane and no address: %tlanes and %taddr read 0 (notes/assumptions/64.md, DESIGN CHOICE, where the spec
gives them no value). -/
def trap0 (x : Ctx) (cause : Cause) : Out := x.trap cause noLanes 0#64

/-- A lane's fault: lane, cause and address. -/
abbrev LaneFault := Nat × Cause × DWord

/-- The fault of the lowest-numbered lane. -/
def lowest (faults : List LaneFault) : Option LaneFault :=
  faults.foldl (fun (m : Option LaneFault) f => match m with
    | none => some f
    | some b => if f.1 < b.1 then some f else some b) none

/-- The end of a lane-guarded instruction whose lanes may fault (20 R309, R311): it completes, or the trap carries the cause and
the address of the lowest-numbered faulting lane and names every one. -/
def finishIn (x : Ctx) (span size : Nat) (stall : BitVec 4) (lanes : List Nat) (faults : List LaneFault) : Out :=
  match lowest faults with
  | none => (x.retireIn span size stall lanes).done
  | some f => ((x.measure lanes).issued span stall.toNat).raise f.2.1 (laneSet (faults.map fun q => q.1)) f.2.2 true

/-- The same, a cycle for each pass. -/
def finish (x : Ctx) (size : Nat) (stall : BitVec 4) (lanes : List Nat) (faults : List LaneFault) : Out :=
  x.finishIn x.passes size stall lanes faults

/-! ### The handler's way back -/

/-- The mask, %tctl and the trap registers as TRET leaves them (05 R112). -/
def leaveHandler (x : Ctx) : Ctx :=
  { x with t := { x.t with mask := x.t.frame.mask, tctl := x.t.frame.tctl, inhandler := false, frame := Frame.none } }

/-- TRET (05 R112): `next` is where the team goes on, `retry` the lanes that a retried instruction is held to. -/
def tret (x : Ctx) (stall : BitVec 4) (next : DWord) (retry : Option LaneSet) : Out :=
  if !x.t.inhandler then x.trap0 Cause.reservedField
  else if x.t.pending x.t.t0 then x.block .result
  else if x.t.mstack.length ≠ x.t.frame.depth then x.trap0 Cause.divergenceDepth
  else
    let y := ((x.issued 1 stall.toNat).leaveHandler).goto next
    ({ y with t := { y.t with retry := retry } } : Ctx).done

/-! ### Results -/

/-- A scalar result of the scalar class: ready at L = 2 (01 R18). -/
def setS (x : Ctx) (d : BitVec 6) (v : DWord) (poi : Bool) : Ctx := x.emit 2 [.s d.toNat { val := v, poi := poi }]

/-- A team's handle. -/
def handle (x : Ctx) (h : BitVec 5) : Handle := (x.g.handles[h.toNat]?).getD Handle.free

/-- A handle written back. -/
def setHandle (x : Ctx) (h : BitVec 5) (v : Handle) : Ctx := { x with g := { x.g with handles := x.g.handles.set h.toNat v } }

/-- The FAULT check of an instruction that names a handle (16 R257): COPY_FAULT, and FAULT cleared; `none` where none is pending. In a
speculative group FAULT is cleared as the trap is held (notes/assumptions/72.md, DESIGN CHOICE). -/
def handleFault (x : Ctx) (h : BitVec 5) : Option Out :=
  (x.handle h).fault.map fun a =>
    (x.setHandle h { x.handle h with fault := none }).trap Cause.copyFault noLanes a

/-- Whether a team commit's own instruction must wait, or the commit done and the rest. -/
def committing (x : Ctx) (size : Nat) (f : Ctx → Out) : Out :=
  match x.teamCommit (some (x.after size)) with
  | .error w => x.block w
  | .ok y => f y

end Ctx

/-! ### Records written by programs -/

/-- A lrset performed (16 R271): its 64 bytes written as one unit. -/
def State.lrWrite (s : State) (w : LrWrite) : State :=
  let as := (List.range w.bs.length).map fun i => w.a + i
  { s with mem := s.mem.writeN w.a w.bs, mpois := clearCovered s.mpois as, mbad := clearCovered s.mbad as }

/-! ### Barriers' turns and the end of a team -/

/-- A barrier after an arrival, or after a member has left: it turns when the arrivals equal the members (08 R166, R167). -/
def Barrier.turn (b : Barrier) : Barrier × Bool :=
  if !b.members.isEmpty && b.arrived.length == b.members.length then ({ b with arrived := [], gen := !b.gen }, true) else (b, false)

/-- A member team's end (08 R167). -/
def Barrier.leave (b : Barrier) (t : Nat) : Barrier × Bool :=
  if b.members.contains t then ({ b with members := b.members.del t, arrived := b.arrived.del t } : Barrier).turn else (b, false)

/-- A team taken out of every barrier; a turn clears the granules' recorded committers (11 R200). -/
def Group.leaveBarriers (g : Group) (t : Nat) : Group :=
  let r := g.bars.map fun b => b.leave t
  { g with bars := r.map Prod.fst, committers := if r.any Prod.snd then [] else g.committers }

/-- A team ended: its stacks, spill area and checkpoint discarded, its registers free (05 R102, R106). -/
def Team.ended (t : Team) : Team :=
  { t with
    phase := .ended, v := [], p := [], s := [], vx := [], px := [], sx := [], mstack := [], rstack := [], pend := [], loads := [], atoms := [], mats := []
    late := false, wait := none, qturn := none, held := none, buf := [], spill := [], spois := [], tiles := [], latch := { lv := false, regs := [] }
    ckpt := { n := 0, k := 0, v := [], p := [], s := [] }, retry := none, yielding := none, promoted := none, burst := none
    readySince := none, mburstAt := none, ramp := none, quota := none }

/-- A postload's check (08 R164, 16 R260, R268). -/
def State.postCheck (s : State) (im : Image) (c : Chart) (g : Group) (r ofs : Nat) : PostChk :=
  match s.recordFor im r .postload with
  | .error e => { lrec := 0#512, fault := some (e, dwordOf r) }
  | .ok bits =>
    let q := LRec.ofBits bits
    if c.winSize g < ofs + q.denseBytes then { lrec := bits, fault := some (Cause.extent, dwordOf ofs) }
    else
      match (q.drainMap 0).find? fun e => !s.mayWrite e.1 q.es with
      | some e => { lrec := bits, fault := some (Cause.copyFault, BitVec.ofInt 64 e.1) }
      | none => { lrec := bits, fault := none }

/-- The first element of a list that may not be written. -/
def State.firstUnwritable (s : State) (es : Nat) (m : List (Int × Nat)) : Option DWord :=
  (m.find? fun e => !s.mayWrite e.1 es).map fun e => BitVec.ofInt 64 e.1

/-- The fault of a drain's check, in the command's order (16 R268 step 3, R273). -/
def State.drainFault (s : State) (k : Cmd) : Option DWord :=
  let r := LRec.ofBits k.lrec
  match k.kind with
  | .scatter => (k.idx.map fun x =>
      if r.x 1 ≤ x.toNat then (if r.fillen then none else some (x.setWidth 64))
      else s.firstUnwritable r.es (r.rowMap [x])).findSome? id
  | _ => s.firstUnwritable r.es k.map

/-- Whether a copy fault ends a group whose teams have ended: one stands on a handle, or the check of a drain finds one (16 R273). -/
def State.endsBadly (s : State) (g : Group) : Bool :=
  (g.handles.any fun h => h.fault.isSome) ||
  g.drains.any fun d => ((g.handles[d.hdl]?).map Handle.chk).getD false && (s.drainFault d).isSome

/-- Main-memory bytes that a group's drains and postloads move at its commit, for its measures (08 R157): none where a copy fault ends
it, and none for a postload whose check fails. -/
def State.endBytes (s : State) (im : Image) (g : Group) (c : Chart) : Nat :=
  if s.endsBadly g then 0
  else
    g.drainBytes +
    c.post.foldl (fun n p => match p with
      | none => n
      | some (r, ofs) =>
        let k := s.postCheck im c g r ofs
        if k.fault.isSome then n else n + (LRec.ofBits k.lrec).indices.length * (LRec.ofBits k.lrec).es) 0

/-- A group whose teams have all ended with a copy fault pending on a handle (16 R273): it ends with COPY_FAULT, the lowest such
handle's, once it is not speculative (12 R227). Its drains and postloads move nothing. -/
def State.endCheck (s : State) (gid : Nat) : State :=
  match s.group? gid with
  | none => s
  | some g =>
    match s.launch? g.launch with
    | none => s
    | some l =>
      match s.chartOf l g, g.handles.find? fun h => h.fault.isSome with
      | some c, some h =>
        if g.status == .ended && !State.specOf l c g then
          s.endGroup gid Cause.copyFault (BitVec.ofNat 32 h.fteam) 0#64 (h.fault.getD 0#64)
        else s
      | _, _ => s

/-- A cut group whose last team has ended: its measures go to its die's Sextant (08 R157). -/
def Launch.groupEnds (l : Launch) (g : Group) (bytes cycle : Nat) : Launch :=
  if g.isRec then l
  else { l with fwd := l.fwd ++ [(g.die, { g.meas with bytes := g.meas.bytes + bytes, dur := cycle - g.meas.start, key := g.key }, g.vol)] }

namespace Ctx

/-- The team ends (05 R102, 08 R164 step 4): with the last one the group has ended, and its final commit is to come. A copy fault
still pending then ends the group, once it is not speculative (16 R273, 12 R227). -/
def teamEnd (x : Ctx) : Out :=
  let t := x.t.ended
  let g := (x.g.leaveBarriers x.t.idx).setTeam t
  if g.teams.all fun u => u.phase == .ended then
    let g := { g with status := .ended }
    let y := { x with t := t, g := g, l := x.l.groupEnds g (x.s.endBytes x.im g x.c) x.s.cycle }
    .next (y.save.endCheck x.g.gid)
  else .next { x with t := t, g := g }.save

end Ctx

end Sys2Proof.Machine
end

