-- ==== Sys2Proof/Machine/Operands.lean ====
section
/-!
DEFINITION. Every operand form: source B of each class (02 R27 to R29), register pairs, the guard (02 R30 to R32), the access
offset (05 R104), and what an element-wise lane-guarded instruction does with them.
-/
namespace Sys2Proof

/-- Size in bytes of an instruction whose FORM a source B decides (02 R33, R34). -/
def SrcB.size : SrcB → Nat
  | .imm32 _ => 16
  | _ => 8

/-- Size in bytes of a memory access (05 R103). -/
def Off.size : Off → Nat
  | .short _ => 8
  | .long _ => 16

/-- The signed offset in bytes (05 R104): FORM 00 in units of the access size. -/
def Off.bytes (z : Nat) : Off → Int
  | .short v => v.toInt * z
  | .long v => v.toInt

end Sys2Proof

namespace Sys2Proof.Machine

/-- What one lane of an element-wise instruction gives: its register writes and its flags. -/
abbrev LaneResult := List RegWrite × Word

namespace Ctx

/-- A register pair as one 64-bit operand; poison where either half carries it (02 R29, 05 R87). -/
def v64 (x : Ctx) (lane r : Nat) : SReg :=
  let a := x.v lane r
  let b := x.v lane (r + 1)
  { val := b.val ++ a.val, poi := a.poi || b.poi }

/-- Source B of the integer classes at 32 bits (02 R28). -/
def b32 (x : Ctx) (lane : Nat) (b : SrcB) : VReg :=
  match b with
  | .vec r => x.v lane r.toNat
  | .scl r => let s := x.scAt lane r.toNat; { val := s.val.setWidth 32, poi := s.poi }
  | .imm8 v => { val := v.signExtend 32, poi := false }
  | .imm32 v => { val := v, poi := false }

/-- Source B of the 64-bit integer types (02 R28). -/
def b64 (x : Ctx) (lane : Nat) (b : SrcB) : SReg :=
  match b with
  | .vec r => x.v64 lane r.toNat
  | .scl r => x.scAt lane r.toNat
  | .imm8 v => { val := v.signExtend 64, poi := false }
  | .imm32 v => { val := v.signExtend 64, poi := false }

/-- Source B of a floating-point instruction (02 R28): the pattern of the type, or a pair of patterns in the packed forms. -/
def bFlt (x : Ctx) (lane : Nat) (ty : FTy) (packed : Bool) (b : SrcB) : VReg :=
  match b with
  | .imm8 v =>
    let p := (ty.ff.ofInt .rne v.toInt).1
    { val := BitVec.ofNat 32 (if packed then p + p * 65536 else p), poi := false }
  | b => x.b32 lane b

/-- Source B of the Team-guarded instructions that read it at 64 bits (02 R28, 05 R94). -/
def sB (x : Ctx) (b : SrcB) : SReg :=
  match b with
  | .scl r => x.sc r.toNat
  | .imm8 v => { val := v.signExtend 64, poi := false }
  | .imm32 v => { val := v.signExtend 64, poi := false }
  | .vec _ => { val := 0#64, poi := false }

/-- The same source of a lane-guarded instruction, as the pass of a lane reads it (01 R18). -/
def sBAt (x : Ctx) (lane : Nat) (b : SrcB) : SReg :=
  match b with
  | .scl r => x.scAt lane r.toNat
  | b => x.sB b

/-- The guard predicate of a lane (02 R30). -/
def guardP (x : Ctx) (h : Head) (lane : Nat) : PReg := x.p lane h.pred.toNat

/-- The lanes that R30 selects: active, the guard true, its predicate not poisoned (02 R30, R32). -/
def sel (x : Ctx) (h : Head) : List Nat :=
  x.lanes.filter fun l => let p := x.guardP h l; !p.poi && (p.val != h.neg)

/-- POISON_USE of active lanes whose guard predicate carries poison (02 R32); it names no address. -/
def guardFaults (x : Ctx) (h : Head) : List LaneFault :=
  (x.lanes.filter fun l => (x.guardP h l).poi).map fun l => (l, Cause.poisonUse, 0#64)

/-- Flags of lanes, set when the pass of each makes its result ready (06 R120). -/
def emitFlags (x : Ctx) (lat : Nat) (fs : List (Nat × Word)) : Ctx :=
  let ps : List Pending := (fs.filter fun f => f.2 != 0#32).map fun f => { ready := x.at_ f.1 + lat, w := .flags f.2 }
  { x with t := { x.t with pend := x.t.pend ++ ps } }

/-- An element-wise lane-guarded instruction (02 R30, R32; 01 R18): each selected lane's writes and flags, ready at L. -/
def each (x : Ctx) (h : Head) (size lat : Nat) (f : Nat → LaneResult) : Out :=
  let lanes := x.sel h
  let rs := lanes.map fun l => (l, f l)
  ((x.emit lat (rs.flatMap fun r => r.2.1)).emitFlags lat (rs.map fun r => (r.1, r.2.2))).finish size h.stall lanes (x.guardFaults h)

end Ctx

end Sys2Proof.Machine
end

