-- ==== Sys2Proof/Machine/Fields.lean ====
section
/-!
DEFINITION. The checks of an issued instruction that depend on the team: the registers it names (01 R9), the Chart's handles,
tiles, queues and width (02 R25, R41 step 8), the checking scoreboard (01 R21, 02 R41 step 9), and the interlocks of loads and
atomics (01 R20, 13 R244).
-/
namespace Sys2Proof

/-- The number of a register, and a register of its kind with another. -/
def RegName.number : RegName → Nat
  | .v k | .s k | .p k => k

def RegName.like : RegName → Nat → RegName
  | .v _, k => .v k
  | .s _, k => .s k
  | .p _, k => .p k

/-- The registers of a list of one's own kind, by number. -/
def RegName.fellows (n : RegName) (l : List RegName) : List Nat := (l.filter fun m => n.like m.number == m).map RegName.number

/-- The registers of a list that results can be pending for: all but pT (01 R8). -/
def noPT (l : List RegName) : List RegName := l.filter (· != .p 63)

/-- The registers an instruction reads in its passes, those it reads in every lane at its first pass, and those it writes. -/
structure Uses where
  src : List RegName
  now : List RegName
  dst : List RegName
  deriving DecidableEq, Repr

/-- Every register that an instruction names. -/
def Uses.all (u : Uses) : List RegName := u.src ++ u.now ++ u.dst

/-- No register. -/
def Uses.none : Uses := { src := [], now := [], dst := [] }

/-- The guard predicate as a source (02 R30). -/
def Head.uses (h : Head) : List RegName := if h.pred.toNat < 48 then [.p h.pred.toNat] else []

/-- A 6-bit predicate operand. -/
def p6 (p : BitVec 6) : List RegName := if p.toNat < 48 then [.p p.toNat] else []

def VInt.uses (op : IntOpc) (o : VInt) : Uses := { src := o.h.uses ++ noPT (o.srcs op), now := [], dst := noPT (o.dsts op) }
def VFlt.uses (op : FltOpc) (o : VFlt) : Uses := { src := o.h.uses ++ noPT (o.srcs op), now := [], dst := noPT (o.dsts op) }

/-- The runs of the conversion class (06 R121 to R124). -/
def VCvt.uses (op : CvtOpc) (o : VCvt) : Uses :=
  match op with
  | .cvt =>
    { src := o.h.uses ++ vRun o.a.toNat (if (o.src.map Fmt.wide).getD false then 2 else 1), now := []
      dst := vRun o.d.toNat (if o.fmt.wide then 2 else 1) }
  | .qpack4 => { src := o.h.uses ++ vRun o.a.toNat 8 ++ o.b.regs 1, now := [], dst := [.v o.d.toNat] }
  | .qunpack4 => { src := o.h.uses ++ [.v o.a.toNat] ++ o.b.regs 1, now := [], dst := vRun o.d.toNat 8 }
  | .scalepick => { src := o.h.uses ++ vRun o.a.toNat 32, now := [], dst := [.v o.d.toNat] }
  | .cvt8x4 => { src := o.h.uses ++ vRun o.a.toNat 4, now := [], dst := [.v o.d.toNat] }
  | .cvtq => { src := o.h.uses ++ [.v o.a.toNat], now := [], dst := vRun o.d.toNat 4 }

def SOp.uses (op : SclOpc) (o : SOp) : Uses := { src := o.srcs op, now := [], dst := [.s o.d.toNat] }

/-- The operands of the cross-lane class (07 R137): shfl's A is read in every lane. -/
def XLane.uses (op : XOpc) (o : XLane) : Uses :=
  let g := o.h.uses
  match op with
  | .shfl => { src := g ++ o.b.regs 1, now := [.v o.a.toNat], dst := [.v o.d.toNat] }
  | .ballot => { src := g ++ pName o.a ++ (if o.sub == 1#3 then o.b.regs 1 else []), now := [], dst := [.v o.d.toNat] }
  | .vote => { src := g ++ pName o.a, now := [], dst := pName o.d }
  | .popm => { src := g ++ pName o.a, now := [], dst := [.v o.d.toNat] }
  | .scan | .reduce =>
    { src := g ++ [.v o.a.toNat] ++ (match o.b with
        | .vec k => if k.getLsbD 3 then pName o.c else []
        | _ => []), now := [], dst := [.v o.d.toNat] }
  | .matchOp => { src := g ++ [.v o.a.toNat], now := [], dst := if o.sub == 1#3 then pName o.d else [.v o.d.toNat] }
  | .elect => { src := g, now := [], dst := pName o.d }
  | .lmask => { src := g, now := [], dst := [.v o.d.toNat] }

/-- The registers of a memory access (05 R103, 02 R29). -/
def MemOp.uses (op : MemOpc) (o : MemOp) : Uses :=
  let d := vRun o.r.toNat o.size.regs
  if op.loads then { src := o.h.uses ++ [.v o.a.toNat], now := [], dst := d }
  else { src := o.h.uses ++ [.v o.a.toNat] ++ d, now := [], dst := [] }

/-- The registers of an atomic (13 R239). -/
def AtomOp.uses (op : AtomOpc) (o : AtomOp) : Uses :=
  let c : List RegName := if op == .atom && o.op == 9#4 then [.v o.c.toNat] else []
  { src := o.h.uses ++ [.v o.a.toNat] ++ o.b.regs 1 ++ c, now := []
    dst := if op == .atom || op == .atomf then [.v o.d.toNat] else [] }

/-- The registers of mma and mmas, the A run apart (17 R283). -/
def MmaOp.others (o : MmaOp) : List RegName :=
  o.h.uses ++ [.v o.f.toNat] ++ (match o.b with
    | .handle _ vo => [.v vo.toNat]
    | .tile _ _ st => [.s st.toNat])

/-- The handle that an mma names. -/
def MatB.hdl : MatB → BitVec 5
  | .handle h _ => h
  | .tile h _ _ => h

/-- Registers that one column of mread takes, and the run of eight (17 R295); `.fw` depends on the tile. -/
def Cv.run : Cv → Nat
  | .raw => 32
  | .fw => 0
  | _ => 8

/-- Sources of one operation of a pair with its guard (02 R37, R38). -/
def PairHalf.uses : PairHalf → Uses
  | .int op o => o.uses op
  | .flt op o => o.uses op
  | .smov o => o.uses .smov
  | .vbcast o => { src := o.h.uses ++ o.b.regs 1, now := [], dst := [.v o.d.toNat] }

/-- The registers of an instruction; a step of the device names none. -/
def Instr.uses : Instr → Uses
  | .iadd o => o.uses .iadd | .isub o => o.uses .isub | .imul o => o.uses .imul | .imulh o => o.uses .imulh
  | .imad o => o.uses .imad | .iadd64 o => o.uses .iadd64 | .isub64 o => o.uses .isub64 | .imin o => o.uses .imin
  | .imax o => o.uses .imax | .iabs o => o.uses .iabs | .ineg o => o.uses .ineg | .iaddsat o => o.uses .iaddsat
  | .isubsat o => o.uses .isubsat | .and o => o.uses .and | .or o => o.uses .or | .xor o => o.uses .xor
  | .not o => o.uses .not | .andn o => o.uses .andn | .shl o => o.uses .shl | .shr o => o.uses .shr
  | .sar o => o.uses .sar | .rol o => o.uses .rol | .bfx o => o.uses .bfx | .bfi o => o.uses .bfi
  | .popc o => o.uses .popc | .clz o => o.uses .clz | .ctz o => o.uses .ctz | .brev o => o.uses .brev
  | .sel o => o.uses .sel | .icmp o => o.uses .icmp | .clamp o => o.uses .clamp | .idot4 o => o.uses .idot4
  | .idot8 o => o.uses .idot8 | .srshr o => o.uses .srshr
  | .fadd o => o.uses .fadd | .fsub o => o.uses .fsub | .fmul o => o.uses .fmul | .ffma o => o.uses .ffma
  | .fmin o => o.uses .fmin | .fmax o => o.uses .fmax | .fabs o => o.uses .fabs | .fneg o => o.uses .fneg
  | .fcmp o => o.uses .fcmp | .fclass o => o.uses .fclass | .hadd2 o => o.uses .hadd2 | .hmul2 o => o.uses .hmul2
  | .hfma2 o => o.uses .hfma2 | .frcp o => o.uses .frcp | .frsq o => o.uses .frsq | .fsqrt o => o.uses .fsqrt
  | .fexp2 o => o.uses .fexp2 | .flog2 o => o.uses .flog2 | .fsin o => o.uses .fsin | .fcos o => o.uses .fcos
  | .ftanh o => o.uses .ftanh | .pchk o => o.uses .pchk
  | .cvt o => o.uses .cvt | .qpack4 o => o.uses .qpack4 | .qunpack4 o => o.uses .qunpack4 | .scalepick o => o.uses .scalepick
  | .cvt8x4 o => o.uses .cvt8x4 | .cvtq o => o.uses .cvtq
  | .sadd o => o.uses .sadd | .ssub o => o.uses .ssub | .smul o => o.uses .smul | .smad o => o.uses .smad
  | .sand o => o.uses .sand | .sor o => o.uses .sor | .sxor o => o.uses .sxor | .sshl o => o.uses .sshl
  | .sshr o => o.uses .sshr | .ssar o => o.uses .ssar | .smin o => o.uses .smin | .smax o => o.uses .smax
  | .scmp o => o.uses .scmp | .smov o => o.uses .smov
  | .shfl o => o.uses .shfl | .ballot o => o.uses .ballot | .vote o => o.uses .vote | .popm o => o.uses .popm
  | .scan o => o.uses .scan | .reduce o => o.uses .reduce | .matchOp o => o.uses .matchOp | .elect o => o.uses .elect
  | .lmask o => o.uses .lmask
  | .ldl o => o.uses .ldl | .stl o => o.uses .stl | .lds o => o.uses .lds | .sts o => o.uses .sts
  | .ldd o => o.uses .ldd | .std o => o.uses .std
  | .atom o => o.uses .atom | .atomf o => o.uses .atomf | .red o => o.uses .red | .redf o => o.uses .redf
  | .sli _ sub d _ =>
    { src := if decide (sub.toNat ≤ 1) then [.s d.toNat] else [], now := [], dst := [.s d.toNat] }
  | .sget _ d x =>
    match selScope x with
    | some .lane => { src := [], now := [], dst := [.v d.toNat] }
    | some .wide => { src := [], now := [], dst := [.s d.toNat, .s (d.toNat + 1)] }
    | _ => { src := [], now := [], dst := [.s d.toNat] }
  | .sset _ _ b => { src := b.regs 1, now := [], dst := [] }
  | .vbcast o => { src := o.h.uses ++ o.b.regs 1, now := [], dst := [.v o.d.toNat] }
  | .vlane _ _ d a b => { src := b.regs 1, now := [.v a.toNat], dst := [.s d.toNat] }
  | .brc _ c x _ => if c == .snz then { src := [.s x.toNat], now := [], dst := [] } else { src := [], now := p6 x, dst := [] }
  | .ifOp _ c _ | .breakOp _ c _ | .cont _ c _ | .endloop _ c _ => { src := [], now := p6 c.p, dst := [] }
  | .waitp _ _ b => { src := b.regs 1, now := [], dst := [] }
  | .tcommitCk _ b => { src := b.regs 1, now := [], dst := [] }
  | .fence h _ => { src := h.uses, now := [], dst := [] }
  | .spawn h a t _ len =>
    { src := h.uses ++ vRun a.toNat (len.toNat + 1) ++ vRun t.toNat 2, now := [], dst := [] }
  | .gpark _ on _ =>
    match on with
    | .signal s _ => { src := [.s s.toNat], now := [], dst := [] }
    | _ => Uses.none
  | .qpush _ _ b => { src := b.regs 1, now := [], dst := [] }
  | .qpop _ d _ => { src := [], now := [], dst := [.s d.toNat] }
  | .qtryPop _ d f _ => { src := [], now := [], dst := [.s d.toNat, .s f.toNat] }
  | .qtryPush _ f _ b => { src := b.regs 1, now := [], dst := [.s f.toNat] }
  | .cpin _ _ _ b => { src := b.regs 1, now := [], dst := [] }
  | .cpout _ _ _ _ b => { src := b.regs 1, now := [], dst := [] }
  | .gather h _ _ v => { src := h.uses ++ [.v v.toNat], now := [], dst := [] }
  | .scatter h _ _ v => { src := h.uses ++ [.v v.toNat], now := [], dst := [] }
  | .hstatSt _ d _ => { src := [], now := [], dst := [.s d.toNat] }
  | .hstatTag _ d _ => { src := [], now := [], dst := [.s d.toNat] }
  | .lrset _ s b => { src := b.regs 1 ++ (List.range 8).map fun j => .s (s.toNat + j), now := [], dst := [] }
  | .mma o => { src := o.others ++ vRun o.a.toNat 8, now := [], dst := [] }
  | .mmas o vm sm => { src := o.others ++ vRun o.a.toNat 8 ++ vRun vm.toNat 2 ++ [.s sm.toNat], now := [], dst := [] }
  | .mzero h _ _ => { src := h.uses, now := [], dst := [] }
  | .mload h _ vs _ _ => { src := h.uses ++ vRun vs.toNat 32, now := [], dst := [] }
  | .mread h d _ cv _ => { src := h.uses, now := [], dst := vRun d.toNat cv.run }
  | .mstore h a _ _ _ _ => { src := h.uses ++ [.v a.toNat], now := [], dst := [] }
  | .mburst _ b => { src := b.regs 1, now := [], dst := [] }
  | .mstepGet _ d => { src := [], now := [], dst := [.s d.toNat] }
  | .mstepSet _ b => { src := b.regs 1, now := [], dst := [] }
  | .cycle _ d => { src := [], now := [], dst := [.s d.toNat] }
  | .vgrow _ b => { src := b.regs 1, now := [], dst := [] }
  | .vshrink _ b => { src := b.regs 1, now := [], dst := [] }
  | .featq _ d b => { src := b.regs 1, now := [], dst := [.s d.toNat] }
  | .pairedIssue x y =>
    let a := x.uses
    let b := y.uses
    { src := a.src ++ b.src, now := a.now ++ b.now, dst := a.dst ++ b.dst }
  | _ => Uses.none

/-- Every register that an instruction names exists for a team of n registers per lane (01 R9), or is one of those lent to it. -/
def Uses.below (u : Uses) (n : Nat) (lent : List RegName) : Bool :=
  (u.src ++ u.now ++ u.dst).all fun r => match r with
    | .v k => decide (k < n) || lent.contains r
    | _ => true

end Sys2Proof

namespace Sys2Proof.Machine

/-- The fields that depend on the Chart and the image (02 R25, 05 R103, 07 R136, 11 R201, 12 R221, R234, 16 R264, 17 R283). -/
def Ctx.fieldOk (x : Ctx) (i : Instr) : Bool :=
  let hdl (h : BitVec 5) : Bool := decide (h.toNat < x.c.hcount)
  let tile (t : BitVec 4) : Bool := decide (t.toNat < x.c.tiles)
  match i with
  | .shfl o | .ballot o | .vote o | .popm o | .scan o | .reduce o | .matchOp o | .elect o | .lmask o =>
    o.seg == 0#4 || decide (2 ^ o.seg.toNat ≤ x.w)
  | .ldl o | .stl o => !o.hofs || hdl o.hdl
  | .xfence _ h | .hrel _ h | .hwait _ h _ | .hstatSt _ _ h | .hstatTag _ _ h | .cpin _ h _ _ | .cpout _ _ h _ _
  | .gather _ h _ _ | .scatter _ h _ _ => hdl h
  | .gpark _ on live =>
    decide (live.toNat ≤ x.t.nregs) && (match on with
      | .hstate h _ => hdl h
      | .qne q => decide (q.toNat < x.c.qcount)
      | _ => true)
  | .spawn _ _ _ node _ => decide (node.toNat < x.im.nodes.length)
  | .mma o => tile o.tile && hdl o.b.hdl
  | .mmas o _ _ => tile o.tile && hdl o.b.hdl
  | .mzero _ t _ | .mload _ t _ _ _ | .mread _ _ t _ _ | .mstore _ _ _ t _ _ => tile t
  | _ => true

/-- The native registers in which the instruction at the team's program counter finds virtual ones, whatever the team's count (22 R357). -/
def Ctx.lent (x : Ctx) : List RegName := (x.im.bindsAt x.t.pc).map Prod.fst

/-- Whether a run of n vector registers from the a-th exists for the team (01 R9). -/
def Ctx.holds (x : Ctx) (a n : Nat) : Bool :=
  decide (a + n ≤ x.t.nregs) || (List.range n).all fun j => decide (a + j < x.t.nregs) || x.lent.contains (.v (a + j))

/-- Step 8 of 02 R41 on the team: RESERVED_FIELD where it fails. -/
def Ctx.fieldsOk (x : Ctx) (i : Instr) : Bool := i.uses.below x.t.nregs x.lent && x.fieldOk i

/-- Whether a pending write stands in the way of a read of its register that issues at a cycle: it is the newest of the register
and not ready (01 R21). -/
def lateFor (ps : List Pending) (r : RegName) (cyc : Nat → Nat) : Bool :=
  match ps with
  | [] => false
  | e :: rest =>
    let hit (w : RegWrite) : Option Nat := match w, r with
      | .v l k _, .v n => if k = n then some l else none
      | .p l k _, .p n => if k = n then some l else none
      | .s k _, .s n => if k = n then some 0 else none
      | _, _ => none
    (match hit e.w with
     | some l => decide (cyc l < e.ready) && !rest.any fun f => f.w.sameReg e.w
     | none => false) || lateFor rest r cyc

/-- Registers whose readiness step 9 checks: the A run of mma and mmas counts nine registers, those that exist (02 R41, 17 R283),
and none where the latch gives A (17 R290). -/
def Ctx.checked (x : Ctx) (i : Instr) : List RegName :=
  let run (o : MmaOp) : List RegName :=
    if o.reuse && x.t.latch.lv then [] else (vRun o.a.toNat 9).filter fun r => match r with
      | .v k => decide (k < x.t.nregs) || x.lent.contains r
      | _ => true
  match i with
  | .mma o => o.others ++ run o
  | .mmas o vm sm => o.others ++ run o ++ vRun vm.toNat 2 ++ [.s sm.toNat]
  | _ => i.uses.src

/-- The structured instructions that read a condition: they wait before they issue (07 R133, 01 R19). -/
def waitsToIssue : Instr → Bool
  | .ifOp _ _ _ | .breakOp _ _ _ | .cont _ _ _ | .endloop _ _ _ => true
  | _ => false

/-- Step 9 of 02 R41: whether a source is read before its result is ready. For vlane, which reads one lane of its register (05 R97), and for
shfl every active lane's pass counts (notes/assumptions/39.md, DEDUCED). -/
def Ctx.shortfall (x : Ctx) (i : Instr) : Bool :=
  tctlChk x.t.tctl && !waitsToIssue i &&
  ((x.checked i).any (fun r => lateFor x.t.pend r (match r with
      | .s _ => fun _ => x.t.t0
      | _ => x.at_)) ||
   i.uses.now.any fun r => lateFor x.t.pend r fun _ => x.t.t0)

/-- The registers that an instruction may write, the run of mread.fw by its widest form (17 R283). -/
def mayWrite (i : Instr) : List RegName :=
  match i with
  | .mread _ d _ .fw _ => vRun d.toNat 32
  | _ => i.uses.dst

/-- Whether a load in flight has one of a list of registers as a destination, whatever lanes it selects (01 R20). -/
def Team.loadsInto (t : Team) (rs : List RegName) : Bool := t.loads.any fun l => l.dst.any fun k => rs.contains (.v k)

/-- Whether an outstanding atomic is to write its old values to one of a list of registers (13 R244). -/
def Team.atomsInto (t : Team) (rs : List RegName) : Bool := t.atoms.any fun q => q.ret.any fun k => rs.contains (.v k)

/-- What an instruction waits for before it issues: a load that is to write one of its destinations (01 R20), an atomic that is to
write one of its registers, those of an A run in the widest form (13 R244). -/
def Ctx.interlock (x : Ctx) (i : Instr) : Option WaitOn :=
  if x.t.loadsInto (mayWrite i) then some .load
  else if x.t.atomsInto (x.checked i ++ i.uses.now ++ mayWrite i) then some .atomic
  else none

end Sys2Proof.Machine
end

