-- ==== Sys2Proof/Machine/Issue.lean ====
section
/-!
DEFINITION. The issue of an instruction: which teams may issue, the time of an issue (01 R18, 07 R129, R143), fetching and
decoding (05 R98, 02 R41), the checks before execution, and what follows an issue (07 R144).
-/
namespace Sys2Proof

/-- The trap of a decoding check (02 R41). -/
def Reject.cause : Reject → Machine.Cause
  | .short | .illegalOpcode => Machine.Cause.illegalOpcode
  | .illegalPair => Machine.Cause.illegalPair
  | .reservedField => Machine.Cause.reservedField
  | .align => Machine.Cause.align

end Sys2Proof

namespace Sys2Proof.Machine

/-- The instruction at a team's program counter (05 R98, 02 R41). -/
def Ctx.fetch (x : Ctx) : Except Reject Instr :=
  decodeWords (x.im.word x.t.pc) (x.im.word (x.t.pc + 8#64)) (x.t.pc.toNat / 8 % 2 == 1)

/-- Whether a team is one that may issue at all: it runs, on a clocked slot, and nothing outside its instruction holds it: a pre-emption
that stops its group (20 R318), a held trap, a yield. -/
def State.mayIssue (s : State) (gi ti : Nat) : Bool :=
  match s.group? gi with
  | none => false
  | some g =>
    match g.team? ti with
    | none => false
    | some t =>
      let sl := s.slotOf (slotKey g.die g.core t.slot)
      g.status == .running && !g.stop && t.phase == .running && t.held.isNone &&
      (match t.yielding with
       | none => true
       | some y => y.teams.isEmpty) &&
      sl.point != .off && sl.changing.isNone

/-- Whether a team may issue its instruction as an issue: one whose command waits for an entry of the queue goes on by COPY_ACCEPT. -/
def State.canIssue (s : State) (gi ti : Nat) : Bool :=
  s.mayIssue gi ti && ((s.group? gi).bind fun g => g.team? ti).any fun t => t.wait != some .queueEntry

/-- The slot cycle at which a team's next instruction issues its first pass (01 R18). What the teams of a group do in one cycle takes
effect in ascending team index (08 R166, R170, 11 R200): once a team of higher index has committed, a team waits for the next
cycle. -/
def issueAt (s : State) (g : Group) (t : Team) : Nat :=
  let sl := s.slotOf (slotKey g.die g.core t.slot)
  let c := max (sl.clock s.cycle) (max t.earliest sl.nextFree)
  match g.turn with
  | none => c
  | some (cyc, j) => if t.idx < j ∧ sl.refOf c ≤ cyc then c + 1 else c

/-- The issue that a trap of a waiting instruction takes, where a step of the device raises it: the team's next one (01 R18, 02 R41). -/
def Ctx.atIssue (x : Ctx) : Ctx := { x with t := { x.t with t0 := issueAt x.s x.g x.t } }

/-- The state in which a team issues: time moved on to the issue, ready results written, the team executing. -/
def State.atIssue (s : State) (gi ti : Nat) : State :=
  match s.group? gi with
  | none => s
  | some g =>
    match g.team? ti with
    | none => s
    | some t =>
      let t0 := issueAt s g t
      let sl := s.slotOf (slotKey g.die g.core t.slot)
      let s := s.advance (sl.refOf t0)
      let s := s.setGroup (g.setTeam { t.settle t0 with t0 := t0 })
      { s with cur := some (gi, ti) }

/-- The checks between decoding and execution (02 R41, steps 8 and 9, and the interlocks): the trap or the wait, or `none`. -/
def Ctx.precheck (x : Ctx) (i : Instr) : Option Out :=
  if !x.fieldsOk i then some (x.trap0 Cause.reservedField)
  else match x.interlock i with
  | some w => some (x.block w)
  | none => if x.shortfall i then some (x.trap0 Cause.stallShortfall) else none

/-- A team's issue noted by the teams of its slot that yield (07 R144). -/
def State.noteIssue (s : State) (gi ti : Nat) : State :=
  if s.groups.any fun g => g.teams.any fun t => t.yielding.isSome then
    { s with groups := s.groups.map fun g => { g with teams := g.teams.map fun t =>
        { t with yielding := t.yielding.map fun y => { y with teams := y.teams.filter fun p => p != (gi, ti) } } } }
  else s

/-- Whether a team stands blocked. -/
def State.blockedNow (s : State) (gi ti : Nat) : Bool := ((s.group? gi).bind fun g => g.team? ti).any fun t => t.wait.isSome

/-- After an issue: no team executes, and the teams that yield note an instruction that did not block (07 R144). -/
def State.afterIssue (s : State) (gi ti : Nat) : State :=
  if s.blockedNow gi ti then { s with cur := none } else { s.noteIssue gi ti with cur := none }

/-- After a step of the device or a host command: no team executes. -/
def State.afterEvent (s : State) : State := { s with cur := none }

/-- An outcome's next state changed. -/
def mapNext (f : State → State) : Out → Out
  | .next s => .next (f s)
  | .fault r => .fault r
  | .refused r => .refused r

end Sys2Proof.Machine
end

