-- ==== Sys2Proof/Machine/Place.lean ====
section
/-!
DEFINITION. A program of one instruction, put where the next step fetches: the load of an image, the admission of a launch and the
dispatch of its only group stood for by their outcome (notes/assumptions/3.md).
-/
namespace Sys2Proof.Machine

/-- A Chart that admits every field of an instruction: 256 registers, 32 handles, 16 queues, 16 tiles, one point. -/
def placeChart : Chart :=
  { rsvZero := true, kept := 0, entry := 0, handler := 0, sent := [0, 0, 0], stages := [0, 0, 0], wid := 0, regs := 256, ckpt := 16, tiles := 16
    vmax := 1, mul := [1, 0, 0, 0], max := [1, 0, 0, 0], min := [1, 0, 0, 0], ext := [1, 0, 0, 0], winfix := 4096, winpp := 0
    tbuf := 0, commit := 0, spill := 64, hsize := 1088, hcount := 32, qcount := 16, qdepth := 4, barst := 0
    tsbase := 0#64, tscoef := [0#64, 0#64, 0#64, 0#64], pre := [none, none, none, none], post := [none, none, none, none], cuts := 0
    budget := 1000, pclass := 0, prio := 0, hndl := true, ncut := 0, script := false, recutOff := true, pinb := 0, pin := false
    bearm := 0, node := 0, nodeb := false, ordered := false, rank := 1 }

/-- The words of an instruction's bits: the first word, and the second. -/
def placeText (w : Nat) : List DWord := [BitVec.ofNat 64 w, BitVec.ofNat 64 (w / 2 ^ 64)]

/-- An image of that text. -/
def placeImage (id w : Nat) : Image :=
  { id := id, charts := [placeChart], recs := 0, nrecs := 0, nodes := List.replicate 16 (1, 1), data := 0, dsize := 0
    text := placeText w, binds := [], digest := [] }

/-- Its launch. -/
def placeLaunch (id im : Nat) : Launch :=
  { Launch.fresh id im 0 with
    budget := 1000, dies := [0], dsize := 4096, nc := 64, phase := .dispatching, shape := [1, 1, 1, 1], origin := 1, dvol := 1 }

/-- Its group, dispatched on die 0, core 0. -/
def placeGroup (id l : Nat) : Group := { Group.fresh id l 0 with nonspec := true, drawn := true }

/-- The group with its team running. -/
def placeRunning (id : Nat) (l : Launch) : Group :=
  let g := (placeGroup id l.id).dispatched l placeChart 0 [0] [0]
  { g with status := .running, teams := g.teams.map fun t => { t with phase := .running, readySince := some 0 } }

/-- The state with a program of one instruction about to issue. -/
def placeWord (s : State) (w : Nat) : State :=
  let n := s.nextId
  let l := placeLaunch (n + 1) n
  { s with
    images := s.images ++ [placeImage n w], launches := s.launches ++ [l], groups := s.groups ++ [placeRunning (n + 2) l]
    nextId := n + 3, agenda := [.team (n + 2) 0] }

end Sys2Proof.Machine
end

