-- ==== Sys2Proof/Machine/MemAccess.lean ====
section
/-!
DEFINITION. Window, spill and die accesses (05 R103 to R109, 10 R178 to R188), bank conflicts (10 R179), the read set (12 R225,
R226) and waitp.
-/
namespace Sys2Proof

/-- The bytes of a value. -/
def wordBytes (v : Word) : List Byte := Machine.leBytes 4 v.toNat

end Sys2Proof

namespace Sys2Proof.Machine

/-- k − 1 of one request: k is the largest number of its distinct words in one bank (10 R179). -/
def bankExtra (ws : List Nat) (bank : Nat → Nat) : Nat :=
  let ds := ws.eraseDups
  (ds.map fun w => (ds.filter fun v => bank v == bank w).length).foldl max 0 - 1

/-- The bank of a word of the window or of the handle area (10 R177). -/
def bank128 (w : Nat) : Nat := w % 128

/-- The bank of a word of the die region: banks of different cores differ. -/
def dieBank (w : Nat) : Nat := w / 2 ^ 19 * 128 + w % 128

/-- The words of n bytes from an address. -/
def wordsOf (a n : Nat) : List Nat := (List.range ((a + n - 1) / 8 + 1 - a / 8)).map fun i => a / 8 + i

/-- Physical offset of a byte of a lane's spill area from the team's spill base (10 R180). -/
def spillPhys (w lane b : Nat) : Nat := (b / 4 * w + lane) * 4 + b % 4

/-- Where a byte of a lane's spill area is kept. -/
def spillKey (lane b : Nat) : Nat := lane * 4096 + b

/-- Whether a die-space address is one (10 R184). -/
def dieOk (ea : Int) (z d : Nat) : Bool :=
  decide (0 ≤ ea) && decide (ea < 2 ^ 32) && ea.toNat / 2 ^ 22 % 16 == 0 && decide (ea.toNat % 2 ^ 22 + z ≤ d)

/-- The physical slot of a handle's front, and of its shadow (16 R254). -/
def frontSlot (h : Nat) (v : Handle) : Nat := 2 * h + if v.front then 1 else 0
def shadowSlot (h : Nat) (v : Handle) : Nat := 2 * h + if v.front then 0 else 1

namespace Ctx

/-- Bank conflicts of the passes of an access added to %bkconf: the lanes that access, with the words of each (10 R179). -/
def addConf (x : Ctx) (acc : List (Nat × List Nat)) (bank : Nat → Nat) : Ctx :=
  let ps := (acc.map fun a => a.1 / 32).eraseDups
  let n := ps.foldl (fun n p => n + bankExtra ((acc.filter fun a => a.1 / 32 == p).flatMap Prod.snd) bank) 0
  { x with g := { x.g with bkconf := x.g.bkconf + n } }

/-- Loads in flight on a path (01 R22). -/
def inFlight (x : Ctx) (p : Path) : Nat := (x.t.loads.filter fun l => l.path == p).length

/-- The address of an access in a lane: exact, may be negative (05 R104). -/
def ea (x : Ctx) (o : MemOp) (lane : Nat) : Int := ((x.v lane o.a.toNat).val.toNat : Int) + o.off.bytes o.size.bytes

/-- The data registers of a store in a lane. -/
def dataOf (x : Ctx) (o : MemOp) (lane : Nat) : List VReg := (List.range o.size.regs).map fun j => x.v lane (o.r.toNat + j)

/-- The bytes that a store writes. -/
def dataBytes (x : Ctx) (o : MemOp) (lane : Nat) : List Byte :=
  ((x.dataOf o lane).flatMap fun v => wordBytes v.val).take o.size.bytes

/-- The checks of an access in a lane, in order (05 R104, 10 R186): the fault, or the address. -/
def check (x : Ctx) (o : MemOp) (store : Bool) (inside : Int → Bool) (outside : Cause) (lane : Nat) : Except LaneFault Nat :=
  let a := x.v lane o.a.toNat
  let e := x.ea o lane
  let addr : DWord := BitVec.ofInt 64 e
  if a.poi then .error (lane, Cause.poisonUse, a.val.setWidth 64)
  else if e % (o.size.bytes : Int) ≠ 0 then .error (lane, Cause.align, addr)
  else if !inside e then .error (lane, outside, addr)
  else if store && (x.dataOf o lane).any VReg.poi then .error (lane, Cause.poisonUse, addr)
  else .ok e.toNat

/-- The selected lanes that pass their checks, with their addresses, and the faults: the guard's and the lanes'. -/
def checks (x : Ctx) (h : Head) (f : Nat → Except LaneFault Nat) : List (Nat × Nat) × List LaneFault :=
  let rs := (x.sel h).map fun l => (l, f l)
  (rs.filterMap fun r => match r.2 with
    | .ok a => some (r.1, a)
    | .error _ => none,
   x.guardFaults h ++ rs.filterMap fun r => match r.2 with
    | .ok _ => none
    | .error e => some e)

/-- A load issued (01 R22): `parts` are the lanes that load, which are performed later (10 R188), `ws` the values already taken. -/
def loading (x : Ctx) (o : MemOp) (path : Path) (parts : List LoadPart) (ws : List RegWrite) (faults : List LaneFault) : Out :=
  let l : Load := { path := path, dst := (List.range o.size.regs).map fun j => o.r.toNat + j, todo := parts, ws := ws }
  finish { x with t := { x.t with loads := x.t.loads ++ [l] } } o.off.size o.h.stall (x.sel o.h) faults

/-- The part of a load in a lane: what the team's own buffer gives is taken at the issue (05 R107; 10 R188, step 1). -/
def part (x : Ctx) (o : MemOp) (sp : Space) (lane a : Nat) : LoadPart :=
  { lane := lane, r := o.r.toNat, sx := o.sx, sp := sp, a := a, own := x.t.ownBytes sp a o.size.bytes }

/-- Whether an atomic is still to write a byte of one of a list of window accesses (lane, address, bytes) that must come after it: one of .g
in the lane itself, one of .t, a store of the team, in any (05 R107, 13 R248). -/
def atomAhead (x : Ctx) (sp : Space) (acc : List (Nat × Nat × Nat)) (q : AtomReq) (l : AtomLane) : Bool :=
  acc.any fun p => (q.scope == .t || p.1 == l.lane) && (List.range p.2.2).any fun i => x.atomHit q.scope l.ea sp (p.2.1 + i)

/-- The team's window atomics served as far as a lane's window access must come after its own earlier ones (01 R17, 24 R365), in issue
order, at most n addresses. -/
def afterAtoms (x : Ctx) (sp : Space) (acc : List (Nat × Nat × Nat)) : Nat → Ctx
  | 0 => x
  | n + 1 =>
    let ahead (q : AtomReq) : Option AtomLane := q.todo.find? (x.atomAhead sp acc q)
    if x.t.atoms.all fun q => (ahead q).isNone then x
    else match x.atomStep (((x.t.atoms.find? fun q => !q.todo.isEmpty).bind ahead).map AtomLane.ea) with
      | none => x
      | some y => y.afterAtoms sp acc n

/-- The state in which a window load takes its bytes: what must come before it has, or it waits. -/
def ordered (x : Ctx) (sp : Space) (acc : List (Nat × Nat × Nat)) (f : Ctx → Out) : Out :=
  let y := x.afterAtoms sp acc (x.t.atoms.foldl (fun n q => n + q.todo.length) 0)
  if y.t.atoms.any fun q => q.todo.any (y.atomAhead sp acc q) then x.block .atomic else f y

/-- A window store made where no .t atomic before it is still to write a byte of it: it waits for that (05 R107). -/
def afterTeam (x : Ctx) (sp : Space) (acc : List (Nat × Nat × Nat)) (f : Out) : Out :=
  if x.t.atoms.any fun q => q.scope == .t && q.todo.any (x.atomAhead sp acc q) then x.block .atomic else f

/-- A path has room for one load more (01 R22). -/
def onPath (x : Ctx) (p : Path) (f : Out) : Out := if 63 ≤ x.inFlight p then x.block .path else f

/-- The storage of a window access, the place of its byte 0, and its limit (05 R104). -/
def winPlace (x : Ctx) (o : MemOp) : Space × Nat × Nat :=
  if o.hofs then (.slot, frontSlot o.hdl.toNat (x.handle o.hdl) * x.c.hsize, x.c.hsize) else (.win, 0, x.c.winSize x.g)

/-- The FAULT check of a handle-relative access (16 R257). -/
def hofsChecked (x : Ctx) (o : MemOp) (f : Out) : Out :=
  if o.hofs then (x.handleFault o.hdl).getD f else f

end Ctx

/-- ldl (05 R104, R105, R107). -/
def execLdl (o : MemOp) (s : State) : Out :=
  s.run fun x => x.hofsChecked o (x.onPath .loc
    (let p := x.winPlace o
     let z := o.size.bytes
     let r := x.checks o.h (x.check o false (fun e => decide (0 ≤ e) && decide (e + z ≤ (p.2.2 : Int))) Cause.extent)
     x.ordered p.1 (r.1.map fun a => (a.1, p.2.1 + a.2, z)) fun y =>
       (y.addConf (r.1.map fun a => (a.1, wordsOf (p.2.1 + a.2) z)) bank128).loading o .loc
         (r.1.map fun a => x.part o p.1 a.1 (p.2.1 + a.2)) [] r.2))

/-- stl (05 R104, R105, R107; 11 R196 to R198): the bytes enter the team buffer lane by lane. -/
def execStl (o : MemOp) (s : State) : Out :=
  s.run fun x => x.hofsChecked o
    (if o.hofs ∧ (x.handle o.hdl).st = .draining then x.trap0 Cause.handleState
     else
       let p := x.winPlace o
       let z := o.size.bytes
       let r := x.checks o.h (x.check o true (fun e => decide (0 ≤ e) && decide (e + z ≤ (p.2.2 : Int))) Cause.extent)
       x.afterTeam p.1 (r.1.map fun a => (a.1, p.2.1 + a.2, z))
         (match x.bufPuts (r.1.map fun a => storeEntry p.1 (p.2.1 + a.2) (x.dataBytes o a.1)) with
          | .error w => x.block w
          | .ok y =>
            (y.addConf (r.1.map fun a => (a.1, wordsOf (p.2.1 + a.2) z)) bank128).finish o.off.size o.h.stall (x.sel o.h) r.2))

/-- lds (05 R106): the spill area is the lane's own, so the load is performed at its issue. -/
def execLds (o : MemOp) (s : State) : Out :=
  s.run fun x => x.onPath .spill
    (let z := o.size.bytes
     let r := x.checks o.h (x.check o false (fun e => decide (0 ≤ e) && decide (e + z ≤ (x.c.spill : Int))) Cause.extent)
     let phys (l a : Nat) : List Nat := (List.range z).map fun i => spillPhys x.w l (a + i) / 8
     let y := x.addConf (r.1.map fun a => (a.1, phys a.1 a.2)) bank128
     y.loading o .spill [] (r.1.flatMap fun a => loadWrites a.1 o.r.toNat o.sx ((List.range z).map fun i =>
       (x.t.spill.read (spillKey a.1 (a.2 + i)), x.t.spois.contains (spillPhys x.w a.1 (a.2 + i) / 8)))) r.2)

/-- sts (05 R106): at once, past every buffer. -/
def execSts (o : MemOp) (s : State) : Out :=
  s.run fun x =>
    let z := o.size.bytes
    let r := x.checks o.h (x.check o true (fun e => decide (0 ≤ e) && decide (e + z ≤ (x.c.spill : Int))) Cause.extent)
    let bytes (l a : Nat) : List Nat := (List.range z).map fun i => spillPhys x.w l (a + i)
    let spill := r.1.foldl (fun m a => m.writeN (spillKey a.1 a.2) (x.dataBytes o a.1)) x.t.spill
    let passes := (r.1.map fun a => a.1 / 32).eraseDups
    let spois := passes.foldl (fun m p =>
      clearCovered m ((r.1.filter fun a => a.1 / 32 == p).flatMap fun a => bytes a.1 a.2)) x.t.spois
    let y := { x with t := { x.t with spill := spill, spois := spois } }
    (y.addConf (r.1.map fun a => (a.1, (bytes a.1 a.2).map (· / 8))) bank128).finish o.off.size o.h.stall (x.sel o.h) r.2

/-! ### Die memory -/

namespace Ctx

/-- Whether a byte of the die region is served by the team's buffer or the commit area (10 R188, steps 1 and 2). -/
def dieOwn (x : Ctx) (key : Nat) : Option (Byte × Bool) := x.t.bufByte (.die x.g.die) key <|> x.areaByte key

/-- Bytes of an access that come from another core's region, for the measures (08 R157). -/
def farBytes (x : Ctx) (store : Bool) (acc : List (Nat × Nat)) (z : Nat) : Nat :=
  acc.foldl (fun n a =>
    if a.2 / 2 ^ 26 = x.g.core then n
    else if store then n + z
    else n + ((List.range z).filter fun i => (x.dieOwn (regionKey 0 (a.2 + i))).isNone).length) 0

/-- Measured bytes added (08 R157). -/
def addBytes (x : Ctx) (n : Nat) : Ctx := { x with g := { x.g with meas := { x.g.meas with bytes := x.g.meas.bytes + n } } }

/-- The remote-read cache of the team's core after reads of other cores' granules (10 R190): 1,024 lines, the least recently used
evicted. -/
def cacheLines (x : Ctx) (addrs : List Nat) : Ctx :=
  let far := (addrs.filter fun a => a / 2 ^ 26 != x.g.core).map fun a => (x.l.id, dieGran a)
  if far.isEmpty then x
  else
    let k := x.s.core x.g.die x.g.core
    let lines := far.foldl (fun ls e => ls.filter (· != e) ++ [e]) k.rcache
    { x with s := x.s.setCore x.g.die x.g.core { k with rcache := lines.drop (lines.length - 1024) } }

end Ctx

/-- ldd (10 R186, R188): it is performed later, in issue order, and its reads are noted then (12 R225). -/
def execLdd (o : MemOp) (s : State) : Out :=
  s.run fun x => x.onPath .die
    (let z := o.size.bytes
     let r := x.checks o.h (x.check o false (fun e => dieOk e z x.l.dsize) Cause.bound)
     let key (a : Nat) : Nat := regionKey 0 a
     let taken := r.1.filter fun a => (List.range z).any fun i => (x.dieOwn (key (a.2 + i))).isNone
     let y := (x.addConf (r.1.map fun a => (a.1, wordsOf (key a.2) z)) dieBank).addBytes (x.farBytes false r.1 z)
     let y := y.cacheLines (taken.map Prod.snd)
     y.loading o .die (r.1.map fun a => x.part o (.die x.g.die) a.1 (key a.2)) [] r.2)

/-- std (10 R186, R187). -/
def execStd (o : MemOp) (s : State) : Out :=
  s.run fun x =>
    let z := o.size.bytes
    let r := x.checks o.h (x.check o true (fun e => dieOk e z x.l.dsize) Cause.bound)
    match x.bufPuts (r.1.map fun a => storeEntry (.die x.g.die) (regionKey 0 a.2) (x.dataBytes o a.1)) with
    | .error w => x.block w
    | .ok y =>
      ((y.addConf (r.1.map fun a => (a.1, wordsOf (regionKey 0 a.2) z)) dieBank).addBytes (x.farBytes true r.1 z)).finish
        o.off.size o.h.stall (x.sel o.h) r.2

/-- waitp (05 R109, 01 R23): it waits for its path's loads alone, and not for results of fixed latency (notes/assumptions/65.md,
DEDUCED). -/
def execWaitp (stall : BitVec 4) (path : Path) (b : SrcB) (s : State) : Out :=
  s.run fun x =>
    let n := x.sB b
    if n.poi then x.trap0 Cause.poisonUse
    else if n.val.toNat < x.inFlight path then x.block .path
    else (x.retire 8 stall).done

end Sys2Proof.Machine
end

