-- ==== Sys2Proof/Machine/Atomics.lean ====
section
/-!
DEFINITION. Atomics and reductions (13 R238 to R248).
-/
namespace Sys2Proof.Machine

namespace Ctx

/-- Source B of an atomic: f32 patterns for atomf and redf (13 R239). -/
def atomB (x : Ctx) (o : AtomOp) (isF : Bool) (lane : Nat) : VReg := if isF then x.bFlt lane .f32 false o.b else x.b32 lane o.b

/-- Whether the atomic reads C (13 R239). -/
def atomReadsC (o : AtomOp) (isF : Bool) : Bool := !isF && o.op == 9#4

/-- The checks of 13 R242 in a lane. -/
def atomCheck (x : Ctx) (o : AtomOp) (isF : Bool) (lane : Nat) : Except LaneFault Nat :=
  let a := x.v lane o.a.toNat
  let e : Int := (a.val.toNat : Int) + (o.off.map BitVec.toInt).getD 0
  let addr : DWord := BitVec.ofInt 64 e
  if a.poi then .error (lane, Cause.poisonUse, a.val.setWidth 64)
  else if e % 4 ≠ 0 then .error (lane, Cause.align, addr)
  else if o.scope ≠ .d ∧ ¬(0 ≤ e ∧ e + 4 ≤ (x.c.winSize x.g : Int)) then .error (lane, Cause.extent, addr)
  else if o.scope = .d ∧ dieOk e 4 x.l.dsize = false then .error (lane, Cause.bound, addr)
  else if (x.atomB o isF lane).poi || (atomReadsC o isF && (x.v lane o.c.toNat).poi) then .error (lane, Cause.poisonUse, addr)
  else .ok e.toNat

/-- One address of a .t atomic served (13 R243, R248): it reads the team's own view and writes the team buffer. The commit that this may
make comes before the team's later atomics: they stand aside. -/
def teamOne (x : Ctx) (q : AtomReq) (a : Nat) : Except WaitOn (Ctx × AtomReq) :=
  let mine := q.todo.filter fun l => l.ea == a
  let m := x.locRead .win a 4
  let bad := m.any Prod.snd
  let r := atomServe q.isF q.op (BitVec.ofNat 32 (leNat (m.map Prod.fst))) mine
  let old (p : Nat × Word) : List RegWrite := (q.ret.map fun d => [RegWrite.v p.1 d { val := p.2, poi := bad }]).getD []
  let ws := (if bad then mine.map fun l => (l.lane, 0#32) else r.1).flatMap old
  let rest : AtomReq := { q with todo := q.todo.filter fun l => l.ea != a, ws := q.ws ++ ws }
  if bad then .ok (x, rest)
  else match ({ x with t := { x.t with atoms := [] } } : Ctx).bufPut (storeEntry .win a (wordBytes r.2.1)) with
    | .error w => .error w
    | .ok y => .ok ({ y with t := { y.t with atoms := x.t.atoms, flags := y.t.flags ||| r.2.2 } }, rest)

/-- One address of the team's oldest unserved atomic served (13 R243, R244): the one named, or the first; one of .t through the buffer. -/
def headStep (x : Ctx) (ea : Option Nat) : Option Ctx :=
  match (x.t.atoms.findIdx? fun q => !q.todo.isEmpty).bind fun k => (x.t.atoms[k]?).map fun q => (k, q) with
  | none => none
  | some (k, q) =>
    if q.scope != .t then x.atomStep ea
    else match q.todo.find? fun l => ea.all (· == l.ea) with
      | none => none
      | some l => (x.teamOne q l.ea).toOption.map fun r => { r.1 with t := { r.1.t with atoms := r.1.t.atoms.set k r.2 } }

/-- The team's atomics served one address after another, at most n of them. -/
def headFlush (x : Ctx) : Nat → Ctx
  | 0 => x
  | n + 1 => match x.headStep none with
    | none => x
    | some y => y.headFlush n

/-- Every atomic of the team served (13 R244), as far as that can be now. -/
def allServed (x : Ctx) : Ctx := x.headFlush (x.t.atoms.foldl (fun n q => n + q.todo.length) 0)

/-- Addresses of a .t atomic served one after another. -/
def atomTeam (x : Ctx) (q : AtomReq) : List Nat → Except WaitOn (Ctx × AtomReq)
  | [] => .ok (x, q)
  | a :: as => match x.teamOne q a with
    | .error w => .error w
    | .ok (y, r) => y.atomTeam r as

/-- The addresses that an atomic is still to serve. -/
def atomAddrs (q : AtomReq) : List Nat := (q.todo.map AtomLane.ea).eraseDups

/-- A .t atomic served at its issue, every earlier atomic of the team before it (13 R244): it is to write its old values. -/
def teamServe (x : Ctx) (q : AtomReq) : Except WaitOn Ctx :=
  let y := x.allServed
  if y.atomsOpen then .error .atomic
  else match y.atomTeam q (atomAddrs q) with
    | .error w => .error w
    | .ok (z, r) => .ok { z with t := { z.t with atoms := z.t.atoms ++ [r] } }

/-- The selected lanes' checks, and the lanes that pass with their operands. -/
def atomLanes (x : Ctx) (o : AtomOp) (isF : Bool) : List AtomLane × List LaneFault :=
  let r := x.checks o.h (x.atomCheck o isF)
  (r.1.map fun p => { lane := p.1, ea := p.2, b := (x.atomB o isF p.1).val, c := (x.v p.1 o.c.toNat).val }, r.2)

/-- Size of an atomic's encoding. -/
def atomSize (o : AtomOp) : Nat := if o.off.isSome then 16 else 8

/-- An atomic or a window reduction (13 R243): `ret` gives the lanes their old values, interlocked (R244). One of .g or .d is left
to be served address by address, in issue order; one of .t is served at its issue, the earlier ones before it, or left like those where it
is to be performed apart. A device-scope atomic of a speculative group waits for the frontier (R247), unless no lane is to be performed
(notes/assumptions/75.md, DESIGN CHOICE). Where lanes fault and the trap ends the group, the other lanes of a device-scope one are performed
first (R242, 20 R309). -/
def atomic (x : Ctx) (o : AtomOp) (isF ret : Bool) : Out :=
  let r := x.atomLanes o isF
  let q : AtomReq :=
    { scope := o.scope, isF := isF, op := o.op, ret := if ret then some o.d.toNat else none, todo := r.1, ws := [] }
  let end_ (y : Ctx) : Out := y.finish (atomSize o) o.h.stall (x.sel o.h) r.2
  if r.1.isEmpty then end_ x
  else if o.scope = .d ∧ x.spec then x.block .frontier
  else if o.scope = .d ∧ !r.2.isEmpty ∧ (!x.c.hndl || x.t.inhandler) then
    let y := ({ x with t := { x.t with atoms := x.t.atoms ++ [q] } } : Ctx).allServed
    if y.atomsOpen then x.block .atomic else end_ y
  else if o.scope ≠ .t ∨ x.t.late then end_ { x with t := { x.t with atoms := x.t.atoms ++ [q] } }
  else match x.teamServe q with
    | .error w => x.block w
    | .ok y => end_ y

/-- A device-scope reduction (13 R246): pending operations in the team buffer, which its commit performs after the team's earlier
atomics (R244). -/
def redDie (x : Ctx) (o : AtomOp) (isF : Bool) : Out :=
  let r := x.atomLanes o isF
  let es : List Entry := r.1.map fun l =>
    let k := regionKey 0 l.ea
    { sp := .die x.g.die, gran := k / 64, bytes := []
      reds := [(k % 64 / 4, { isF := isF, op := o.op, bound := 0#32, val := l.b })] }
  match x.bufPuts es with
  | .error w => x.block w
  | .ok y => y.finish (atomSize o) o.h.stall (x.sel o.h) r.2

end Ctx

/-- atom (13 R239). -/
def execAtom (o : AtomOp) (s : State) : Out := s.run fun x => x.atomic o false true

/-- atomf (13 R239). -/
def execAtomf (o : AtomOp) (s : State) : Out := s.run fun x => x.atomic o true true

/-- red (13 R239). -/
def execRed (o : AtomOp) (s : State) : Out := s.run fun x => if o.scope = .d then x.redDie o false else x.atomic o false false

/-- redf (13 R239). -/
def execRedf (o : AtomOp) (s : State) : Out := s.run fun x => if o.scope = .d then x.redDie o true else x.atomic o true false

end Sys2Proof.Machine
end

