-- ==== Sys2Proof/Machine/Special.lean ====
section
/-!
DEFINITION. The special functions of 06 R118: frcp and fsqrt correctly rounded; the six approximated ones as the device's own
function of the bits (Config.approx), held to the bound of R118 by an enclosure in fixed-point arithmetic.
-/
namespace Sys2Proof

/-- 1 / a, correctly rounded (06 R118). -/
def frcpBits (mode : Rnd) (a : Nat) : Nat × Word :=
  let f := FF.f32
  match f.nanOf [a] with
  | some r => r
  | none =>
    match f.val a with
    | .inf n => (f.zero n, 0#32)
    | .fin n m e =>
      if m = 0 then (f.infBits n, Flag.dz)
      else f.round mode n (2 ^ 120 / m) (2 ^ 120 % m != 0) (-120 - e)
    | .nan _ _ _ => (f.nan, 0#32)

/-- The square root, correctly rounded (06 R118). -/
def fsqrtBits (mode : Rnd) (a : Nat) : Nat × Word :=
  let f := FF.f32
  match f.nanOf [a] with
  | some r => r
  | none =>
    match f.val a with
    | .inf n => if n then (f.nan, Flag.nv) else (f.infBits false, 0#32)
    | .fin n m e =>
      if m = 0 then (f.zero n, 0#32)
      else if n then (f.nan, Flag.nv)
      else
        let k : Nat := 80 + (e % 2).toNat
        let x := m * 2 ^ k
        let r := isqrt x
        f.round mode false r (r * r != x) ((e - k) / 2)
    | .nan _ _ _ => (f.nan, 0#32)

/-- Fraction bits of the fixed-point enclosures. -/
def fixP : Nat := 256

/-- π × 2^400, rounded down. -/
def piFix : Nat := 0x3243F6A8885A308D313198A2E03707344A4093822299F31D0082EFA98EC4E6C89452821E638D01377BE5466CF34E90C6CC0AC

/-- ln 2 × 2^256, rounded down. -/
def ln2Fix : Nat := 0xB17217F7D1CF79ABC9E3B39803F2F6AF40F343267298B62D8A0D175B8BAAFA2B

/-- The Taylor sum of exp over k terms from the n-th, t being the n-th term (fixed point, 0 ≤ x < 1). -/
def expTaylor (x : Nat) : Nat → Nat → Nat → Nat
  | 0, _, _ => 0
  | k + 1, n, t => t + expTaylor x k (n + 1) (t * x / 2 ^ fixP / (n + 1))

/-- 2^y for a fixed-point fraction 0 ≤ y < 1. -/
def exp2Frac (y : Nat) : Nat := expTaylor (y * ln2Fix / 2 ^ fixP) 70 0 (2 ^ fixP)

/-- The alternating Taylor sum of sine or cosine: t the n-th term, x the square of the argument. -/
def trigTaylor (x : Nat) : Nat → Nat → Nat → Int
  | 0, _, _ => 0
  | k + 1, n, t => (t : Int) - trigTaylor x k (n + 2) (t * x / 2 ^ fixP / ((n + 1) * (n + 2)))

/-- The sum of the odd powers over their exponents: atanh, t the n-th power, x the square. -/
def atanhSum (x : Nat) : Nat → Nat → Nat → Nat
  | 0, _, _ => 0
  | k + 1, n, t => t / n + atanhSum x k (n + 2) (t * x / 2 ^ fixP)

/-- A finite value as a fixed-point number, rounded toward −∞. -/
def toFix (m : Int) (e : Int) : Int :=
  let s := e + fixP
  if 0 ≤ s then m * 2 ^ s.toNat else m / 2 ^ (-s).toNat

/-- 1/√x as (significand, exponent). -/
def rsqEncl (m : Nat) (e : Int) : Int × Int :=
  let k : Nat := if e % 2 = 0 then 0 else 1
  ((isqrt (2 ^ 400 / (m * 2 ^ k)) : Int), -200 - (e - k) / 2)

/-- 2^x as (significand, exponent), x held to −400 at the least. -/
def exp2Encl (m : Int) (e : Int) : Int × Int :=
  if e > 10 ∨ toFix m e < -(400 * 2 ^ fixP : Int) then (1, -400)
  else
    let y := toFix m e
    let n := y / (2 ^ fixP : Int)
    ((exp2Frac (y % (2 ^ fixP : Int)).toNat : Int), n - fixP)

/-- log2 x as (significand, exponent). -/
def log2Encl (m : Nat) (e : Int) : Int × Int :=
  let lg := Nat.log2 m
  let y := m * 2 ^ fixP / 2 ^ lg
  let one := 2 ^ fixP
  let z := (y - one) * one / (y + one)
  let l := 2 * atanhSum (z * z / one) 100 1 z
  (((lg : Int) + e) * one + (l * one / ln2Fix : Nat), -fixP)

/-- A fixed-point value a unit nearer to 0. -/
def shrink (v : Int) : Int := if 0 < v then v - 1 else if v < 0 then v + 1 else v

/-- sin (`cos` false) or cos of m × 2^e as (significand, exponent), with full argument reduction; a unit nearer to 0, since of an
argument other than 0 the sine lies below the argument and the cosine below 1. -/
def trigEncl (cos : Bool) (neg : Bool) (m : Nat) (e : Int) : Int × Int :=
  let s := e + 400
  let x := if 0 ≤ s then m * 2 ^ s.toNat else m / 2 ^ (-s).toNat
  let r := x % (2 * piFix)
  let flip := decide (piFix ≤ r)
  let r := if flip then r - piFix else r
  let rf := r / 2 ^ (400 - fixP)
  let sq := rf * rf / 2 ^ fixP
  let v := if cos then trigTaylor sq 60 0 (2 ^ fixP) else trigTaylor sq 60 1 rf
  let v := if flip then -v else v
  (shrink (if neg && !cos then -v else v), -fixP)

/-- tanh of m × 2^e as (significand, exponent); of an argument below 2^(-80) a unit below the argument. -/
def tanhEncl (neg : Bool) (m : Nat) (e : Int) : Int × Int :=
  let one := 2 ^ fixP
  let v : Nat :=
    if e > 0 ∨ toFix m e > 64 * 2 ^ fixP then one - 1
    else if toFix m e < 2 ^ (fixP - 80) then (toFix m e).toNat - 1
    else
      let y := 2 * (toFix m e).toNat * one / ln2Fix
      let n := y / one
      let u := if y % one = 0 then one / 2 ^ n else exp2Frac (one - y % one) / 2 ^ (n + 1)
      (one - u) * one / (one + u)
  (if neg then -(v : Int) else v, -fixP)

/-- The exponent of one ulp of f32 at a value (its unit in the last place). -/
def ulpExp (m : Int) (e : Int) : Int := max ((Nat.log2 m.natAbs : Int) + e - 23) (-149)

/-- Whether an f32 pattern is a finite value within `bound` ulp of the enclosed value. -/
def withinUlp (bound : Nat) (m : Int) (e : Int) (cand : Nat) : Bool :=
  match FF.f32.val cand with
  | .fin n cm ce =>
    let u := ulpExp m e
    let d := exactSum (if n then -(cm : Int) else cm) ce (-m) e
    let lim := exactSum (bound : Int) u (-(d.1.natAbs : Int)) d.2
    decide (0 ≤ lim.1)
  | _ => false

/-- An approximated result (06 R118): the device's value where it keeps the bound, and for fexp2 is not negative, otherwise the enclosed
value rounded; NX, and UF where the delivered value is below the smallest normal (04 R78; that the delivered value is the one judged is
the model's choice, notes/assumptions/49.md). -/
def approxDeliver (fn bound : Nat) (a : Nat) (encl : Int × Int) : Nat × Word :=
  let cand := (Config.approx fn (BitVec.ofNat 32 a)).toNat
  let r := if withinUlp bound encl.1 encl.2 cand && (fn != 1 || decide (cand < 2 ^ 31)) then cand
           else (FF.f32.round .rne (decide (encl.1 < 0)) encl.1.natAbs true encl.2).1
  (r, Flag.nx ||| Flag.on (decide (r % 2 ^ 31 < 2 ^ 23)) Flag.uf)

/-- frsq (06 R118). -/
def frsqBits (a : Nat) : Nat × Word :=
  let f := FF.f32
  match f.val a with
  | .nan _ s _ => (f.quiet a, Flag.on s Flag.nv)
  | .inf n => if n then (f.nan, Flag.nv) else (0, 0#32)
  | .fin n m e =>
    if m = 0 then (f.infBits n, Flag.dz) else if n then (f.nan, Flag.nv) else approxDeliver 0 1 a (rsqEncl m e)

/-- fexp2 (06 R118): exact at integers whose power is representable; +∞ at and above 128. -/
def fexp2Bits (a : Nat) : Nat × Word :=
  let f := FF.f32
  match f.val a with
  | .nan _ s _ => (f.quiet a, Flag.on s Flag.nv)
  | .inf n => (if n then 0 else f.infBits false, 0#32)
  | .fin n m e =>
    let v : Int := if n then -(m : Int) else m
    let isInt := 0 ≤ e ∨ m % 2 ^ (-e).toNat = 0
    let i : Int := if 0 ≤ e then v * 2 ^ (min e.toNat 200) else v / 2 ^ (-e).toNat
    if 128 ≤ i then (f.infBits false, Flag.of ||| Flag.nx)
    else if isInt ∧ -149 ≤ i then ((f.round .rne false 1 false i).1, 0#32)
    else approxDeliver 1 1 a (exp2Encl v e)

/-- flog2 (06 R118): exact at powers of two. -/
def flog2Bits (a : Nat) : Nat × Word :=
  let f := FF.f32
  match f.val a with
  | .nan _ s _ => (f.quiet a, Flag.on s Flag.nv)
  | .inf n => if n then (f.nan, Flag.nv) else (f.infBits false, 0#32)
  | .fin n m e =>
    if m = 0 then (f.infBits true, Flag.dz)
    else if n then (f.nan, Flag.nv)
    else if m = 2 ^ Nat.log2 m then ((f.ofInt .rne ((Nat.log2 m : Int) + e)).1, 0#32)
    else approxDeliver 2 1 a (log2Encl m e)

/-- fsin and fcos (06 R118). -/
def ftrigBits (cos : Bool) (a : Nat) : Nat × Word :=
  let f := FF.f32
  match f.val a with
  | .nan _ s _ => (f.quiet a, Flag.on s Flag.nv)
  | .inf _ => (f.nan, Flag.nv)
  | .fin n m e =>
    if m = 0 then (if cos then 0x3F800000 else f.zero n, 0#32)
    else approxDeliver (if cos then 4 else 3) 2 a (trigEncl cos n m e)

/-- ftanh (06 R118). -/
def ftanhBits (a : Nat) : Nat × Word :=
  let f := FF.f32
  match f.val a with
  | .nan _ s _ => (f.quiet a, Flag.on s Flag.nv)
  | .inf n => (f.zero n + 0x3F800000, 0#32)
  | .fin n m e => if m = 0 then (f.zero n, 0#32) else approxDeliver 5 2 a (tanhEncl n m e)

end Sys2Proof
end

