-- ==== Sys2Proof/Machine/FloatOps.lean ====
section
/-!
DEFINITION. The floating-point class (06 R113 to R119): operands as patterns of the TYPE, and one meaning for each opcode.
-/
namespace Sys2Proof

/-- The pattern of a scalar form's source: the bits above the format are ignored (04 R67). -/
def FTy.pat (ty : FTy) (v : Word) : Nat := v.toNat % 2 ^ ty.ff.width

/-- Element j of a packed pair (04 R67). -/
def half (j : Nat) (v : Word) : Nat := v.toNat / 2 ^ (16 * j) % 2 ^ 16

/-- The two elements of a packed result, with the flags of both (06 R114). -/
def packHalves (lo hi : Nat × Word) : Word × Word := (BitVec.ofNat 32 (lo.1 + hi.1 * 65536), lo.2 ||| hi.2)

end Sys2Proof

namespace Sys2Proof.Machine

namespace Ctx

/-- The rounding mode in use (04 R76). -/
def mode (x : Ctx) (r : Rnd) : Rnd := r.mode x.t.tctl

/-- A vector register's write with its poison. -/
def fltWrite (lane : Nat) (d : BitVec 8) (r : Nat × Word) (poi : Bool) : LaneResult :=
  ([.v lane d.toNat { val := BitVec.ofNat 32 r.1, poi := poi }], r.2)

/-- An instruction of one source. -/
def fltUn (x : Ctx) (o : VFlt) (f : Nat → Nat × Word) : Nat → LaneResult :=
  fun l => let a := x.v l o.a.toNat; fltWrite l o.d (f (o.ty.pat a.val)) a.poi

/-- An instruction of two sources. -/
def fltBin (x : Ctx) (o : VFlt) (f : Nat → Nat → Nat × Word) : Nat → LaneResult :=
  fun l =>
    let a := x.v l o.a.toNat
    let b := x.bFlt l o.ty false o.b
    fltWrite l o.d (f (o.ty.pat a.val) (o.ty.pat b.val)) (a.poi || b.poi)

/-- An instruction of three sources. -/
def fltTern (x : Ctx) (o : VFlt) (f : Nat → Nat → Nat → Nat × Word) : Nat → LaneResult :=
  fun l =>
    let a := x.v l o.a.toNat
    let b := x.bFlt l o.ty false o.b
    let c := x.v l o.c.toNat
    fltWrite l o.d (f (o.ty.pat a.val) (o.ty.pat b.val) (o.ty.pat c.val)) (a.poi || b.poi || c.poi)

/-- A packed form of two sources (06 R114). -/
def packBin (x : Ctx) (o : VFlt) (f : Nat → Nat → Nat × Word) : Nat → LaneResult :=
  fun l =>
    let a := x.v l o.a.toNat
    let b := x.bFlt l o.ty true o.b
    let r := packHalves (f (half 0 a.val) (half 0 b.val)) (f (half 1 a.val) (half 1 b.val))
    ([.v l o.d.toNat { val := r.1, poi := a.poi || b.poi }], r.2)

/-- A packed form of three sources. -/
def packTern (x : Ctx) (o : VFlt) (f : Nat → Nat → Nat → Nat × Word) : Nat → LaneResult :=
  fun l =>
    let a := x.v l o.a.toNat
    let b := x.bFlt l o.ty true o.b
    let c := x.v l o.c.toNat
    let r := packHalves (f (half 0 a.val) (half 0 b.val) (half 0 c.val)) (f (half 1 a.val) (half 1 b.val) (half 1 c.val))
    ([.v l o.d.toNat { val := r.1, poi := a.poi || b.poi || c.poi }], r.2)

end Ctx

/-- a + b, rounded once (06 R114). -/
def laneFadd (o : VFlt) (x : Ctx) : Nat → LaneResult :=
  x.fltBin o (o.ty.ff.add (x.mode o.rnd))

/-- fadd (06 R113). -/
def execFadd (o : VFlt) (s : State) : Out := s.run fun x => x.each o.h o.b.size 6 (laneFadd o x)

/-- a − b, rounded once (06 R114). -/
def laneFsub (o : VFlt) (x : Ctx) : Nat → LaneResult :=
  x.fltBin o (o.ty.ff.sub (x.mode o.rnd))

/-- fsub (06 R113). -/
def execFsub (o : VFlt) (s : State) : Out := s.run fun x => x.each o.h o.b.size 6 (laneFsub o x)

/-- a × b, rounded once (06 R114). -/
def laneFmul (o : VFlt) (x : Ctx) : Nat → LaneResult :=
  x.fltBin o (o.ty.ff.mul (x.mode o.rnd))

/-- fmul (06 R113). -/
def execFmul (o : VFlt) (s : State) : Out := s.run fun x => x.each o.h o.b.size 6 (laneFmul o x)

/-- a × b + c, rounded once (06 R114, 04 R80). -/
def laneFfma (o : VFlt) (x : Ctx) : Nat → LaneResult :=
  x.fltTern o (o.ty.ff.fma (x.mode o.rnd))

/-- ffma (06 R113). -/
def execFfma (o : VFlt) (s : State) : Out := s.run fun x => x.each o.h o.b.size 6 (laneFfma o x)

/-- fmin (06 R115). -/
def laneFmin (o : VFlt) (x : Ctx) : Nat → LaneResult :=
  x.fltBin o (o.ty.ff.minmax true)

/-- fmin (06 R113). -/
def execFmin (o : VFlt) (s : State) : Out := s.run fun x => x.each o.h o.b.size 6 (laneFmin o x)

/-- fmax (06 R115). -/
def laneFmax (o : VFlt) (x : Ctx) : Nat → LaneResult :=
  x.fltBin o (o.ty.ff.minmax false)

/-- fmax (06 R113). -/
def execFmax (o : VFlt) (s : State) : Out := s.run fun x => x.each o.h o.b.size 6 (laneFmax o x)

/-- The sign bit cleared, and nothing else (06 R114). -/
def laneFabs (o : VFlt) (x : Ctx) : Nat → LaneResult :=
  x.fltUn o fun a => (a % o.ty.ff.signBit, 0#32)

/-- fabs (06 R113). -/
def execFabs (o : VFlt) (s : State) : Out := s.run fun x => x.each o.h 8 6 (laneFabs o x)

/-- The sign bit inverted, and nothing else (06 R114). -/
def laneFneg (o : VFlt) (x : Ctx) : Nat → LaneResult :=
  x.fltUn o fun a => (o.ty.ff.negate a, 0#32)

/-- fneg (06 R113). -/
def execFneg (o : VFlt) (s : State) : Out := s.run fun x => x.each o.h 8 6 (laneFneg o x)

/-- fcmp (06 R116): the predicate carries the sources' poison. -/
def laneFcmp (o : VFlt) (x : Ctx) : Nat → LaneResult :=
  fun l =>
    let a := x.v l o.a.toNat
    let b := x.bFlt l o.ty false o.b
    let r := o.ty.ff.cmp o.sub (o.ty.pat a.val) (o.ty.pat b.val)
    ([.p l o.d.toNat { val := r.1, poi := a.poi || b.poi }], r.2)

/-- fcmp (06 R113). -/
def execFcmp (o : VFlt) (s : State) : Out := s.run fun x => x.each o.h o.b.size 6 (laneFcmp o x)

/-- fclass (06 R117). -/
def laneFclass (o : VFlt) (x : Ctx) : Nat → LaneResult :=
  x.fltUn o fun a => (o.ty.ff.classify a, 0#32)

/-- fclass (06 R113). -/
def execFclass (o : VFlt) (s : State) : Out := s.run fun x => x.each o.h 8 6 (laneFclass o x)

/-- hadd2 (06 R114). -/
def laneHadd2 (o : VFlt) (x : Ctx) : Nat → LaneResult :=
  x.packBin o (o.ty.ff.add (x.mode o.rnd))

/-- hadd2 (06 R113). -/
def execHadd2 (o : VFlt) (s : State) : Out := s.run fun x => x.each o.h o.b.size 6 (laneHadd2 o x)

/-- hmul2 (06 R114). -/
def laneHmul2 (o : VFlt) (x : Ctx) : Nat → LaneResult :=
  x.packBin o (o.ty.ff.mul (x.mode o.rnd))

/-- hmul2 (06 R113). -/
def execHmul2 (o : VFlt) (s : State) : Out := s.run fun x => x.each o.h o.b.size 6 (laneHmul2 o x)

/-- hfma2 (06 R114). -/
def laneHfma2 (o : VFlt) (x : Ctx) : Nat → LaneResult :=
  x.packTern o (o.ty.ff.fma (x.mode o.rnd))

/-- hfma2 (06 R113). -/
def execHfma2 (o : VFlt) (s : State) : Out := s.run fun x => x.each o.h o.b.size 6 (laneHfma2 o x)

/-- frcp (06 R118). -/
def laneFrcp (o : VFlt) (x : Ctx) : Nat → LaneResult :=
  x.fltUn o (frcpBits (x.mode o.rnd))

/-- frcp (06 R113). -/
def execFrcp (o : VFlt) (s : State) : Out := s.run fun x => x.each o.h 8 12 (laneFrcp o x)

/-- frsq (06 R118). -/
def laneFrsq (o : VFlt) (x : Ctx) : Nat → LaneResult :=
  x.fltUn o frsqBits

/-- frsq (06 R113). -/
def execFrsq (o : VFlt) (s : State) : Out := s.run fun x => x.each o.h 8 12 (laneFrsq o x)

/-- fsqrt (06 R118). -/
def laneFsqrt (o : VFlt) (x : Ctx) : Nat → LaneResult :=
  x.fltUn o (fsqrtBits (x.mode o.rnd))

/-- fsqrt (06 R113). -/
def execFsqrt (o : VFlt) (s : State) : Out := s.run fun x => x.each o.h 8 12 (laneFsqrt o x)

/-- fexp2 (06 R118). -/
def laneFexp2 (o : VFlt) (x : Ctx) : Nat → LaneResult :=
  x.fltUn o fexp2Bits

/-- fexp2 (06 R113). -/
def execFexp2 (o : VFlt) (s : State) : Out := s.run fun x => x.each o.h 8 12 (laneFexp2 o x)

/-- flog2 (06 R118). -/
def laneFlog2 (o : VFlt) (x : Ctx) : Nat → LaneResult :=
  x.fltUn o flog2Bits

/-- flog2 (06 R113). -/
def execFlog2 (o : VFlt) (s : State) : Out := s.run fun x => x.each o.h 8 12 (laneFlog2 o x)

/-- fsin (06 R118). -/
def laneFsin (o : VFlt) (x : Ctx) : Nat → LaneResult :=
  x.fltUn o (ftrigBits false)

/-- fsin (06 R113). -/
def execFsin (o : VFlt) (s : State) : Out := s.run fun x => x.each o.h 8 12 (laneFsin o x)

/-- fcos (06 R118). -/
def laneFcos (o : VFlt) (x : Ctx) : Nat → LaneResult :=
  x.fltUn o (ftrigBits true)

/-- fcos (06 R113). -/
def execFcos (o : VFlt) (s : State) : Out := s.run fun x => x.each o.h 8 12 (laneFcos o x)

/-- ftanh (06 R118). -/
def laneFtanh (o : VFlt) (x : Ctx) : Nat → LaneResult :=
  x.fltUn o ftanhBits

/-- ftanh (06 R113). -/
def execFtanh (o : VFlt) (s : State) : Out := s.run fun x => x.each o.h 8 12 (laneFtanh o x)

/-- pchk (06 R119): the poison bit of a vector register, a predicate or a scalar; the predicate written is never poisoned. -/
def lanePchk (o : VFlt) (x : Ctx) : Nat → LaneResult :=
  fun l =>
    let poi :=
      if o.sub = 0#2 then (x.v l o.a.toNat).poi
      else if o.sub = 1#2 then (x.p l o.a.toNat).poi
      else (x.scAt l (o.a.toNat % 64)).poi
    ([.p l o.d.toNat { val := poi, poi := false }], 0#32)

/-- pchk (06 R113). -/
def execPchk (o : VFlt) (s : State) : Out := s.run fun x => x.each o.h 8 4 (lanePchk o x)

end Sys2Proof.Machine
end

