-- ==== Sys2Proof/Machine/Integer.lean ====
section
/-!
DEFINITION. The integer vector class (05 R87 to R93): operands at the TYPE, exact results, their delivery, and one meaning for each
opcode.
-/
namespace Sys2Proof

/-- Element j of n bits of a word. -/
def elemOf (n j : Nat) (v : DWord) : Nat := v.toNat / 2 ^ (n * j) % 2 ^ n

/-- A byte read as s8 or n8. -/
def byteInt (signed : Bool) (p : Nat) : Int := if signed then sInt 8 p else p

/-- Set bits of a number below 2^n. -/
def popN : Nat → Nat → Nat
  | 0, _ => 0
  | n + 1, p => p % 2 + popN n (p / 2)

/-- Trailing zeros of a number below 2^n: n where it is 0. -/
def ctzN : Nat → Nat → Nat
  | 0, _ => 0
  | n + 1, p => if p % 2 = 1 then 0 else 1 + ctzN n (p / 2)

/-- Bits of a number below 2^n reversed. -/
def revN : Nat → Nat → Nat
  | 0, _ => 0
  | n + 1, p => p % 2 * 2 ^ n + revN n (p / 2)

/-- Bits of a number: 0 for 0. -/
def bitLen (p : Nat) : Nat := if p = 0 then 0 else Nat.log2 p + 1

/-- The shifts of 05 R89 on the pattern, SAT apart. -/
def shlPat (w x k : Nat) : Nat := if w ≤ k then 0 else x * 2 ^ k % 2 ^ w
def shrPat (w x k : Nat) : Nat := if w ≤ k then 0 else x / 2 ^ k
def sarPat (w x k : Nat) : Int := sInt w x / 2 ^ min k w
def rolPat (w x k : Nat) : Nat := x * 2 ^ (k % w) % 2 ^ w + x / 2 ^ (w - k % w)

/-- bfx (05 R90). -/
def bfxPat (w : Nat) (signed : Bool) (a b : Nat) : Int :=
  let pos := b % 256
  let len := b / 256 % 256
  let n := min len (w - pos)
  if len = 0 ∨ w ≤ pos then 0
  else
    let f := a / 2 ^ pos % 2 ^ n
    if signed then sInt n f else f

/-- bfi (05 R90). -/
def bfiPat (w : Nat) (a b c : Nat) : Nat :=
  let pos := b % 256
  let len := b / 256 % 256
  let n := min len (w - pos)
  if len = 0 ∨ w ≤ pos then c
  else c % 2 ^ pos + a % 2 ^ n * 2 ^ pos + c / 2 ^ (pos + n) * 2 ^ (pos + n)

/-- The condition of icmp (05 R91). -/
def icmpHolds (sub : BitVec 3) (a b : Int) : Bool :=
  match sub.toNat with
  | 0 => decide (a = b)
  | 1 => decide (a ≠ b)
  | 2 => decide (a < b)
  | 3 => decide (a ≤ b)
  | 4 => decide (b < a)
  | _ => decide (b ≤ a)

/-- srshr (05 R93). -/
def srshrInt (a : Int) (n : Nat) : Int := (a + if n = 0 then 0 else 2 ^ (n - 1)) / 2 ^ n

/-- The sum of idot4's products (05 R92). -/
def idot4Sum (sub : BitVec 3) (a b : DWord) : Int :=
  (List.range 4).foldl (fun t j =>
    t + byteInt (!sub.getLsbD 1) (elemOf 8 j a) * byteInt (!sub.getLsbD 0) (elemOf 8 j b)) 0

/-- The sum of idot8's products (05 R92). -/
def idot8Sum (a b : DWord) : Int := (List.range 8).foldl (fun t j => t + i4Val (elemOf 4 j a) * i4Val (elemOf 4 j b)) 0

/-- Whether an i4 code of idot8 is the reserved one (04 R69). -/
def idot8Nrc (a b : DWord) : Bool := (List.range 8).any fun j => elemOf 4 j a == 8 || elemOf 4 j b == 8

end Sys2Proof

namespace Sys2Proof.Machine

namespace Ctx

/-- A register operand at a TYPE: one register, or a pair (02 R29). -/
def vAt (x : Ctx) (lane : Nat) (wide : Bool) (r : BitVec 8) : SReg :=
  if wide then x.v64 lane r.toNat
  else let a := x.v lane r.toNat; { val := a.val.setWidth 64, poi := a.poi }

/-- Source B at a TYPE (02 R28). -/
def bAt (x : Ctx) (lane : Nat) (wide : Bool) (b : SrcB) : SReg :=
  if wide then x.b64 lane b
  else let a := x.b32 lane b; { val := a.val.setWidth 64, poi := a.poi }

/-- The writes of a result: one register, or both of a pair, each with the poison (05 R87). -/
def intWrites (lane : Nat) (wide : Bool) (d : BitVec 8) (v : DWord) (poi : Bool) : List RegWrite :=
  if wide then
    [.v lane d.toNat { val := v.setWidth 32, poi := poi }, .v lane (d.toNat + 1) { val := v.extractLsb' 32 32, poi := poi }]
  else [.v lane d.toNat { val := v.setWidth 32, poi := poi }]

/-- An instruction of one source. -/
def intUn (x : Ctx) (o : VInt) (f : DWord → Int) : Nat → LaneResult :=
  fun l =>
    let a := x.vAt l o.ty.wide o.a
    (intWrites l o.ty.wide o.d (o.ty.deliver o.sat (f a.val)) a.poi, 0#32)

/-- An instruction of two sources. -/
def intBin (x : Ctx) (o : VInt) (sat : Bool) (f : DWord → DWord → Int) : Nat → LaneResult :=
  fun l =>
    let a := x.vAt l o.ty.wide o.a
    let b := x.bAt l o.ty.wide o.b
    (intWrites l o.ty.wide o.d (o.ty.deliver sat (f a.val b.val)) (a.poi || b.poi), 0#32)

/-- A shift: the count is one 32-bit value (05 R89). -/
def intShift (x : Ctx) (o : VInt) (f : DWord → Nat → Int) : Nat → LaneResult :=
  fun l =>
    let a := x.vAt l o.ty.wide o.a
    let b := x.b32 l o.b
    (intWrites l o.ty.wide o.d (o.ty.deliver o.sat (f a.val b.val.toNat)) (a.poi || b.poi), 0#32)

/-- An instruction of three sources, with its flags. -/
def intTern (x : Ctx) (o : VInt) (f : DWord → DWord → DWord → Int × Word) : Nat → LaneResult :=
  fun l =>
    let a := x.vAt l o.ty.wide o.a
    let b := x.bAt l o.ty.wide o.b
    let c := x.vAt l o.ty.wide o.c
    let r := f a.val b.val c.val
    (intWrites l o.ty.wide o.d (o.ty.deliver o.sat r.1) (a.poi || b.poi || c.poi), r.2)

end Ctx

/-! ### Arithmetic -/

/-- iadd (05 R88). -/
def laneIadd (o : VInt) (x : Ctx) : Nat → LaneResult :=
  x.intBin o o.sat fun a b => o.ty.int a + o.ty.int b

/-- iadd (05 R87). -/
def execIadd (o : VInt) (s : State) : Out := s.run fun x => x.each o.h o.b.size 4 (laneIadd o x)

/-- isub (05 R88). -/
def laneIsub (o : VInt) (x : Ctx) : Nat → LaneResult :=
  x.intBin o o.sat fun a b => o.ty.int a - o.ty.int b

/-- isub (05 R87). -/
def execIsub (o : VInt) (s : State) : Out := s.run fun x => x.each o.h o.b.size 4 (laneIsub o x)

/-- imul (05 R88). -/
def laneImul (o : VInt) (x : Ctx) : Nat → LaneResult :=
  x.intBin o o.sat fun a b => o.ty.int a * o.ty.int b

/-- imul (05 R87). -/
def execImul (o : VInt) (s : State) : Out := s.run fun x => x.each o.h o.b.size 6 (laneImul o x)

/-- imulh (05 R88): the upper half of the exact product. -/
def laneImulh (o : VInt) (x : Ctx) : Nat → LaneResult :=
  x.intBin o o.sat fun a b => o.ty.int a * o.ty.int b / 2 ^ o.ty.width

/-- imulh (05 R87). -/
def execImulh (o : VInt) (s : State) : Out := s.run fun x => x.each o.h o.b.size 6 (laneImulh o x)

/-- imad (05 R88). -/
def laneImad (o : VInt) (x : Ctx) : Nat → LaneResult :=
  x.intTern o fun a b c => (o.ty.int a * o.ty.int b + o.ty.int c, 0#32)

/-- imad (05 R87). -/
def execImad (o : VInt) (s : State) : Out := s.run fun x => x.each o.h o.b.size 6 (laneImad o x)

/-- iadd64 (05 R88). -/
def laneIadd64 (o : VInt) (x : Ctx) : Nat → LaneResult :=
  x.intBin o o.sat fun a b => o.ty.int a + o.ty.int b

/-- iadd64 (05 R87). -/
def execIadd64 (o : VInt) (s : State) : Out := s.run fun x => x.each o.h o.b.size 4 (laneIadd64 o x)

/-- isub64 (05 R88). -/
def laneIsub64 (o : VInt) (x : Ctx) : Nat → LaneResult :=
  x.intBin o o.sat fun a b => o.ty.int a - o.ty.int b

/-- isub64 (05 R87). -/
def execIsub64 (o : VInt) (s : State) : Out := s.run fun x => x.each o.h o.b.size 4 (laneIsub64 o x)

/-- imin (05 R88). -/
def laneImin (o : VInt) (x : Ctx) : Nat → LaneResult :=
  x.intBin o o.sat fun a b => min (o.ty.int a) (o.ty.int b)

/-- imin (05 R87). -/
def execImin (o : VInt) (s : State) : Out := s.run fun x => x.each o.h o.b.size 4 (laneImin o x)

/-- imax (05 R88). -/
def laneImax (o : VInt) (x : Ctx) : Nat → LaneResult :=
  x.intBin o o.sat fun a b => max (o.ty.int a) (o.ty.int b)

/-- imax (05 R87). -/
def execImax (o : VInt) (s : State) : Out := s.run fun x => x.each o.h o.b.size 4 (laneImax o x)

/-- iabs (05 R88). -/
def laneIabs (o : VInt) (x : Ctx) : Nat → LaneResult :=
  x.intUn o fun a => ((o.ty.int a).natAbs : Int)

/-- iabs (05 R87). -/
def execIabs (o : VInt) (s : State) : Out := s.run fun x => x.each o.h 8 4 (laneIabs o x)

/-- ineg (05 R88). -/
def laneIneg (o : VInt) (x : Ctx) : Nat → LaneResult :=
  x.intUn o fun a => -(o.ty.int a)

/-- ineg (05 R87). -/
def execIneg (o : VInt) (s : State) : Out := s.run fun x => x.each o.h 8 4 (laneIneg o x)

/-- iaddsat (05 R88): b is signed whatever the TYPE, and the sum always saturates. -/
def laneIaddsat (o : VInt) (x : Ctx) : Nat → LaneResult :=
  x.intBin o true fun a b => o.ty.int a + o.ty.sint b

/-- iaddsat (05 R87). -/
def execIaddsat (o : VInt) (s : State) : Out := s.run fun x => x.each o.h o.b.size 4 (laneIaddsat o x)

/-- isubsat (05 R88). -/
def laneIsubsat (o : VInt) (x : Ctx) : Nat → LaneResult :=
  x.intBin o true fun a b => o.ty.int a - o.ty.sint b

/-- isubsat (05 R87). -/
def execIsubsat (o : VInt) (s : State) : Out := s.run fun x => x.each o.h o.b.size 4 (laneIsubsat o x)

/-! ### Logic and shifts -/

/-- and (05 R88). -/
def laneAnd (o : VInt) (x : Ctx) : Nat → LaneResult :=
  x.intBin o o.sat fun a b => (a &&& b).toInt

/-- and (05 R87). -/
def execAnd (o : VInt) (s : State) : Out := s.run fun x => x.each o.h o.b.size 4 (laneAnd o x)

/-- or (05 R88). -/
def laneOr (o : VInt) (x : Ctx) : Nat → LaneResult :=
  x.intBin o o.sat fun a b => (a ||| b).toInt

/-- or (05 R87). -/
def execOr (o : VInt) (s : State) : Out := s.run fun x => x.each o.h o.b.size 4 (laneOr o x)

/-- xor (05 R88). -/
def laneXor (o : VInt) (x : Ctx) : Nat → LaneResult :=
  x.intBin o o.sat fun a b => (a ^^^ b).toInt

/-- xor (05 R87). -/
def execXor (o : VInt) (s : State) : Out := s.run fun x => x.each o.h o.b.size 4 (laneXor o x)

/-- not (05 R88). -/
def laneNot (o : VInt) (x : Ctx) : Nat → LaneResult :=
  x.intUn o fun a => (~~~a).toInt

/-- not (05 R87). -/
def execNot (o : VInt) (s : State) : Out := s.run fun x => x.each o.h 8 4 (laneNot o x)

/-- andn (05 R88). -/
def laneAndn (o : VInt) (x : Ctx) : Nat → LaneResult :=
  x.intBin o o.sat fun a b => (a &&& ~~~b).toInt

/-- andn (05 R87). -/
def execAndn (o : VInt) (s : State) : Out := s.run fun x => x.each o.h o.b.size 4 (laneAndn o x)

/-- shl (05 R89): with SAT, a × 2^k saturates; a count of 64 already takes every nonzero value out of range. -/
def laneShl (o : VInt) (x : Ctx) : Nat → LaneResult :=
  x.intShift o fun a k =>
    if o.sat then o.ty.int a * 2 ^ min k 64 else shlPat o.ty.width (o.ty.pat a) k

/-- shl (05 R87). -/
def execShl (o : VInt) (s : State) : Out := s.run fun x => x.each o.h o.b.size 4 (laneShl o x)

/-- shr (05 R89). -/
def laneShr (o : VInt) (x : Ctx) : Nat → LaneResult :=
  x.intShift o fun a k => shrPat o.ty.width (o.ty.pat a) k

/-- shr (05 R87). -/
def execShr (o : VInt) (s : State) : Out := s.run fun x => x.each o.h o.b.size 4 (laneShr o x)

/-- sar (05 R89). -/
def laneSar (o : VInt) (x : Ctx) : Nat → LaneResult :=
  x.intShift o fun a k => sarPat o.ty.width (o.ty.pat a) k

/-- sar (05 R87). -/
def execSar (o : VInt) (s : State) : Out := s.run fun x => x.each o.h o.b.size 4 (laneSar o x)

/-- rol (05 R89). -/
def laneRol (o : VInt) (x : Ctx) : Nat → LaneResult :=
  x.intShift o fun a k => rolPat o.ty.width (o.ty.pat a) k

/-- rol (05 R87). -/
def execRol (o : VInt) (s : State) : Out := s.run fun x => x.each o.h o.b.size 4 (laneRol o x)

/-- bfx (05 R90): the field control is B's 32 bits. -/
def laneBfx (o : VInt) (x : Ctx) : Nat → LaneResult :=
  x.intShift o fun a b => bfxPat o.ty.width o.ty.signed (o.ty.pat a) b

/-- bfx (05 R87). -/
def execBfx (o : VInt) (s : State) : Out := s.run fun x => x.each o.h o.b.size 4 (laneBfx o x)

/-- bfi (05 R90). -/
def laneBfi (o : VInt) (x : Ctx) : Nat → LaneResult :=
  x.intTern o fun a b c => (bfiPat o.ty.width (o.ty.pat a) b.toNat (o.ty.pat c), 0#32)

/-- bfi (05 R87). -/
def execBfi (o : VInt) (s : State) : Out := s.run fun x => x.each o.h o.b.size 4 (laneBfi o x)

/-! ### Counts -/

/-- popc (05 R88). -/
def lanePopc (o : VInt) (x : Ctx) : Nat → LaneResult :=
  x.intUn o fun a => popN o.ty.width (o.ty.pat a)

/-- popc (05 R87). -/
def execPopc (o : VInt) (s : State) : Out := s.run fun x => x.each o.h 8 4 (lanePopc o x)

/-- clz (05 R88). -/
def laneClz (o : VInt) (x : Ctx) : Nat → LaneResult :=
  x.intUn o fun a => (o.ty.width - bitLen (o.ty.pat a) : Nat)

/-- clz (05 R87). -/
def execClz (o : VInt) (s : State) : Out := s.run fun x => x.each o.h 8 4 (laneClz o x)

/-- ctz (05 R88). -/
def laneCtz (o : VInt) (x : Ctx) : Nat → LaneResult :=
  x.intUn o fun a => ctzN o.ty.width (o.ty.pat a)

/-- ctz (05 R87). -/
def execCtz (o : VInt) (s : State) : Out := s.run fun x => x.each o.h 8 4 (laneCtz o x)

/-- brev (05 R88). -/
def laneBrev (o : VInt) (x : Ctx) : Nat → LaneResult :=
  x.intUn o fun a => revN o.ty.width (o.ty.pat a)

/-- brev (05 R87). -/
def execBrev (o : VInt) (s : State) : Out := s.run fun x => x.each o.h 8 4 (laneBrev o x)

/-! ### Selection and comparison -/

/-- sel (05 R88): the predicate of SRCC selects, and its poison counts as a source's (R87). -/
def laneSel (o : VInt) (x : Ctx) : Nat → LaneResult :=
  fun l =>
    let a := x.vAt l o.ty.wide o.a
    let b := x.bAt l o.ty.wide o.b
    let p := x.p l o.c.toNat
    (Ctx.intWrites l o.ty.wide o.d (o.ty.deliver false (if p.val then a.val.toInt else b.val.toInt)) (a.poi || b.poi || p.poi), 0#32)

/-- sel (05 R87). -/
def execSel (o : VInt) (s : State) : Out := s.run fun x => x.each o.h o.b.size 4 (laneSel o x)

/-- icmp (05 R91). -/
def laneIcmp (o : VInt) (x : Ctx) : Nat → LaneResult :=
  fun l =>
    let a := x.vAt l o.ty.wide o.a
    let b := x.bAt l o.ty.wide o.b
    ([.p l o.d.toNat { val := icmpHolds o.sub (o.ty.int a.val) (o.ty.int b.val), poi := a.poi || b.poi }], 0#32)

/-- icmp (05 R87). -/
def execIcmp (o : VInt) (s : State) : Out := s.run fun x => x.each o.h o.b.size 4 (laneIcmp o x)

/-- clamp (05 R91): .rng reads C, .sym does not. -/
def laneClamp (o : VInt) (x : Ctx) : Nat → LaneResult :=
  if o.sub = 1#3 then
      x.intBin o o.sat fun a b => min (max (o.ty.int a) (-(o.ty.int b))) (o.ty.int b)
    else x.intTern o fun a b c => (min (max (o.ty.int a) (o.ty.int b)) (o.ty.int c), 0#32)

/-- clamp (05 R87). -/
def execClamp (o : VInt) (s : State) : Out := s.run fun x => x.each o.h o.b.size 4 (laneClamp o x)

/-! ### Dot products and the rounding shift -/

/-- idot4 (05 R92). -/
def laneIdot4 (o : VInt) (x : Ctx) : Nat → LaneResult :=
  x.intTern o fun a b c => (o.ty.int c + idot4Sum o.sub a b, 0#32)

/-- idot4 (05 R87). -/
def execIdot4 (o : VInt) (s : State) : Out := s.run fun x => x.each o.h o.b.size 6 (laneIdot4 o x)

/-- idot8 (05 R92): a reserved code counts as 0 and sets NRC (04 R69). -/
def laneIdot8 (o : VInt) (x : Ctx) : Nat → LaneResult :=
  x.intTern o fun a b c => (o.ty.int c + idot8Sum a b, Flag.on (idot8Nrc a b) Flag.nrc)

/-- idot8 (05 R87). -/
def execIdot8 (o : VInt) (s : State) : Out := s.run fun x => x.each o.h o.b.size 6 (laneIdot8 o x)

/-- srshr (05 R93): A is read at 32 bits, the count is B[5:0]. -/
def laneSrshr (o : VInt) (x : Ctx) : Nat → LaneResult :=
  x.intBin o o.sat fun a b =>
    srshrInt (if o.ty.signed then ITy.s32.int a else ITy.n32.int a) (b.toNat % 64)

/-- srshr (05 R87). -/
def execSrshr (o : VInt) (s : State) : Out := s.run fun x => x.each o.h o.b.size 4 (laneSrshr o x)

end Sys2Proof.Machine
end

