-- ==== Sys2Proof/Machine/Convert.lean ====
section
/-!
DEFINITION. The conversion class (06 R121 to R124).
-/
namespace Sys2Proof.Machine

namespace Ctx

/-- The patterns of a run of n vector registers in a lane, and whether one carries poison. -/
def run (x : Ctx) (lane : Nat) (r : BitVec 8) (n : Nat) : List Word × Bool :=
  let vs := (List.range n).map fun j => x.v lane (r.toNat + j)
  (vs.map VReg.val, vs.any VReg.poi)

/-- Writes of a run of registers from one. -/
def runWrites (lane : Nat) (d : BitVec 8) (poi : Bool) (vs : List Word) : List RegWrite :=
  (List.range vs.length).map fun j => .v lane (d.toNat + j) { val := (vs[j]?).getD 0#32, poi := poi }

end Ctx

/-- cvt (06 R122). -/
def laneCvt (o : VCvt) (x : Ctx) : Nat → LaneResult :=
  fun l =>
    match o.src with
    | none => ([], 0#32)
    | some src =>
      let a := x.vAt l src.wide o.a
      let r := convertVal src o.fmt (x.mode o.rnd) a.val
      (Ctx.intWrites l o.fmt.wide o.d r.1 a.poi, r.2)

/-- cvt (06 R121). -/
def execCvt (o : VCvt) (s : State) : Out := s.run fun x => x.each o.h 8 6 (laneCvt o x)

/-- qpack4 (06 R123): the scale byte is B[7:0]. -/
def execQpack4 (o : VCvt) (s : State) : Out :=
  s.run fun x => x.each o.h 8 6 fun l =>
    let a := x.run l o.a 8
    let b := x.b32 l o.b
    let sc := b.val.toNat % 256
    let cs := a.1.map fun v => q4Quant (sc / 64) (sc % 64) v.toNat
    let word := (List.range 8).foldl (fun n j => n + ((cs[j]?).map Prod.fst).getD 0 * 2 ^ (4 * j)) 0
    ([.v l o.d.toNat { val := BitVec.ofNat 32 word, poi := a.2 || b.poi }], orFlags (cs.map Prod.snd))

/-- qunpack4 (06 R123). -/
def execQunpack4 (o : VCvt) (s : State) : Out :=
  s.run fun x => x.each o.h 8 6 fun l =>
    let a := x.v l o.a.toNat
    let b := x.b32 l o.b
    let rs := (List.range 8).map fun j => q4Unpack (b.val.toNat % 256) (a.val.toNat / 2 ^ (4 * j) % 16)
    (Ctx.runWrites l o.d (a.poi || b.poi) (rs.map fun r => BitVec.ofNat 32 r.1), orFlags (rs.map Prod.snd))

/-- scalepick (06 R123, 04 R74). -/
def execScalepick (o : VCvt) (s : State) : Out :=
  s.run fun x => x.each o.h 8 6 fun l =>
    let a := x.run l o.a 32
    let r := scalePick (o.c.toNat % 4) (a.1.map BitVec.toNat)
    ([.v l o.d.toNat { val := BitVec.ofNat 32 r.1, poi := a.2 }], r.2)

/-- cvt8x4 (06 R124): four values converted into the bytes of one register. -/
def execCvt8x4 (o : VCvt) (s : State) : Out :=
  s.run fun x => x.each o.h 8 6 fun l =>
    match o.src with
    | none => ([], 0#32)
    | some src =>
      let a := x.run l o.a 4
      let rs := a.1.map fun v => convertVal src o.fmt .rna (v.setWidth 64)
      let word := (List.range 4).foldl (fun n j => n + ((rs[j]?).map fun r => r.1.toNat % 256).getD 0 * 2 ^ (8 * j)) 0
      ([.v l o.d.toNat { val := BitVec.ofNat 32 word, poi := a.2 }], orFlags (rs.map Prod.snd))

/-- cvtq (06 R124): the four bytes of a register converted, exactly. -/
def execCvtq (o : VCvt) (s : State) : Out :=
  s.run fun x => x.each o.h 8 6 fun l =>
    match o.src with
    | none => ([], 0#32)
    | some src =>
      let a := x.v l o.a.toNat
      let rs := (List.range 4).map fun j => convertVal src o.fmt .rne (BitVec.ofNat 64 (a.val.toNat / 2 ^ (8 * j) % 256))
      (Ctx.runWrites l o.d a.poi (rs.map fun r => r.1.setWidth 32), orFlags (rs.map Prod.snd))

end Sys2Proof.Machine
end

