-- ==== Sys2Proof/Machine/Save.lean ====
section
/-!
DEFINITION. Steps of the device on one team, and pre-emption (20 R317 to R321): a team at rest, a group's saved context, and a group
put back into dispatch.
-/
namespace Sys2Proof.Machine

/-- A team by its group's id and its index. -/
def State.team? (s : State) (gi ti : Nat) : Option (Group × Team) :=
  match s.group? gi with
  | none => none
  | some g => (g.team? ti).map fun t => (g, t)

/-- The slot cycle of a team now. -/
def State.clockOf (s : State) (g : Group) (t : Team) : Nat := (s.slotOf (slotKey g.die g.core t.slot)).clock s.cycle

/-- A step taken where it is due, and nothing otherwise. -/
def State.when (s : State) (due : Bool) (f : State → State) : Out := .next (if due then f s else s)

/-- A team changed. -/
def State.onTeam (s : State) (gi ti : Nat) (f : Group → Team → Team) : State :=
  match s.team? gi ti with
  | none => s
  | some (g, t) => s.setGroup (g.setTeam (f g t))

/-- A team that runs in a running group. -/
def State.runs (s : State) (gi ti : Nat) (p : Group → Team → Bool) : Bool :=
  (s.team? gi ti).any fun q => q.1.status == .running && q.2.phase == .running && p q.1 q.2

/-- A trap raised in a team by a step of the device: the outcome's state. -/
def State.raiseIn (s : State) (gi ti : Nat) (f : Ctx → Out) : State :=
  match ({ s with cur := some (gi, ti) } : State).ctx? with
  | none => s
  | some x => match f x with
    | .next s' => { s' with cur := none }
    | _ => s

/-- Whether a group is speculative now. -/
def State.isSpec (s : State) (g : Group) : Bool :=
  match s.launch? g.launch with
  | none => false
  | some l => match s.chartOf l g with
    | none => false
    | some c => State.specOf l c g

/-- A team's context changed by a step of the device. -/
def State.onCtx (s : State) (gi ti : Nat) (f : Ctx → Ctx) : State :=
  s.raiseIn gi ti fun x => .next (f x).save

/-- A held trap raised as if it had just been (12 R227). -/
def Ctx.raiseHeld (x : Ctx) : Out :=
  match x.t.held with
  | none => .next x.s
  | some h => ({ x with t := { x.t with held := none } } : Ctx).raise h.cause h.lanes h.addr h.perLane

/-! ### Pre-emption -/

/-- What a team's save waits for: its atomics served, its loads performed, its matrix instructions finished (01 R21, 10 R195, 13 R244,
17 R297). -/
def Ctx.served (x : Ctx) : Ctx :=
  let y := x.allServed
  ((y.performLoads.toOption).getD y).matsDone

/-- Whether that can be: the team's fixed-latency results are ready and its last instruction's STALL has elapsed (01 R18, R21), no core
that is being reset stands in the way (21 R340), and the buffer takes the team's .t atomics. -/
def Ctx.quiet (x : Ctx) : Bool :=
  let now := x.s.clockOf x.g x.t
  !x.t.pending now && decide (x.t.earliest ≤ now ∨ (x.t.wait.isSome ∧ x.t.held = none)) &&
  !x.allServed.atomsOpen && x.allServed.performLoads.toOption.isSome

/-- A team stopped (20 R317, R318, R320): its results, loads and atomics written, nothing of a wait kept; a blocked instruction is
issued again whole. -/
def Team.atRest (t : Team) : Team :=
  { t.applyAll (t.pend.map Pending.w ++ t.loads.flatMap Load.ws ++ t.atoms.flatMap AtomReq.ws) with
    pend := [], loads := [], atoms := [], late := false, wait := none, qturn := none, promoted := none, yielding := none, burst := none, busy := 0, earliest := 0
    readySince := none, held := none, mburstAt := none, ramp := none, quota := none }

/-- An operand-fetcher fill dropped: the handle as it was before it (20 R318, 16 R256). -/
def Group.dropFetch (g : Group) (c : Cmd) : Group :=
  match c.kind with
  | .fetch _ _ =>
    { g with handles := g.handles.set c.hdl (let h := (g.handles[c.hdl]?).getD Handle.free; { h with st := h.prior }) }
  | _ => g

/-- Whether a command is the operand fetcher's. -/
def CmdKind.fetches : CmdKind → Bool
  | .fetch _ _ => true
  | _ => false

/-- The group's saved context (20 R319, R321): operand-fetcher fills dropped, every drain to be checked again. -/
def Group.atRest (g : Group) : Group :=
  let h := g.cmds.foldl Group.dropFetch g
  { h with
    teams := h.teams.map fun t => if t.phase == .ended then t else t.atRest
    cmds := (h.cmds.filter fun c => !c.kind.fetches).map fun (c : Cmd) => { c with got := [], bad := none, seen := [], noted := false }
    handles := (List.range h.handles.length).map fun i =>
      let v := (h.handles[i]?).getD Handle.free
      if h.cmds.any (fun c => c.kind.drain && c.hdl == i) then { v with chk := true } else v
    posts := none, reads := [], saved := true, grace := none, stop := false }

/-- The teams of a group brought to where a save may fall: trap entries due are completed first (20 R312), then loads and atomics
end. -/
def State.quiesce (s : State) (gid : Nat) : State :=
  let each (s : State) (f : State → Nat → State) : State :=
    ((s.group? gid).map fun g => (g.teams.map Team.idx).foldl f s).getD s
  let s := each s fun s t => if s.runs gid t fun _ u => u.held.isSome then s.raiseIn gid t Ctx.raiseHeld else s
  each s fun s t => if s.runs gid t fun _ _ => true then s.onCtx gid t Ctx.served else s

/-- Whether a group's teams can be brought to where a save may fall. -/
def State.quiet (s : State) (gid : Nat) : Bool :=
  (s.group? gid).any fun g => g.teams.all fun t =>
    !s.runs gid t.idx (fun _ _ => true) || (({ s with cur := some (gid, t.idx) } : State).ctx?).all Ctx.quiet

/-- A group pre-empted (20 R318): one still in its preloads begins again, a speculative one is aborted, any other is saved, unless a
trap held in it ends it; it enters dispatch at the head of its die's share (21 R332). Where its teams' results, loads and atomics are
to be waited for, issue stops in every team, and the save falls once they have come: its grace is over then. -/
def State.preemptGroup (s : State) (gid : Nat) : State :=
  match s.group? gid with
  | none => s
  | some g =>
    if g.status == .loading then (s.setGroup { g.cleared with status := .share }).requeueGroup g
    else if s.isSpec g then s.abortGroup gid
    else if !s.quiet gid then s.setGroup { g with stop := true, grace := some s.cycle }
    else
      let s := s.quiesce gid
      match s.group? gid with
      | none => s
      | some g => if g.resident then (s.setGroup { g.atRest with status := .share }).requeueGroup g else s

end Sys2Proof.Machine
end

