-- ==== Sys2Proof/Machine/Bound.lean ====
section
/-!
DEFINITION. Records of a translated Eceel block whose virtual registers no native register holds for good (22 R357): while one executes,
it finds them in native registers lent to it (notes/assumptions/56.md).
-/
namespace Sys2Proof.Machine

/-- The native register that a virtual one stands in under a binding. -/
def lentName (b : List (RegName × RegName)) (n : RegName) : RegName := ((b.find? fun q => q.2 == n).map Prod.fst).getD n

/-- The virtual register that stands in a native one under a binding. -/
def ownName (b : List (RegName × RegName)) (n : RegName) : RegName := ((b.find? fun q => q.1 == n).map Prod.snd).getD n

/-- A write's register. -/
def RegWrite.name : RegWrite → Option RegName
  | .v _ r _ => some (.v r)
  | .p _ r _ => some (.p r)
  | .s r _ => some (.s r)
  | .flags _ => none

/-- A write, to another register of its kind. -/
def RegWrite.renamed (f : RegName → RegName) (w : RegWrite) : RegWrite :=
  match w with
  | .v l r x => match f (.v r) with
    | .v k => .v l k x
    | _ => w
  | .p l r x => match f (.p r) with
    | .p k => .p l k x
    | _ => w
  | .s r x => match f (.s r) with
    | .s k => .s k x
    | _ => w
  | .flags _ => w

/-- The number of a vector register named anew. -/
def vNumber (f : RegName → RegName) (k : Nat) : Nat :=
  match f (.v k) with
  | .v r => r
  | _ => k

/-- A load, and an atomic, of which the registers are named anew. -/
def Load.renamed (f : RegName → RegName) (l : Load) : Load :=
  { l with
    dst := l.dst.map (vNumber f), todo := l.todo.map fun p => { p with r := vNumber f p.r }
    ws := l.ws.map (RegWrite.renamed f) }

def AtomReq.renamed (f : RegName → RegName) (q : AtomReq) : AtomReq :=
  { q with ret := q.ret.map (vNumber f), ws := q.ws.map (RegWrite.renamed f) }

/-- Whether a pending result is of a native register that a binding lends. -/
def Pending.aside (b : List (RegName × RegName)) (e : Pending) : Bool := e.w.name.any fun n => b.any fun q => q.1 == n

/-- A native register of a team of n lanes given the value of the virtual one that it is lent to. -/
def Team.lendOne (n : Nat) (t : Team) : RegName × RegName → Team
  | (.v a, .v k) => (List.range n).foldl (fun t l =>
      { t with v := Store.put { val := 0#32, poi := false } t.v (vKey l a) (Store.get { val := 0#32, poi := false } t.vx (xKey l k)) }) t
  | (.p a, .p k) => (List.range n).foldl (fun t l =>
      { t with p := Store.put { val := false, poi := false } t.p (pKey l a) (Store.get { val := false, poi := false } t.px (xKey l k)) }) t
  | (.s a, .s k) => { t with s := Store.put { val := 0#64, poi := false } t.s a (Store.get { val := 0#64, poi := false } t.sx k) }
  | _ => t

/-- A team of n lanes as a bound record executes: its native registers lent to the virtual ones, with their pending results. -/
def Team.lend (t : Team) (n : Nat) (b : List (RegName × RegName)) : Team :=
  { b.foldl (Team.lendOne n) t with
    pend := (t.pend.filter fun e => !e.aside b).map fun e => { e with w := e.w.renamed (lentName b) } }

/-- A virtual register given the value of the native one that was lent to it. -/
def Team.keepOne (n : Nat) (t : Team) : RegName × RegName → Team
  | (.v a, .v k) => (List.range n).foldl (fun t l => { t with vx := Store.put { val := 0#32, poi := false } t.vx (xKey l k) (t.fileV l a) }) t
  | (.p a, .p k) => (List.range n).foldl (fun t l => { t with px := Store.put { val := false, poi := false } t.px (xKey l k) (t.fileP l a) }) t
  | (.s a, .s k) => { t with sx := Store.put { val := 0#64, poi := false } t.sx k (t.fileS a) }
  | _ => t

/-- A native register given back its own value, that of another state of the team; a scalar in a checkpoint taken since then too. -/
def Team.backOne (n : Nat) (old t : Team) : RegName × RegName → Team
  | (.v a, _) => (List.range n).foldl (fun t l => { t with v := Store.put { val := 0#32, poi := false } t.v (vKey l a) (old.fileV l a) }) t
  | (.p a, _) => (List.range n).foldl (fun t l => { t with p := Store.put { val := false, poi := false } t.p (pKey l a) (old.fileP l a) }) t
  | (.s a, _) =>
    { t with
      s := Store.put { val := 0#64, poi := false } t.s a (old.fileS a)
      ckpt := if t.ckpt == old.ckpt then t.ckpt else { t.ckpt with s := Store.put { val := 0#64, poi := false } t.ckpt.s a (old.fileS a) } }

/-- The team once the bound record has executed, `old` being the team before it: the virtual registers hold what the native ones held,
a destination's after those of the sources, and the native ones their own values again. Results, loads and atomics that the record
began name the virtual registers. -/
def Team.takeBack (t : Team) (n : Nat) (b : List (RegName × RegName)) (old : Team) : Team :=
  let u := b.foldl (Team.backOne n old) (b.foldl (Team.keepOne n) t)
  { u with
    pend := old.pend.filter (Pending.aside b) ++ t.pend.map fun e => { e with w := e.w.renamed (ownName b) }
    loads := t.loads.take old.loads.length ++ (t.loads.drop old.loads.length).map (Load.renamed (ownName b))
    atoms := t.atoms.take old.atoms.length ++ (t.atoms.drop old.atoms.length).map (AtomReq.renamed (ownName b)) }

/-- What a bound record waits for in the virtual registers that it names: a load or an atomic in flight (01 R20, 13 R244). -/
def Ctx.boundLock (x : Ctx) (b : List (RegName × RegName)) (i : Instr) : Option WaitOn :=
  if x.t.loadsInto ((mayWrite i).map (ownName b)) then some .load
  else if x.t.atomsInto ((x.checked i ++ i.uses.now ++ mayWrite i).map (ownName b)) then some .atomic
  else none

/-- The team back among its own registers in the state that a bound record left. -/
def State.unbound (s : State) (gi ti n : Nat) (old : Team) (b : List (RegName × RegName)) : State :=
  s.onTeam gi ti fun _ t => if t.phase == .ended then t else t.takeBack n b old

/-- The executing team's instruction run, a record of a translated Eceel block among its virtual registers. -/
def State.withBinds (s : State) (run : State → Out) : Out :=
  match s.ctx? with
  | none => run s
  | some x =>
    let b := x.im.bindsAt x.t.pc
    if b.isEmpty then run s
    else match x.fetch.toOption.bind (x.boundLock b) with
    | some w => x.block w
    | none => mapNext (fun u => u.unbound x.g.gid x.t.idx x.w x.t b) (run ({ x with t := x.t.lend x.w b } : Ctx).save)

end Sys2Proof.Machine
end

