-- ==== Sys2Proof/Machine/CommitOps.lean ====
section
/-!
DEFINITION. Commits, aborts and fences as instructions (11 R201 to R203, R206, R208, R213, R214).
-/
namespace Sys2Proof.Machine

/-- The checkpoint of n registers (11 R199): the register file's values, every result written. -/
def Team.checkpoint (t : Team) (w n : Nat) : Ckpt :=
  { n := n, k := ckptSize w n, v := t.v.filter fun e => decide (e.1 % 256 < n), p := t.p, s := t.s }

/-- tcommit (11 R202). -/
def execTcommit (stall : BitVec 4) (s : State) : Out := s.run fun x => x.committing 8 fun y => (y.retire 8 stall).done

/-- tcommit.ck (11 R202): it reads every register of the checkpoint, so it waits for the team's atomics too (13 R244). -/
def execTcommitCk (stall : BitVec 4) (b : SrcB) (s : State) : Out :=
  s.run fun x =>
    let n := x.sB b
    if n.poi then x.trap0 Cause.poisonUse
    else if n.val.toInt < 0 ∨ (x.c.ckpt : Int) < n.val.toInt ∨ x.c.tbufBytes - 64 < ckptSize x.w n.val.toNat then
      x.trap Cause.bound noLanes n.val
    else if !x.t.loads.isEmpty then x.block .load
    else if !x.t.atoms.isEmpty then x.block .atomic
    else x.committing 8 fun y => ({ y with t := { y.t with ckpt := y.t.checkpoint x.w n.val.toNat } } : Ctx).retire 8 stall |>.done

/-- A team's state as tabort restores it (11 R203). A mark of a contested granule stays with the group (notes/assumptions/68.md,
DEDUCED), and virtual registers are not restored (notes/assumptions/56.md). -/
def Team.restored (t : Team) : Team :=
  { t with
    buf := []
    mstack := t.mstack.drop (t.mstack.length - t.resume.depth)
    rstack := t.rstack.drop (t.rstack.length - t.resume.rdepth)
    mask := t.resume.mask, tctl := t.resume.tctl, v := t.ckpt.v, p := t.ckpt.p, s := t.ckpt.s
    inhandler := false, frame := if t.inhandler then Frame.none else t.frame, pc := t.resume.pc }

/-- tabort (11 R203): it writes every register, so it waits for the team's atomics too (13 R244). -/
def execTabort (stall : BitVec 4) (s : State) : Out :=
  s.run fun x =>
    if x.t.pending x.t.t0 then x.block .result
    else if !x.t.loads.isEmpty then x.block .load
    else if !x.t.atoms.isEmpty then x.block .atomic
    else if x.t.noroll then x.trap0 Cause.rollbackUnavailable
    else if x.t.mstack.length < x.t.resume.depth ∨ x.t.rstack.length < x.t.resume.rdepth then x.trap0 Cause.divergenceDepth
    else
      let y := x.issued 1 stall.toNat
      ({ y with t := y.t.restored } : Ctx).done

/-- gcommit (11 R206): the team commit first, then the waits of the group commit, then the commit. -/
def execGcommit (stall : BitVec 4) (s : State) : Out :=
  s.run fun x => x.committing 8 fun y =>
    if y.spec then y.block .frontier
    else if !y.save.commitReady y.g.gid false then y.block .commit
    else
      let z := y.sync fun s => s.groupCommit y.g.gid false
      (({ z with g := { z.g with gcommitted := true } } : Ctx).retire 8 stall).done

/-- gabort (11 R208). -/
def execGabort (stall : BitVec 4) (s : State) : Out :=
  s.run fun x =>
    if x.g.committed then x.trap0 Cause.rollbackUnavailable
    else .next ((x.issued 1 stall.toNat).save.abortGroup x.g.gid)

/-- Whether the team has an access that a fence of a scope waits for (11 R213). -/
def Team.fenced (t : Team) (scope : Scope) : Bool :=
  (t.loads.any fun l => match l.path with
    | .die => scope == .d
    | _ => true) ||
  (t.atoms.any fun q => !q.todo.isEmpty && (match q.scope with
    | .t => false
    | .g => scope != .t
    | .d => scope == .d))

/-- fence (11 R213). -/
def execFence (h : Head) (scope : Scope) (s : State) : Out :=
  s.run fun x =>
    let lanes := x.sel h
    if !lanes.isEmpty && x.t.fenced scope then x.block .fence else x.finish 8 h.stall lanes (x.guardFaults h)

/-- xfence (11 R214). -/
def execXfence (stall : BitVec 4) (hdl : BitVec 5) (s : State) : Out :=
  s.run fun x =>
    (x.handleFault hdl).getD
      (if (x.handle hdl).st = .filling then x.block (.handle hdl.toNat) else (x.retire 8 stall).done)

end Sys2Proof.Machine
end

