-- ==== Sys2Proof/Machine/Control.lean ====
section
/-!
DEFINITION. Control transfer (05 R98 to R102).
-/
namespace Sys2Proof.Machine

namespace Ctx

/-- The target of a transfer (05 R98). -/
def target (x : Ctx) (imm : Word) : DWord := x.t.pc + imm.signExtend 64 <<< 3

/-- The team goes on at an address; the transfer is FORM 01. -/
def jump (x : Ctx) (stall : BitVec 4) (pc : DWord) : Ctx := (x.issued 1 stall.toNat).goto pc

/-- The lanes of the team's mask: what the instructions without a lane guard call active. -/
def maskLanes (x : Ctx) : List Nat := lanesOf x.w x.t.mask

end Ctx

/-- bra (05 R99). -/
def execBra (stall : BitVec 4) (imm : Word) (s : State) : Out := s.run fun x => (x.jump stall (x.target imm)).done

/-- Whether a condition of brc over the active lanes' predicate values holds (05 R100). -/
def brHolds (cond : BrCond) (vals : List Bool) : Bool :=
  match cond with
  | .any => vals.any id
  | .all => vals.all id
  | _ => !vals.any id

/-- brc (05 R100): the predicate is read in every active lane at the issue. -/
def execBrc (stall : BitVec 4) (cond : BrCond) (p : BitVec 6) (imm : Word) (s : State) : Out :=
  s.run fun x =>
    if cond = .snz then
      let v := x.sc p.toNat
      if v.poi then x.trap Cause.poisonUse (laneSet x.maskLanes) 0#64
      else (x.jump stall (if v.val = 0#64 then x.after 16 else x.target imm)).done
    else
      let vs := x.maskLanes.map fun l => (l, x.t.readP x.t.t0 l p.toNat)
      let bad := vs.filter fun v => v.2.poi
      if bad.isEmpty then (x.jump stall (if brHolds cond (vs.map fun v => v.2.val) then x.target imm else x.after 16)).done
      else x.trap Cause.poisonUse (laneSet (bad.map Prod.fst)) 0#64

/-- call (05 R101): the return stack has 32 entries. -/
def execCall (stall : BitVec 4) (imm : Word) (s : State) : Out :=
  s.run fun x =>
    if 32 ≤ x.t.rstack.length then x.trap0 Cause.divergenceDepth
    else
      let e : RetEntry := { addr := x.after 16, depth := x.t.mstack.length }
      (({ x with t := { x.t with rstack := e :: x.t.rstack } } : Ctx).jump stall (x.target imm)).done

/-- ret (05 R101). -/
def execRet (stall : BitVec 4) (s : State) : Out :=
  s.run fun x =>
    match x.t.rstack with
    | [] => x.trap0 Cause.divergenceDepth
    | e :: r =>
      if e.depth = x.t.mstack.length then (({ x with t := { x.t with rstack := r } } : Ctx).jump stall e.addr).done
      else x.trap0 Cause.divergenceDepth

/-- exit (05 R102): results and loads first, then the team commit, then the end of the team. -/
def execExit (stall : BitVec 4) (s : State) : Out :=
  s.run fun x =>
    if x.t.pending x.t.t0 then x.block .result
    else if !x.t.loads.isEmpty then x.block .load
    else x.committing 8 fun y => (y.issued 1 stall.toNat).teamEnd

/-- nop (05 R99). -/
def execNop (stall : BitVec 4) (s : State) : Out := s.run fun x => (x.retire 8 stall).done

end Sys2Proof.Machine
end

