-- ==== Sys2Proof/Machine/Engines.lean ====
section
/-!
DEFINITION. The copy engine, handles and layout records (16 R254 to R275): acceptance of commands, the image of a fill, publishes,
drains, and the instructions of R264.
-/
namespace Sys2Proof.Machine

/-! ### The image of a fill -/

/-- An element of the window read by an engine; the fault holds its offset (16 R261, R273). -/
def Group.engineRead (g : Group) (c : Chart) (r : LRec) (a : Int) : Except DWord (List Byte × Bool) :=
  if 0 ≤ a ∧ a + r.es ≤ (c.winSize g : Int) then .ok (g.window.readN a.toNat r.es, poisonIn g.wpois a.toNat r.es)
  else .error (BitVec.ofInt 64 a)

/-- An element of main memory read through the translations that its command has made: each page is found as it was when the command
reached it (10 R192). Elements never cross a page (16 R260). -/
def State.mainRead (s : State) (seen : List Page) (r : LRec) (a : Int) : Except DWord (List Byte × Bool) :=
  if decide (0 ≤ a) && seen.any fun p => p.covers a.toNat && p.r then .ok (s.mem.readN a.toNat r.es, poisonIn s.mpois a.toNat r.es)
  else .error (BitVec.ofInt 64 a)

/-- What a fill puts at a place of the slot: an element that it reads, the fill element's bytes, or the index of a row that it may
not move (16 R267, R273). -/
inductive FillSrc
  | read (r : LRec) (a : Int) (ofs : Nat)
  | fill (bytes : List Byte) (ofs : Nat)
  | bad (x : Word) (ofs : Nat)
  deriving DecidableEq, Repr

/-- The place of a source. -/
def FillSrc.ofs : FillSrc → Nat
  | .read _ _ o | .fill _ o | .bad _ o => o

/-- The dense image of a record from a byte of the slot on, its padding filled (16 R261, R267). -/
def LRec.denseSrcs (r : LRec) (off : Int) (base : Nat) : List FillSrc :=
  ((r.drainMap off).map fun e => .read r e.1 (base + e.2)) ++ r.padPos.map fun p => .fill r.fillBytes (base + p * r.es)

/-- Row k of a gather: the index check first, then its elements and its padding (16 R267). -/
def LRec.rowSrcs (r : LRec) (k : Nat) (x : Word) : List FillSrc :=
  let at_ (j : Nat) : Nat := k * r.rowBytes + j * r.es
  let pad := (List.range r.pad).map fun j => FillSrc.fill r.fillBytes (at_ (r.x 0 + j))
  if x.toNat < r.x 1 then ((List.range (r.x 0)).map fun j => .read r (r.addr 0 (j, x.toNat, 0, 0)) (at_ j)) ++ pad
  else if r.fillen then ((List.range (r.x 0)).map fun j => .fill r.fillBytes (at_ j)) ++ pad
  else [.bad x (at_ 0)]

/-- Everything that a fill puts into its shadow slot, in the command's order (16 R267, R273; 17 R286). -/
def Cmd.srcs (c : Cmd) : List FillSrc :=
  let r := LRec.ofBits c.lrec
  match c.kind with
  | .gather => (List.range c.idx.length).flatMap fun k => r.rowSrcs k ((c.idx[k]?).getD 0#32)
  | .fetch true _ => r.denseSrcs c.off 0 ++ (LRec.ofBits c.lrec2).denseSrcs c.off 1024
  | _ => r.denseSrcs c.off 0

/-- How far a fill has come: the elements read, the first failure in the command's order, and its translations. -/
structure FillRun where
  got  : List FillElem
  bad  : Option (Nat × DWord)
  seen : List Page
  deriving DecidableEq, Repr

/-- A source taken now: the element, or the value of its fault (16 R273); an address of main memory is translated, and words that hold
an uncorrectable error are met (10 R192, R193). -/
def State.takeSrc (s : State) (g : Group) (c : Chart) (seen : List Page) : FillSrc → State × List Page × Except DWord FillElem
  | .read r a o =>
    let elem (v : List Byte × Bool) : FillElem := { ofs := o, bytes := v.1, poi := v.2 }
    if r.win then (s, seen, (g.engineRead c r a).map elem)
    else
      let q := s.translate g.launch g.die g.core seen a
      let s := q.1.meet a.toNat r.es
      (s, q.2, (s.mainRead q.2 r a).map elem)
  | .fill b o => (s, seen, .ok { ofs := o, bytes := b, poi := false })
  | .bad x _ => (s, seen, .error (x.setWidth 64))

/-- Source k of a fill taken, unless it has been, or a failure comes before it. -/
def State.fillOne (s : State) (g : Group) (c : Chart) (f : FillRun) (k : Nat) (q : FillSrc) : State × FillRun :=
  if f.got.any (fun e => e.ofs == q.ofs) || f.bad.any (fun b => decide (b.1 ≤ k)) then (s, f)
  else
    let r := s.takeSrc g c f.seen q
    (r.1, match r.2.2 with
      | .ok e => { f with got := f.got ++ [e], seen := r.2.1 }
      | .error a => { f with bad := some (k, a), seen := r.2.1 })

/-- Every source of a fill taken that has not been. -/
def State.fillRest (s : State) (g : Group) (c : Chart) (f : FillRun) (qs : List FillSrc) : State × FillRun :=
  qs.zipIdx.foldl (fun acc q => acc.1.fillOne g c acc.2 q.2 q.1) (s, f)

/-- Bytes of a command's image (16 R267, R268). -/
def Cmd.need (c : Cmd) : Nat :=
  let r := LRec.ofBits c.lrec
  match c.kind with
  | .gather | .scatter => c.idx.length * r.rowBytes
  | .fetch true _ => r.denseBytes + (LRec.ofBits c.lrec2).denseBytes
  | _ => r.denseBytes

/-- The records of a command, each with the elements that it moves. -/
def Cmd.moves (c : Cmd) : List (LRec × List (Int × Nat)) :=
  let r := LRec.ofBits c.lrec
  (r, c.map) :: (match c.kind with
    | .fetch true _ => let q := LRec.ofBits c.lrec2; [(q, q.drainMap c.off)]
    | _ => [])

/-- Main-memory bytes that a command moves (08 R157). -/
def Cmd.mainMoved (c : Cmd) : Nat := c.moves.foldl (fun n m => if m.1.win then n else n + m.2.length * m.1.es) 0

/-- The range entry of a command's reads of main memory: its lowest and highest byte (12 R225). -/
def Cmd.readRange (c : Cmd) : List ReadEntry :=
  let bs := c.moves.flatMap fun m => if m.1.win then [] else m.2.map fun e => (e.1.toNat, e.1.toNat + m.1.es - 1)
  match bs with
  | [] => []
  | b :: _ => [.range (bs.foldl (fun n x => min n x.1) b.1) (bs.foldl (fun n x => max n x.2) b.2)]

/-- The tag of a fill (16 R267, 17 R286). -/
def Cmd.tag (c : Cmd) : DWord :=
  let o : Nat × Nat := match c.kind with
    | .gather => (1, c.idx.length)
    | .fetch sc _ => (2, (if sc then 2 ^ 45 else 0) + (c.off % 2 ^ 45).toNat)
    | _ => (0, (c.off % 2 ^ 46).toNat)
  BitVec.ofNat 64 (c.r * 2 ^ 48 + o.1 * 2 ^ 46 + o.2)

/-- Bank conflicts of the batches that read window records: how the engine batches the addresses that it presents is not given
(10 R179, notes/assumptions/2.md), so at most one for each element beyond the first. -/
def Cmd.conflicts (c : Cmd) : Nat :=
  c.moves.foldl (fun n m => if m.1.win then n + min (Config.winBatchConf (m.2.map Prod.fst) m.1.es) (m.2.length - 1) else n) 0

/-! ### The queue -/

/-- The reads of a command in the set table of a speculative group (12 R225): one entry, at its first read; `none` where the table has
no entry for it (R226). -/
def State.noteCmd (s : State) (g : Group) (k : Cmd) : Option Group :=
  if !k.noted && s.isSpec g then g.noteReads (16384 - s.poolUsed g.die g.core) k.readRange else some g

/-- Entries of a core's command queue in use: fills that have not published and drains whose check runs (16 R262). To a frontier group
(`front`) a fill that stalls for the set table (12 R226) holds no entry (R230; notes/assumptions/60.md, DEDUCED). -/
def State.queueUsed (s : State) (die core : Nat) (front : Bool) : Nat :=
  (s.groups.filter fun g => (g.resident || g.status == .parked) && g.die == die && g.core == core).foldl (fun n g =>
    n + (g.cmds.filter fun c =>
      if c.kind.drain then ((g.handles[c.hdl]?).map Handle.chk).getD false else !(front && (s.noteCmd g c).isNone)).length) 0

/-- Whether the queue of a core has a free entry. -/
def State.queueFree (s : State) (die core : Nat) (front : Bool) : Bool := decide (s.queueUsed die core front < 32)

/-- Whether no other team of a group waits with a command that issued before this one's (16 R262). -/
def Group.firstTurn (g : Group) (t : Team) : Bool :=
  g.teams.all fun u => u.idx == t.idx || u.qturn.all fun k => t.qturn.any fun m => decide (m < k)

/-! ### Acceptance -/

namespace Ctx

/-- Whether a group commit that applies a handle's drain has begun: the commit begins once its waits are over, and takes the drain
out of the commands in the same step (16 R256, R269; 20 R324). -/
def drainBegun (x : Ctx) (h : BitVec 5) : Bool := !x.g.cmds.any fun c => c.kind.drain && c.hdl == h.toNat

/-- Whether the command of the team may enter the queue: an entry is free, and no command of the group that issued before waits. -/
def mayEnter (x : Ctx) : Bool := x.save.queueFree x.g.die x.g.core (x.c.ordered && !x.spec) && x.g.firstTurn x.t

/-- The team's command stands in line to be accepted, behind those of the group that do. -/
def inTurn (x : Ctx) : Ctx :=
  let next := x.g.teams.foldl (fun n u => max n (u.qturn.getD 0)) 0 + 1
  { x with t := { x.t with qturn := some (x.t.qturn.getD next) } }

/-- The instruction waits for the acceptance of its command: for an entry of the queue, its turn, or something else (16 R262). -/
def await (x : Ctx) (w : WaitOn) : Out := x.inTurn.block w

/-- The command accepted: its snapshot kept, the handle's state changed (16 R262, R265). -/
def accept (x : Ctx) (c : Cmd) (h : Handle) : Ctx :=
  { x with t := { x.t with qturn := none }, g := { x.g with cmds := x.g.cmds ++ [c], handles := x.g.handles.set c.hdl h } }

/-- A fill enters the queue: its queue entry, and its acceptance. -/
def fillEnter (x : Ctx) (c : Cmd) (h : Handle) : Except WaitOn Ctx :=
  if x.mayEnter then .ok (x.accept c h) else .error .queueEntry

/-- A drain enters the queue: its queue entry, and its commit-area entry or the fallback of 11 R207 (16 R268). -/
def drainEnter (x : Ctx) (c : Cmd) (h : Handle) : Except WaitOn Ctx :=
  if !x.mayEnter then .error .queueEntry
  else if x.g.areaUsed < x.c.areaCap then .ok (x.accept c h)
  else
    match x.areaFallback with
    | .error w => .error w
    | .ok y => .ok (y.accept c h)

/-- The size check and the state rule of a fill, and its acceptance (16 R265, steps 5 to 8; R256). -/
def fill (x : Ctx) (hdl : BitVec 5) (c : Cmd) (f : Ctx → Out) : Out :=
  let h := x.handle hdl
  if x.c.hsize < c.need then x.trap Cause.extent noLanes (dwordOf c.need)
  else match h.st with
  | .filling | .full => x.trap0 Cause.handleState
  | .draining => if x.drainBegun hdl then x.block (.handle hdl.toNat) else x.trap0 Cause.handleState
  | .free =>
    match x.fillEnter { c with slot := shadowSlot hdl.toNat h } { h with st := .filling, prior := .free } with
    | .error w => x.await w
    | .ok y => f y

/-- The same of a drain. -/
def drain (x : Ctx) (hdl : BitVec 5) (c : Cmd) (f : Ctx → Out) : Out :=
  let h := x.handle hdl
  if x.c.hsize < c.need then x.trap Cause.extent noLanes (dwordOf c.need)
  else match h.st with
  | .filling | .draining => x.trap0 Cause.handleState
  | .free | .full =>
    match x.drainEnter { c with slot := frontSlot hdl.toNat h } { h with st := .draining, chk := true } with
    | .error w => x.await w
    | .ok y => f y

/-- The checks of an engine instruction: FAULT and the record (16 R265, steps 2 and 3). -/
def onRecord (x : Ctx) (hdl : BitVec 5) (r : BitVec 16) (u : RecUse) (f : BitVec 512 → Out) : Out :=
  (x.handleFault hdl).getD
    (match (x.s.metRecords x.im [r.toNat]).recordFor x.im r.toNat u with
     | .error c => ({ x with s := x.s.metRecords x.im [r.toNat] } : Ctx).trap c noLanes (r.setWidth 64)
     | .ok b => f b)

/-- A command as it stands at acceptance, its slot apart. -/
def cmd (x : Ctx) (k : CmdKind) (hdl : BitVec 5) (r : BitVec 16) (b : BitVec 512) (off : Int) (idx : List Word) : Cmd :=
  { kind := k, hdl := hdl.toNat, r := r.toNat, lrec := b, lrec2 := 0#512, off := off, idx := idx, slot := 0, team := x.t.idx
    at_ := x.s.cycle }

/-- The indices of the participating lanes, or POISON_USE naming those that carry poison (16 R264, R266). -/
def indexed (x : Ctx) (h : Head) (v : BitVec 8) (f : List Word → Out) : Out :=
  let bad := (x.sel h).filter fun l => (x.v l v.toNat).poi
  if bad.isEmpty then f ((x.sel h).map fun l => (x.v l v.toNat).val) else x.trap Cause.poisonUse (laneSet bad) 0#64

end Ctx

/-- cpin (16 R264, R265, R267). -/
def execCpin (stall : BitVec 4) (hdl : BitVec 5) (r : BitVec 16) (b : SrcB) (s : State) : Out :=
  s.run fun x => x.onRecord hdl r .cpin fun bits =>
    let off := x.sB b
    if off.poi then x.trap0 Cause.poisonUse
    else x.fill hdl (x.cmd .cpin hdl r bits off.val.toInt []) fun y => (y.retire 16 stall).done

/-- cpout (16 R264, R265, R268). -/
def execCpout (stall : BitVec 4) (rop : Rop) (hdl : BitVec 5) (r : BitVec 16) (b : SrcB) (s : State) : Out :=
  s.run fun x => x.onRecord hdl r (.cpout (rop != .st)) fun bits =>
    let off := x.sB b
    if off.poi then x.trap0 Cause.poisonUse
    else x.drain hdl (x.cmd (.cpout rop) hdl r bits off.val.toInt []) fun y => (y.retire 16 stall).done

/-- gather (16 R264 to R267). -/
def execGather (h : Head) (hdl : BitVec 5) (r : BitVec 16) (v : BitVec 8) (s : State) : Out :=
  s.run fun x => x.onRecord hdl r .gather fun bits => x.indexed h v fun idx =>
    x.fill hdl (x.cmd .gather hdl r bits 0 idx) fun y => y.finish 16 h.stall (x.sel h) (x.guardFaults h)

/-- scatter (16 R264 to R266, R268). -/
def execScatter (h : Head) (hdl : BitVec 5) (r : BitVec 16) (v : BitVec 8) (s : State) : Out :=
  s.run fun x => x.onRecord hdl r .scatter fun bits => x.indexed h v fun idx =>
    x.drain hdl (x.cmd .scatter hdl r bits 0 idx) fun y => y.finish 16 h.stall (x.sel h) (x.guardFaults h)

/-! ### Handles as instructions see them -/

/-- The code of a state (16 R270), also its bit in SMASK (R264). -/
def HState.code : HState → Nat
  | .free => 0
  | .filling => 1
  | .full => 2
  | .draining => 3

/-- hwait (16 R269). -/
def execHwait (stall : BitVec 4) (hdl : BitVec 5) (smask : BitVec 4) (s : State) : Out :=
  s.run fun x =>
    (x.handleFault hdl).getD
      (let st := (x.handle hdl).st
       if smask.getLsbD st.code then (x.retire 8 stall).done
       else if st = .filling ∨ (st = .draining ∧ x.drainBegun hdl) then x.block (.handle hdl.toNat)
       else x.trap0 Cause.handleState)

/-- hrel (16 R256, R270). -/
def execHrel (stall : BitVec 4) (hdl : BitVec 5) (s : State) : Out :=
  s.run fun x =>
    (x.handleFault hdl).getD
      (let h := x.handle hdl
       match h.st with
       | .free => (x.retire 8 stall).done
       | .full => ((x.setHandle hdl { h with st := .free }).retire 8 stall).done
       | .filling | .draining => x.trap0 Cause.handleState)

/-- hstat.st (16 R270). -/
def execHstatSt (stall : BitVec 4) (d : BitVec 6) (hdl : BitVec 5) (s : State) : Out :=
  s.run fun x =>
    let h := x.handle hdl
    let v := (if h.chk then 8 else 0) + (if h.fault.isSome then 4 else 0) + h.st.code
    ((x.setS d (dwordOf v) false).retire 8 stall).done

/-- hstat.tag (16 R270). -/
def execHstatTag (stall : BitVec 4) (d : BitVec 6) (hdl : BitVec 5) (s : State) : Out :=
  s.run fun x => ((x.setS d (x.handle hdl).tag false).retire 8 stall).done

/-! ### Records written by programs -/

/-- lrset (16 R264, R271): its 64 bytes, one whole unit, are outstanding until they are performed. POISON_USE comes before BOUND
(notes/assumptions/76.md, DESIGN CHOICE). -/
def execLrset (stall : BitVec 4) (sx : BitVec 6) (b : SrcB) (s : State) : Out :=
  s.run fun x =>
    let r := x.sB b
    let vs := (List.range 8).map fun j => x.sc (sx.toNat + j)
    if r.poi || vs.any SReg.poi then x.trap0 Cause.poisonUse
    else if r.val.toInt < 0 ∨ (x.im.nrecs : Int) ≤ r.val.toInt then x.trap Cause.bound noLanes r.val
    else if x.spec then x.block .frontier
    else
      let w : LrWrite :=
        { g := x.g.gid, t := x.t.idx, a := x.im.recs + 64 * r.val.toNat, bs := vs.flatMap fun v => leBytes 8 v.val.toNat }
      (({ x with s := { x.s with lrq := x.s.lrq ++ [w] } } : Ctx).retire 8 stall).done

/-- lfence (16 R272): it waits until every earlier lrset of the team has been performed. -/
def execLfence (stall : BitVec 4) (s : State) : Out :=
  s.run fun x => if x.s.lrq.any fun w => w.g == x.g.gid && w.t == x.t.idx then x.block .lrset else (x.retire 8 stall).done

end Sys2Proof.Machine
end

