-- ==== Sys2Proof/Machine/Matrix.lean ====
section
/-!
DEFINITION. The matrix engine's instructions (17 R280 to R299): votes, the operand fetcher's loop, the reuse latch, sparse steps, tile
instructions, and the ramp.
-/
namespace Sys2Proof.Machine

/-- Whether a slot's matrix quarters are idle at a cycle of its clock (17 R299): 32 cycles without a pass, and no mburst's hold in force
that kept them from going idle: one that began before they would have, or while they were not idle. -/
def State.quartersIdle (s : State) (k clk : Nat) : Bool :=
  match (s.slotOf k).matLast with
  | none => true
  | some m =>
    decide (m + 32 ≤ clk) && !s.groups.any fun g => g.status == .running && g.teams.any fun t =>
      t.phase == .running && slotKey g.die g.core t.slot == k && t.burst.any fun b => decide (clk < b.since + 4096 ∧ (b.since < m + 32 ∨ t.mburstAt = none))

namespace Ctx

/-! ### The votes -/

/-- The offset that a lane holds: 0 in the tile form. -/
def matOfs (x : Ctx) (o : MmaOp) (l : Nat) : Nat :=
  match o.b with
  | .handle _ vo => (x.v l vo.toNat).val.toNat
  | .tile _ _ _ => 0

/-- The format word that a lane passes. -/
def matWord (x : Ctx) (o : MmaOp) (l : Nat) : VReg := x.v l o.f.toNat

/-- Lanes whose neighbours of one key differ in a value. -/
def divergent (lanes : List Nat) (key : Nat → Nat × Nat) (val : Nat → Nat) : List Nat :=
  lanes.filter fun l => lanes.any fun m => key m == key l && val m != val l

/-- The key of a fused set: the pass, and the B named. -/
def setKey (x : Ctx) (o : MmaOp) (l : Nat) : Nat × Nat := (l / 32, x.matOfs o l)

/-- The fused sets of the participating lanes (17 R281), the votes having passed. -/
def fusedSets (x : Ctx) (o : MmaOp) (lanes : List Nat) : List FusedSet :=
  (lanes.map (x.setKey o)).eraseDups.map fun k =>
    let ls := lanes.filter fun l => x.setKey o l == k
    { lanes := ls, ofs := k.2, word := (x.matWord o ((ls.head?).getD 0)).val }

/-- Lanes whose operands carry poison (17 R284 step 1): vF, vO, and those that `extra` names; all of them for a scalar. -/
def matPoison (x : Ctx) (o : MmaOp) (lanes : List Nat) (extra : Nat → Bool) (scl : Bool) : List Nat :=
  let s := scl || (match o.b with
    | .tile _ _ st => (x.sc st.toNat).poi
    | .handle _ _ => false)
  lanes.filter fun l => s || (x.matWord o l).poi || extra l || (match o.b with
    | .handle _ vo => (x.v l vo.toNat).poi
    | .tile _ _ _ => false)

/-- Lanes of the sets that fail a test. -/
def badSets (sets : List FusedSet) (p : FusedSet → Bool) : List Nat := (sets.filter p).flatMap FusedSet.lanes

/-- The least lane of a list. -/
def leastLane (ls : List Nat) : Nat := ls.foldl min 1024

/-! ### The operand fetcher -/

/-- Step 5 of 17 R284 in the tile form: the bytes that the image needs. -/
def tileNeed (sc : Bool) : Nat := if sc then 1088 else 1024

/-- The records of a tile met (10 R193). -/
def metTile (x : Ctx) (r : BitVec 16) (sc : Bool) : Ctx :=
  { x with s := x.s.metRecords x.im (if sc then [r.toNat, r.toNat + 1] else [r.toNat]) }

/-- Step 6 of 17 R284: the records r and, with scale bytes, r+1 pass 16 R260; then their sizes. -/
def tileRecords (x : Ctx) (r : BitVec 16) (cls : List Nat) (sc : Bool) : Except (Cause × DWord) (BitVec 512 × BitVec 512) :=
  let a : DWord := r.setWidth 64
  match x.s.recordFor x.im r.toNat .cpin, if sc then x.s.recordFor x.im (r.toNat + 1) .cpin else .ok 0#512 with
  | .error c, _ => .error (c, a)
  | .ok _, .error c => .error (c, a + 1#64)
  | .ok b, .ok b2 =>
    let q := LRec.ofBits b
    let q2 := LRec.ofBits b2
    if q.denseBytes ≠ 1024 || cls.any (fun k => q.esz != (if k = 0 then 4 else k - 1)) then .error (Cause.copyFault, a)
    else if sc && (q2.esz ≠ 0 || q2.denseBytes ≠ 64) then .error (Cause.copyFault, a + 1#64)
    else .ok (b, b2)

/-- Whether a front's tag serves an mma (17 R286). -/
def tagServes (tag : DWord) (r : BitVec 16) (t : DWord) (sc : Bool) : Bool :=
  tag.extractLsb' 48 16 == r && tag.extractLsb' 46 2 == 2#2 && tag.extractLsb' 0 45 == t.extractLsb' 0 45 && (tag.getLsbD 45 || !sc)

/-- FetchFill started (17 R286): accepted as a fill of the shadow, FRONT and TAG kept, the state before it kept too. -/
def fetchStart (x : Ctx) (h : BitVec 5) (r : BitVec 16) (t : DWord) (sc pre : Bool) (recs : BitVec 512 × BitVec 512) :
    Except WaitOn Ctx :=
  let v := x.handle h
  let c := x.cmd (.fetch sc pre) h r recs.1 (t.toNat : Int) []
  x.fillEnter { c with lrec2 := recs.2, slot := shadowSlot h.toNat v } { v with st := .filling, prior := v.st }

/-- The fetcher's loop (17 R286): B stands in the front, or the instruction waits or traps. -/
def fetchTile (x : Ctx) (h : BitVec 5) (r : BitVec 16) (t : DWord) (sc : Bool) (recs : BitVec 512 × BitVec 512) (f : Out) : Out :=
  let v := x.handle h
  if tagServes v.tag r t sc && (v.st == .full || v.st == .filling) then f
  else match v.st with
  | .filling => x.block (.fetch h.toNat)
  | .draining => x.trap0 Cause.handleState
  | .free | .full =>
    match x.fetchStart h r t sc false recs with
    | .error _ => x.inTurn.block (.fetch h.toNat)
    | .ok y => y.block (.fetch h.toNat)

/-- Step 7 in the handle form (17 R285): the handle as it stands when the instruction issues. -/
def frontReady (x : Ctx) (h : BitVec 5) (f : Out) : Out :=
  match (x.handle h).st with
  | .filling => x.block (.front h.toNat)
  | .free => x.trap0 Cause.handleState
  | .full | .draining => f

/-- Steps 4 to 7 of 17 R284. -/
def operandB (x : Ctx) (o : MmaOp) (sets : List FusedSet) (f : Out) : Out :=
  match o.b with
  | .handle h _ =>
    let misaligned := badSets sets fun s => s.ofs % 64 != 0
    let outside := badSets sets fun s => decide (x.c.hsize < s.ofs + s.need)
    if !misaligned.isEmpty then x.trap Cause.align (laneSet misaligned) (dwordOf (x.matOfs o (leastLane misaligned)))
    else if !outside.isEmpty then x.trap Cause.extent (laneSet outside) (dwordOf (x.matOfs o (leastLane outside)))
    else x.frontReady h f
  | .tile h r st =>
    let sc := sets.any fun s => s.fw.bty == .q4
    if x.c.hsize < tileNeed sc then x.trap Cause.extent noLanes (dwordOf (tileNeed sc))
    else
      let x := x.metTile r sc
      match x.tileRecords r (sets.map fun s => s.fw.cls) sc with
    | .error e => x.trap e.1 noLanes e.2
    | .ok recs => x.fetchTile h r (x.sc st.toNat).val sc recs f

/-! ### Accumulation -/

/-- The A registers of a lane: from the latch where it gives A, otherwise from the registers (17 R290). -/
def matA (x : Ctx) (o : MmaOp) (run l : Nat) : List VReg :=
  if o.reuse && x.t.latch.lv then (List.range 9).map fun j => Store.get { val := 0#32, poi := false } x.t.latch.regs (l * 16 + j)
  else (List.range 9).map fun j => if j < run then x.v l (o.a.toNat + j) else { val := 0#32, poi := false }

/-- The latch after the instruction (17 R290): the registers of every lane as they stand at issue. -/
def latched (x : Ctx) (o : MmaOp) (run : Nat) : Latch :=
  if !o.reuse then { lv := false, regs := [] }
  else if x.t.latch.lv then x.t.latch
  else
    { lv := true
      regs := (List.range x.w).foldl (fun m l => (List.range 9).foldl (fun m j =>
        Store.put { val := 0#32, poi := false } m (l * 16 + j)
          (if j < run then x.v l (o.a.toNat + j) else { val := 0#32, poi := false })) m) [] }

/-! ### The quarters and their ramp -/

/-- The passes of the instruction (17 R289): for each, the quarters of its participating octets, and the cycles that it keeps them,
`n` being those of a fused set (at least one cycle: notes/assumptions/55.md, DEDUCED). -/
def matPasses (x : Ctx) (lanes : List Nat) (sets : List FusedSet) (n : FusedSet → Nat) : List (List Nat × Nat) :=
  (List.range x.passes).map fun p =>
    let here (ls : List Nat) : List Nat := ls.filter fun l => x.pass l == p
    ((octets (here lanes)).map (· % 4), max 1 ((sets.filter fun s => !(here s.lanes).isEmpty).foldl (fun b s => b + n s) 0))

/-- The cycles at which passes start from a cycle on, each once its quarters are free, and the cycles from which the quarters are
free then. -/
def matSchedule (free : List Nat) (t : Nat) : List (List Nat × Nat) → List Nat × List Nat
  | [] => ([], free)
  | p :: ps =>
    let st := p.1.foldl (fun m q => max m (nth free q)) t
    let r := matSchedule (p.1.foldl (fun f q => f.set q (st + p.2)) free) (st + 1) ps
    (st :: r.1, r.2)

/-- The cycle from which a first matrix pass may start as far as the ramp goes (17 R299): an idle slot ramps up for 32 cycles, from
the team's last mburst on where that issued while the slot was idle (notes/assumptions/55.md, DEDUCED). -/
def rampEnd (x : Ctx) : Nat :=
  if !x.s.quartersIdle x.slot x.t.t0 then x.t.t0
  else if x.t.wait == some .quarter then x.t.ramp.getD x.t.t0
  else match x.t.mburstAt with
  | some m => max x.t.t0 (m + 32)
  | none => x.t.t0 + 32

/-- The cycle at which the instruction may issue: its first pass that has a participating lane waits for its quarters and the ramp. -/
def matStart (x : Ctx) (ps : List (List Nat × Nat)) : Nat :=
  let k := ps.findIdx fun p => !p.1.isEmpty
  let st := ((ps[k]?).map Prod.fst).getD [] |>.foldl (fun m q => max m (nth (x.s.slotOf x.slot).matFree q)) x.rampEnd
  max x.t.t0 (st - k)

/-- The instruction waits for the quarters and the ramp (17 R289, R299); every check is made again when it issues. -/
def matReady (x : Ctx) (ps : List (List Nat × Nat)) (f : Out) : Out :=
  let st := x.matStart ps
  if st ≤ x.t.t0 then f
  else block { x with t := { x.t with earliest := max x.t.earliest st, ramp := some x.rampEnd } } .quarter

/-- A hold of mburst counted down by an mma or mmas that issues (17 R299). -/
def burstDown (x : Ctx) : Ctx :=
  { x with t := { x.t with
    burst := x.t.burst.bind fun b => if b.left ≤ 1 then none else some { b with left := b.left - 1 } } }

/-- The quarters taken. -/
def matTaken (x : Ctx) (free : List Nat) : Ctx :=
  let sl := x.s.slotOf x.slot
  { x with
    s := x.s.setSlot x.slot { sl with matLast := some (free.foldl max 0), matFree := free }
    t := { x.t with ramp := none } }

/-! ### mma and mmas -/

/-- The context as a pass that starts at a cycle reads the registers of a lane of it. -/
def passing (x : Ctx) (starts : List Nat) (l : Nat) : Ctx :=
  { x with t := { x.t with t0 := nth starts (x.pass l) x.t.t0 - x.pass l } }

/-- What an instruction is apart from its operands: the steps k of a lane, the cycles of a fused set (17 R289), whether steps of
it stay for a later issue, and what its end does to the team. -/
structure MatWork where
  steps  : Ctx → FWord → Nat → List Nat
  cycles : FusedSet → Nat
  more   : List FusedSet → Bool
  ends   : Team → Team

/-- An instruction as it stands outstanding: the registers and the steps of its lanes as its passes read them. -/
def matReq (x : Ctx) (o : MmaOp) (w : MatWork) (sets : List FusedSet) (front : Nat) (at_ : Nat → Ctx) (run : Nat) : MatReq :=
  { tile := o.tile, slot := front, base := front * x.c.hsize, sets := sets.map fun s => (s.lanes, s.ofs, s.word, s.need)
    regs := sets.flatMap fun s => s.lanes.map fun l => (l, (at_ l).matA o run l)
    ks := sets.flatMap fun s => s.lanes.map fun l => (l, w.steps (at_ l) s.fw l) }

/-- The products of an instruction whose checks have passed, made now, or left to be made (17 R288), and its end; or its stop between
two steps, at which the pre-emption asked for falls (17 R291). -/
def multiply (x : Ctx) (o : MmaOp) (w : MatWork) (lanes : List Nat) (sets : List FusedSet) (front : Nat) : Out :=
  let ps := x.matPasses lanes sets w.cycles
  let sch := matSchedule (x.s.slotOf x.slot).matFree x.t.t0 ps
  let span := (sch.1.getLast?).getD x.t.t0 + 1 - x.t.t0
  let run := sets.foldl (fun n s => max n s.fw.aRun) 8
  let at_ (l : Nat) : Ctx := x.passing sch.1 l
  let y :=
    if x.t.late then { x with t := { x.t with mats := x.t.mats ++ [x.matReq o w sets front at_ run] } }
    else sets.foldl (fun y s => y.matSet x.slotByte o.tile (front * x.c.hsize) (fun l => (at_ l).matA o run l)
      (fun f l => w.steps (at_ l) f l) s) x.matsDone
  let y := ({ y with t := { y.t with latch := x.latched o run } } : Ctx).matTaken sch.2
  if w.more sets then
    let z := y.issued span 0
    let z := { z with t := { w.ends z.t with retry := x.t.retry } }
    .next (z.save.preemptGroup x.g.gid)
  else ({ y with t := w.ends y.t } : Ctx).burstDown.finishIn span 16 o.h.stall lanes (x.guardFaults o.h)

/-- The common part of mma and mmas: FAULT, the checks of 17 R284 in order, and the products. -/
def matrix (x : Ctx) (o : MmaOp) (extra : Nat → Bool) (scl : Bool) (w : MatWork) : Out :=
  let lanes := x.sel o.h
  let h := o.b.hdl
  (x.handleFault h).getD
    (if lanes.isEmpty then ({ x with t := w.ends x.t } : Ctx).burstDown.finish 16 o.h.stall lanes (x.guardFaults o.h)
     else
       let poisoned := x.matPoison o lanes extra scl
       let split := divergent lanes (fun l => (l / 8, 0)) (x.matOfs o)
       let voted := divergent lanes (x.setKey o) fun l => (x.matWord o l).val.toNat
       let sets := x.fusedSets o lanes
       let reserved := badSets sets fun s => (FWord.of s.word).all fun f => !x.holds o.a.toNat f.aRun
       let wide (ls : List Nat) (by8 : Bool) : LaneSet :=
         laneSet (lanes.filter fun l => ls.any fun m => if by8 then m / 8 == l / 8 else x.setKey o m == x.setKey o l)
       if !poisoned.isEmpty then x.trap Cause.poisonUse (laneSet poisoned) 0#64
       else if !split.isEmpty then x.trap Cause.formatDivergence (wide split true) 0#64
       else if !voted.isEmpty then x.trap Cause.formatDivergence (wide voted false) 0#64
       else if !reserved.isEmpty then x.trap Cause.reservedField (laneSet reserved) 0#64
       else
         x.operandB o sets
           (x.matReady (x.matPasses lanes sets w.cycles) (x.multiply o w lanes sets (frontSlot h.toNat (x.handle h)))))

end Ctx

/-- mma (17 R282 to R290). -/
def execMma (o : MmaOp) (s : State) : Out :=
  s.run fun x => x.matrix o (fun _ => false) false
    { steps := fun _ f _ => List.range (matK f.cls), cycles := fun _ => 4, more := fun _ => false, ends := id }

namespace Ctx

/-- A lane's A mask: the pair vM (17 R291). -/
def aMask (x : Ctx) (vm : BitVec 8) (l : Nat) : SReg := x.v64 l vm.toNat

/-- Ks from STEP on (17 R291). -/
def sparseSteps (x : Ctx) (o : MmaOp) (vm : BitVec 8) (sm : BitVec 6) (cls : Nat) : List Nat :=
  ((List.range (matK cls)).filter fun k =>
    (x.sc sm.toNat).val.getLsbD k && (x.sel o.h).any fun l => (x.aMask vm l).val.getLsbD k).drop x.t.step

/-- The steps that an mmas makes now: all of Ks from STEP on, or as many as come before a point at which pre-emption may fall. -/
def stepsNow (x : Ctx) (o : MmaOp) (vm : BitVec 8) (sm : BitVec 6) (cls : Nat) : List Nat :=
  let ks := x.sparseSteps o vm sm cls
  match x.t.quota with
  | none => ks
  | some n => ks.take n

/-- The work of an mmas (17 R289, R291, R292). -/
def sparseWork (x : Ctx) (o : MmaOp) (vm : BitVec 8) (sm : BitVec 6) : MatWork :=
  let more := fun (sets : List FusedSet) => sets.any fun s =>
    decide ((x.stepsNow o vm sm s.fw.cls).length < (x.sparseSteps o vm sm s.fw.cls).length)
  { steps := fun y f l => (x.stepsNow o vm sm f.cls).filter fun k => (y.aMask vm l).val.getLsbD k
    cycles := fun s => (4 * (x.stepsNow o vm sm s.fw.cls).length + matK s.fw.cls - 1) / matK s.fw.cls
    more := more
    ends := fun t => { t with step := if more (x.fusedSets o (x.sel o.h)) then x.t.step + x.t.quota.getD 0 else 0 } }

end Ctx

/-- mmas (17 R284, R291, R292). -/
def execMmas (o : MmaOp) (vm : BitVec 8) (sm : BitVec 6) (s : State) : Out :=
  s.run fun x => x.matrix o (fun l => (x.aMask vm l).poi) (x.sc sm.toNat).poi (x.sparseWork o vm sm)

/-! ### Tile instructions -/

/-- mzero (17 R293). -/
def execMzero (h : Head) (tile : BitVec 4) (anchor : Option (BitVec 8)) (s : State) : Out :=
  s.run fun x =>
    let y := (Ctx.octets (x.sel h)).foldl (fun y oct => y.onTile oct tile fun t =>
      match anchor with
      | none => { t with acc := [], conv := 0#2, pend := true }
      | some a => { t with acc := [], conv := 0#2, pend := false, anc := a.toInt }) x.matsDone
    y.finish 8 h.stall (x.sel h) (x.guardFaults h)

namespace Ctx

/-- An accumulator from four registers (17 R294, 04 R83). -/
def loadAcc (x : Ctx) (l r : Nat) : Acc × Word :=
  let vs := (List.range 4).map fun j => x.v l (r + j)
  let v := vs.foldr (fun q n => (q.val.toNat : Int) + 2 ^ 32 * n) 0
  let c := accClamp (if 2 ^ 127 ≤ v then v - 2 ^ 128 else v)
  ({ v := c.1, pz := vs.any VReg.poi }, c.2)

/-- A lane of mload. -/
def mloadLane (x : Ctx) (y : Ctx) (tile : BitVec 4) (vs : BitVec 8) (g : BitVec 2) (l : Nat) : Ctx :=
  (List.range 8).foldl (fun y j =>
    let a := x.loadAcc l (vs.toNat + 4 * j)
    (y.onTile (l / 8) tile fun t => t.put (l % 8) (8 * g.toNat + j) a.1).addFlags a.2) y

/-- A lane's accumulators of a column group read out: words, poison and flags (17 R295). -/
def readGroup (x : Ctx) (tile : BitVec 4) (cv : Cv) (g : BitVec 2) (l : Nat) : List (List Word × Bool) × Word :=
  let t := x.t.tile (l / 8) tile.toNat
  let rs := (List.range 8).map fun j =>
    let a := t.at (l % 8) (8 * g.toNat + j)
    (accOut cv a.v t.anc, a.pz)
  (rs.map fun r => (r.1.1, r.2), orFlags (rs.map fun r => r.1.2))

/-- The conversion in a lane: .fw takes the CONV of its octet's tile (17 R295). -/
def laneCv (x : Ctx) (tile : BitVec 4) (cv : Cv) (l : Nat) : Cv :=
  if cv = .fw then Cv.ofConv (x.t.tile (l / 8) tile.toNat).conv else cv

end Ctx

/-- mload (17 R294). -/
def execMload (h : Head) (tile : BitVec 4) (vs : BitVec 8) (g : BitVec 2) (anchor : BitVec 8) (s : State) : Out :=
  s.run fun x =>
    let y := (x.sel h).foldl (fun y l => x.mloadLane y tile vs g l) x.matsDone
    let y := (Ctx.octets (x.sel h)).foldl (fun y oct => y.onTile oct tile fun t => { t with anc := anchor.toInt, pend := false }) y
    y.finish 16 h.stall (x.sel h) (x.guardFaults h)

/-- mread (17 R283, R295, R297): the results are written at once, as an interlocked result is seen. -/
def execMread (h : Head) (d : BitVec 8) (tile : BitVec 4) (cv : Cv) (g : BitVec 2) (s : State) : Out :=
  s.run fun q =>
    let x := q.matsDone
    let lanes := x.sel h
    let long := lanes.filter fun l => !x.holds d.toNat (x.laneCv tile cv l).regs
    if !long.isEmpty then x.trap Cause.reservedField (laneSet long) 0#64
    else
      let rs := lanes.map fun l => (l, x.readGroup tile (x.laneCv tile cv l) g l)
      let ws := rs.flatMap fun r =>
        let vals := r.2.1.flatMap fun a => a.1.map fun v => ({ val := v, poi := a.2 } : VReg)
        (List.range vals.length).map fun j => RegWrite.v r.1 (d.toNat + j) ((vals[j]?).getD { val := 0#32, poi := false })
      ((x.emit 0 ws).addFlags (orFlags (rs.map fun r => r.2.2))).finish 8 h.stall lanes (x.guardFaults h)

/-- The entries of bytes written from an address on, a granule each. -/
def storeEntries (sp : Space) (a : Nat) (bs : List Byte) : List Entry :=
  let first := a / 64
  let last := (a + bs.length - 1) / 64
  (List.range (last + 1 - first)).map fun i =>
    let lo := max a ((first + i) * 64)
    let hi := min (a + bs.length) ((first + i + 1) * 64)
    storeEntry sp lo ((bs.drop (lo - a)).take (hi - lo))

/-- mstore (17 R296): checks per lane, then a window store. -/
def execMstore (h : Head) (a off : BitVec 8) (tile : BitVec 4) (cv : Cv) (g : BitVec 2) (s : State) : Out :=
  s.run fun q =>
    let x := q.matsDone
    let z (l : Nat) : Nat := (x.laneCv tile cv l).bytes
    let out (l : Nat) := x.readGroup tile (x.laneCv tile cv l) g l
    let check (l : Nat) : Except Ctx.LaneFault Nat :=
      let b := x.v l a.toNat
      let e : Int := (b.val.toNat : Int) + 16 * off.toInt
      let addr : DWord := BitVec.ofInt 64 e
      if b.poi then .error (l, Cause.poisonUse, b.val.setWidth 64)
      else if e % 16 ≠ 0 then .error (l, Cause.align, addr)
      else if ¬(0 ≤ e ∧ e + z l ≤ (x.c.winSize x.g : Int)) then .error (l, Cause.extent, addr)
      else if (out l).1.any fun r => r.2 then .error (l, Cause.poisonUse, addr)
      else .ok e.toNat
    let r := x.checks h check
    let data (l : Nat) : List Byte := (out l).1.flatMap fun q => (q.1.flatMap wordBytes).take (z l / 8)
    x.afterTeam .win (r.1.map fun p => (p.1, p.2, z p.1))
      (match x.bufPuts (r.1.flatMap fun p => storeEntries .win p.2 (data p.1)) with
       | .error w => x.block w
       | .ok y =>
         let y := (y.addConf (r.1.map fun p => (p.1, wordsOf p.2 (z p.1))) bank128).addFlags (orFlags (r.1.map fun p => (out p.1).2))
         y.finish 8 h.stall (x.sel h) r.2)

/-! ### mburst and the step counter -/

/-- mburst (17 R299): a hold begun or ended, and on an idle slot the ramp. -/
def execMburst (stall : BitVec 4) (b : SrcB) (s : State) : Out :=
  s.run fun x =>
    let n := x.sB b
    if n.poi then x.trap0 Cause.poisonUse
    else
      let idle := x.s.quartersIdle x.slot x.t.t0
      let hold : Option Burst := if n.val = 0#64 then none else some { left := min n.val.toNat 65535, since := x.t.t0 }
      (({ x with t := { x.t with
        burst := hold, mburstAt := if n.val ≠ 0#64 ∧ idle = true then some x.t.t0 else none } } : Ctx).retire 8 stall).done

/-- mstep.get (17 R292). -/
def execMstepGet (stall : BitVec 4) (d : BitVec 6) (s : State) : Out :=
  s.run fun x => ((x.setS d (dwordOf x.t.step) false).retire 8 stall).done

/-- mstep.set (17 R292). -/
def execMstepSet (stall : BitVec 4) (b : SrcB) (s : State) : Out :=
  s.run fun x =>
    let n := x.sB b
    if n.poi then x.trap0 Cause.poisonUse
    else if 64 < n.val.toNat then x.trap Cause.bound noLanes n.val
    else (({ x with t := { x.t with step := n.val.toNat } } : Ctx).retire 8 stall).done

end Sys2Proof.Machine
end

