-- ==== Sys2Proof/Machine/Order.lean ====
section
/-!
DEFINITION. The issue choice of 07 R143: which teams are ready, their tiers, and the team that issues next by default
(notes/assumptions/1.md).
-/
namespace Sys2Proof.Machine

/-- A team that may issue, as the choice of its slot sees it: its group and index, its launch, its key, its position; the first
cycle at which it may issue, on its slot's clock and on the reference clock; its tier (07 R143). -/
structure Cand where
  g     : Nat
  t     : Nat
  l     : Nat
  key   : Key
  pos   : Nat
  slot  : Nat
  clk   : Nat
  start : Nat
  promo : Option Nat
  front : Bool
  prio  : Nat
  deriving DecidableEq, Repr

/-- A team as a candidate. -/
def State.cand (s : State) (g : Group) (t : Team) : Cand :=
  let k := slotKey g.die g.core t.slot
  let l := s.launch? g.launch
  { g := g.gid, t := t.idx, l := g.launch, key := g.key, pos := t.pos, slot := k, clk := issueAt s g t
    start := (s.slotOf k).refOf (issueAt s g t), promo := t.promoted
    front := ((l.bind fun l => s.chartOf l g).map Chart.ordered).getD false &&
      ((l.bind fun l => l.front[g.die]?).getD Key.none) == g.key
    prio := ((l.bind fun l => (s.image? l.image).bind fun im => im.charts[l.chart]?).map Chart.prio).getD 0 }

/-- Those of a list that a measure puts first. -/
def least {α : Type} (f : α → Nat) (xs : List α) : List α := xs.filter fun x => xs.all fun y => decide (f x ≤ f y)

/-- The choice among the candidates of one slot (07 R143): promoted teams, oldest promotion first; frontier teams; the highest
priority class; within one launch the least key; then the round robin of the tier, `last` being the positions that issued last. -/
def choose (last : List Nat) (cs : List Cand) : Option Cand :=
  let turn (k : Nat) (c : Cand) : Nat := (c.pos + 31 - nth last k 15) % 16
  let ps := cs.filter fun c => c.promo.isSome
  if ps.isEmpty then
    let fs := cs.filter Cand.front
    let cs := least (fun c => 3 - min 3 c.prio) (if fs.isEmpty then cs else fs)
    let cs := cs.filter fun c => cs.all fun d => d.l != c.l || decide (c.key.toNat ≤ d.key.toNat)
    let k (c : Cand) : Nat := if fs.isEmpty then 5 - min 3 c.prio else 1
    (least (fun c => turn (k c) c) cs).head?
  else (least (turn 0) (least (fun c => c.promo.getD 0) ps)).head?

/-- Whether a team's instruction is to be tried: it is ready to issue (07 R143), or would wait for something else than before. -/
def State.ready (s : State) (g : Group) (t : Team) : Bool :=
  s.canIssue g.gid t.idx && (t.readySince.isSome || t.wait == some .again)

/-- The teams whose instructions are to be tried. -/
def State.cands (s : State) : List Cand :=
  s.groups.flatMap fun g => (g.teams.filter fun t => s.ready g t).map fun t => s.cand g t

/-- What the slots choose among candidates: each among those that may issue first (07 R143). -/
def State.chosen (s : State) (all : List Cand) : List Cand :=
  (all.map Cand.slot).eraseDups.filterMap fun k => choose (s.slotOf k).last (least Cand.clk (all.filter fun c => c.slot == k))

/-- The team that issues next by default: of the slots' choices the earliest goes, the lowest group and team of a cycle first (08 R166,
R170, 11 R200). -/
def State.nextTeam (s : State) : Option (Nat × Nat) :=
  ((least Cand.t (least Cand.g (least Cand.start (s.chosen s.cands)))).head?).map fun c => (c.g, c.t)

/-- Whether a team is the one that its slot chooses among the teams that are ready, no slot's choice issuing before it (07 R143): a ready
team of any slot issues in the first cycle that is free for it. -/
def State.contends (s : State) (gi ti : Nat) : Bool :=
  match s.group? gi with
  | none => false
  | some g =>
    match g.team? ti with
    | none => false
    | some t =>
      let rest := s.groups.flatMap fun h =>
        (h.teams.filter fun u => !(h.gid == gi && u.idx == ti) && u.readySince.isSome && s.ready h u).map fun u => s.cand h u
      (least Cand.start (s.chosen (s.cand g t :: rest))).any fun c => c.g == gi && c.t == ti

end Sys2Proof.Machine
end

