-- ==== Sys2Proof/Machine/System.lean ====
section
/-!
DEFINITION. System instructions (05 R110 to R112, 07 R140 to R142, 20 R315, 22 R358), unassigned opcodes (02 R39).
-/
namespace Sys2Proof.Machine

/-! ### Traps and the way back -/

/-- trap (05 R110). Its STALL stands in the word of the issue (`Ctx.trapping`). -/
def execTrap (_stall : BitVec 4) (n : BitVec 4) (s : State) : Out :=
  s.run fun x => x.trap (0x10#8 + n.setWidth 8) (laneSet x.lanes) 0#64

namespace Ctx

/-- Size of the instruction at an address, by its FORM (02 R33): that of FORM 11, which R33 does not give, is taken as one word
(notes/assumptions/45.md, DESIGN CHOICE). -/
def sizeAt (x : Ctx) (pc : DWord) : Nat :=
  let form := wordForm (x.im.word pc)
  if form = 1#2 ∨ form = 2#2 then 16 else 8

end Ctx

/-- tret.after (05 R112). -/
def execTretAfter (stall : BitVec 4) (s : State) : Out :=
  s.run fun x => x.tret stall (x.t.frame.pc + dwordOf (x.sizeAt x.t.frame.pc)) none

/-- tret.retry (05 R112). -/
def execTretRetry (stall : BitVec 4) (s : State) : Out :=
  s.run fun x => x.tret stall x.t.frame.pc (if x.t.frame.perLane then some x.t.frame.lanes else none)

/-- An unassigned opcode (02 R39). -/
def execUnassignedOpcode (_w : DWord) (s : State) : Out := s.run fun x => x.trap0 Cause.illegalOpcode

/-! ### Reading the device -/

/-- cycle (05 R110, 01 R15). -/
def execCycle (stall : BitVec 4) (d : BitVec 6) (s : State) : Out :=
  s.run fun x => ((x.setS d (dwordOf x.s.cycle) false).retire 8 stall).done

/-- chkset (05 R110). -/
def execChkset (stall : BitVec 4) (n : Bool) (s : State) : Out :=
  s.run fun x =>
    let tctl := (x.t.tctl &&& 0xFFFFFFF7#32) ||| (if n then 8#32 else 0#32)
    (({ x with t := { x.t with tctl := tctl } } : Ctx).retire 8 stall).done

/-- A feature value (22 R358). -/
def featValue (n : Nat) : Nat :=
  match n with
  | 0 => 1
  | 1 => 0x3FF
  | 2 => 1024
  | 3 => 256
  | 4 => 65536
  | 5 => 3145728
  | 6 => 32
  | 7 => 64
  | 8 => 1048576
  | 9 => 1024
  | 10 => 40
  | 11 => 4
  | 12 => 64
  | 13 => 4
  | _ => 0

/-- featq (22 R358). -/
def execFeatq (stall : BitVec 4) (d : BitVec 6) (b : SrcB) (s : State) : Out :=
  s.run fun x =>
    let n := x.sB b
    if n.poi then x.trap0 Cause.poisonUse
    else ((x.setS d (dwordOf (featValue n.val.toNat)) false).retire 8 stall).done

/-! ### Registers per lane -/

/-- Registers from n on discarded. -/
def Team.dropFrom (t : Team) (n : Nat) : Team := { t with v := t.v.filter fun e => decide (e.1 % 256 < n) }

namespace Ctx

/-- The bounds of vgrow and vshrink (07 R140). -/
def countBad (x : Ctx) (grow : Bool) (n : Int) : Bool :=
  decide (n < 1) || decide (256 < n) || decide (262144 < (x.w : Int) * n * 4) || decide (n < (x.c.ckpt : Int)) ||
  (if grow then decide (n < (x.t.nregs : Int)) else decide ((x.t.nregs : Int) < n))

/-- Register counts of the group's live teams, this one at n (07 R142). -/
def countsWith (x : Ctx) (n : Nat) : List Nat :=
  (x.g.teams.filter fun t => t.phase != .ended).map fun t => if t.idx = x.t.idx then n else t.nregs

/-- The waits of vgrow and vshrink, and their checks (07 R140, R141). -/
def resizing (x : Ctx) (grow : Bool) (b : SrcB) (f : Nat → Out) : Out :=
  if x.t.pending x.t.t0 then x.block .result
  else if !x.t.loads.isEmpty then x.block .load
  else
    let n := x.sB b
    if n.poi then x.trap0 Cause.poisonUse
    else if x.countBad grow n.val.toInt then x.trap Cause.bound noLanes n.val
    else f n.val.toNat

end Ctx

/-- vshrink (07 R140, R141): an atomic that is to write a register waits first (13 R244). -/
def execVshrink (stall : BitVec 4) (b : SrcB) (s : State) : Out :=
  s.run fun x => x.resizing false b fun n =>
    if x.t.atomsInto ((List.range (x.t.nregs - n)).map fun j => .v (n + j)) then x.block .atomic
    else (({ x with t := { x.t.dropFrom n with nregs := n } } : Ctx).retire 8 stall).done

/-- vgrow (07 R140 to R142): it blocks until the pool grants it (VGROW_GRANT), and completes once the count stands. -/
def execVgrow (stall : BitVec 4) (b : SrcB) (s : State) : Out :=
  s.run fun x => x.resizing true b fun n =>
    if n = x.t.nregs then (x.retire 8 stall).done
    else if !x.c.fitsEmpty (x.countsWith n) then x.trap Cause.bound noLanes (dwordOf n)
    else x.block (.vgrow n)

/-! ### Breakpoints -/

/-- bkpt (20 R315). -/
def execBkpt (stall : BitVec 4) (n : BitVec 4) (s : State) : Out :=
  s.run fun x =>
    if !x.l.bkpt.getLsbD n.toNat then (x.retire 8 stall).done
    else if !x.spec && x.t.pending x.t.t0 then x.block .result
    else
      let e : BkptEntry :=
        { launch := x.l.id, key := x.g.key, team := x.t.idx, pc := x.t.pc, depth := x.t.mstack.length, mask := x.t.mask
          spec := x.spec, sample := false }
      let y := { x with s := { x.s with bkptlog := x.s.bkptlog.push e } }
      if x.spec then (y.retire 8 stall).done else .next ((y.retire 8 stall).save.preemptGroup x.g.gid)

end Sys2Proof.Machine
end

