-- ==== Sys2Proof/Machine/TeamEvents.lean ====
section
/-!
DEFINITION. Steps of the device on a team: results and returns (01 R18 to R23, 13 R244), deferred traps (12 R227), deadlock (08 R172),
fairness (07 R143, R144) and grants of vgrow (07 R142). A step that is not due changes nothing.
-/
namespace Sys2Proof.Machine

/-! ### Results and returns -/

/-- Whether a team has a result that is ready. -/
def State.resultDue (s : State) (gi ti : Nat) : Bool :=
  s.runs gi ti fun g t => t.pend.any fun e => decide (e.ready ≤ s.clockOf g t)

/-- RESULT_READY (01 R18, 06 R120). -/
def execResultReady (gi ti : Nat) (s : State) : Out :=
  s.when (s.resultDue gi ti) fun s => s.onTeam gi ti fun g t => t.settle (s.clockOf g t)

/-- Older pending results of registers that a return writes, dropped (01 R20). -/
def dropOlder (ps : List Pending) (ws : List RegWrite) : List Pending := ps.filter fun e => !ws.any fun w => w.sameReg e.w

/-- The lane of a write. -/
def RegWrite.lane : RegWrite → Nat
  | .v l _ _ => l
  | .p l _ _ => l
  | _ => 0

/-- Values of a performed load delivered in some lanes; the load is over when every lane's has come (01 R22, R23). The registers of a lane
arrive together (notes/assumptions/4.md, DESIGN CHOICE). -/
def Team.deliver (t : Team) (path : Path) (lanes : LaneSet) : Team :=
  match t.loads.find? fun l => l.path == path with
  | none => t
  | some l =>
    let now := l.ws.filter fun w => lanes.getLsbD w.lane
    let rest := l.ws.filter fun w => !lanes.getLsbD w.lane
    let u := { t.applyAll now with pend := dropOlder t.pend now }
    let others := t.loads.erase l
    { u with loads := if rest.isEmpty then others else { l with ws := rest } :: others }

/-- A team's context, where one of a running group is named. -/
def State.ctxOf (s : State) (gi ti : Nat) : Option Ctx :=
  if s.runs gi ti fun _ _ => true then ({ s with cur := some (gi, ti) } : State).ctx? else none

/-- A changed context written back by a step of the device. -/
def Ctx.commitStep (x : Ctx) : State := { x.save with cur := none }

/-- The context with its k-th load performed, where it may be now: as far as the earlier loads go, and its cores serve it. -/
def Ctx.loadNow (x : Ctx) (k : Nat) : Option Ctx :=
  if x.t.loadFree k && x.loadServed k then x.performLoad k else none

/-- The oldest load of a path, performed if it is not yet. -/
def State.returning (s : State) (gi ti : Nat) (path : Path) : Option Ctx :=
  (s.ctxOf gi ti).bind fun x =>
    (x.t.loads.findIdx? fun l => l.path == path).bind fun k =>
      if (x.t.loads[k]?).any fun l => l.todo.isEmpty then some x else x.loadNow k

/-- Whether a load of a path may return. -/
def State.loadDue (s : State) (gi ti : Nat) (path : Path) : Bool := (s.returning gi ti path).isSome

/-- LOAD_RETURN (01 R22, 10 R188): the oldest load of the path, performed now where it has not been before. -/
def execLoadReturn (gi ti : Nat) (path : Path) (lanes : LaneSet) (s : State) : Out :=
  match s.returning gi ti path with
  | some x => .next ({ x with t := x.t.deliver path lanes } : Ctx).commitStep
  | none => .next s

/-- A load performed apart from its return (10 R188, 24 R367). -/
def State.microLoad (s : State) (gi ti k : Nat) : State :=
  match (s.ctxOf gi ti).bind fun x => x.loadNow k with
  | some x => x.commitStep
  | none => s

/-- The oldest atomic served whole: nothing is due where a core that serves it is being reset. -/
def State.serving (s : State) (gi ti : Nat) : Option Ctx :=
  (s.ctxOf gi ti).bind fun x =>
    match x.t.atoms with
    | [] => none
    | q :: _ =>
      let y := x.headFlush (Ctx.atomAddrs q).length
      if (y.t.atoms.head?).any fun q => q.todo.isEmpty then some y else none

/-- Whether an atomic is to be served or to write its old values. -/
def State.atomicDue (s : State) (gi ti : Nat) : Bool := (s.serving gi ti).isSome

/-- The oldest atomic's old values written. -/
def Team.deliverAtomic (t : Team) : Team :=
  match t.atoms with
  | [] => t
  | q :: rest => { t.applyAll q.ws with pend := dropOlder t.pend q.ws, atoms := rest }

/-- ATOMIC_RETURN (13 R243, R244): what is left of the oldest atomic is served, and its old values are written. -/
def execAtomicReturn (gi ti : Nat) (s : State) : Out :=
  match s.serving gi ti with
  | some x => .next ({ x with t := x.t.deliverAtomic } : Ctx).commitStep
  | none => .next s

/-- One address of a team's oldest unserved atomic served (13 R243). -/
def State.microAtom (s : State) (gi ti ea : Nat) : State :=
  match (s.ctxOf gi ti).bind fun x => x.headStep (some ea) with
  | some x => x.commitStep
  | none => s

/-- A lrset performed: one before which its team has none outstanding to the record (16 R271). -/
def State.microLrset (s : State) (k : Nat) : State :=
  match s.lrq[k]? with
  | none => s
  | some w =>
    if (s.lrq.take k).any fun v => v.g == w.g && v.t == w.t && v.a == w.a then s
    else { s.lrWrite w with lrq := s.lrq.eraseIdx k }

/-- A context changed where a team runs. -/
def State.onRunning (s : State) (gi ti : Nat) (f : Ctx → Ctx) : State := ((s.ctxOf gi ti).map fun x => (f x).commitStep).getD s

/-- A team's next .t atomic or matrix instruction is performed apart from its issue. -/
def State.microLate (s : State) (gi ti : Nat) : State := s.onRunning gi ti fun x => { x with t := { x.t with late := true } }

/-- A granule of B read for the k-th outstanding matrix instruction of a team (17 R288). -/
def State.microMatB (s : State) (gi ti k gran : Nat) : State := s.onRunning gi ti fun x => x.matRead k gran

/-- The oldest outstanding matrix instruction of a team performed (17 R282). -/
def State.microMat (s : State) (gi ti : Nat) : State := s.onRunning gi ti Ctx.matOne

/-- A matrix instruction that is outstanding, by its team. -/
def State.matOpen (s : State) : Option (Nat × Nat) :=
  s.groups.findSome? fun g => if g.status == .running then (g.teams.find? fun t => t.phase == .running && !t.mats.isEmpty).map fun t => (g.gid, t.idx) else none

/-- A team's next instruction is fetched n slot cycles from now (07 R143); nothing of it that has begun waits for the fetch. -/
def State.microFetch (s : State) (gi ti n : Nat) : State :=
  s.onTeam gi ti fun g t =>
    let now := s.clockOf g t
    if t.wait.isNone && decide (now ≤ t.earliest) then
      { t with earliest := max t.earliest (now + n), readySince := t.readySince.map fun r => max r (now + n) }
    else t

/-- The number of steps after which the pre-emption asked for falls in a team's next mmas (17 R291). -/
def State.microSteps (s : State) (gi ti n : Nat) : State := s.onTeam gi ti fun _ t => { t with quota := some (max 1 n) }

/-! ### Traps that wait, and deadlock -/

/-- Whether a held trap may be delivered (12 R227). -/
def State.heldDue (s : State) (gi ti : Nat) : Bool := s.runs gi ti fun g t => t.held.isSome && !s.isSpec g

/-- DEFERRED_TRAP_DELIVERY (12 R227): raised as if it had just been. -/
def execDeferredTrapDelivery (gi ti : Nat) (s : State) : Out :=
  s.when (s.heldDue gi ti) fun s => s.raiseIn gi ti Ctx.raiseHeld

/-- Whether a team truly waits in a barrier or at a queue (08 R172). -/
def Group.stuck (g : Group) (t : Team) : Bool :=
  match t.wait with
  | some (.barWait b) | some (.barArrive b) => (g.bars[b]?).any fun v => v.arrived.contains t.idx
  | some (.qpush q) => (g.queues[q]?).any fun v => v.allow == 0
  | some (.qpop q) => (g.queues[q]?).any fun v => v.entries.isEmpty
  | _ => false

/-- Whether a group is deadlocked (08 R172). -/
def State.deadlocked (s : State) (gi : Nat) : Bool :=
  (s.group? gi).any fun g =>
    g.status == .running && !g.stop && g.teams.any (fun t => t.phase != .ended) && g.teams.all fun t => t.phase == .ended || g.stuck t

/-- DEADLOCK_DETECT (08 R172): QUEUE in every waiting team at its instruction, unless the group has ended at one before. -/
def execDeadlockDetect (gi : Nat) (s : State) : Out :=
  s.when (s.deadlocked gi) fun s =>
    match s.group? gi with
    | none => s
    | some g => (g.teams.filter fun t => t.phase != .ended).foldl (fun s t =>
        if s.runs gi t.idx fun _ _ => true then
          (s.onTeam gi t.idx fun _ t => { t with phaseBit := false }).raiseIn gi t.idx fun x => x.atIssue.trap0 Cause.queue
        else s) s

/-! ### Fairness -/

/-- Whether a team has been ready without issuing for 4,096 cycles (07 R143). -/
def State.promotionDue (s : State) (gi ti : Nat) : Bool :=
  s.runs gi ti fun g t => t.promoted.isNone && t.readySince.any fun r => decide (r + 4096 ≤ s.clockOf g t)

/-- TEAM_PROMOTION (07 R143). -/
def execTeamPromotion (gi ti : Nat) (s : State) : Out :=
  s.when (s.promotionDue gi ti) fun s => s.onTeam gi ti fun g t => { t with promoted := some (s.clockOf g t) }

/-- Whether a yield's 64 cycles have passed (07 R144). -/
def State.yieldDue (s : State) (gi ti : Nat) : Bool :=
  s.runs gi ti fun g t => t.yielding.any fun y => decide (y.since + 64 ≤ s.clockOf g t)

/-- YIELD_EXPIRY (07 R144). -/
def execYieldExpiry (gi ti : Nat) (s : State) : Out :=
  s.when (s.yieldDue gi ti) fun s => s.onTeam gi ti fun _ t => { t with yielding := none }

/-! ### vgrow -/

/-- The count that a team's blocked vgrow asks for. -/
def Team.asks (t : Team) : Option Nat :=
  match t.wait with
  | some (.vgrow n) => some n
  | _ => none

/-- Registers that a group's teams hold on a slot, with the counts at which they were placed. -/
def Group.regsOn (g : Group) (w slot : Nat) : Nat :=
  (g.teams.filter fun t => t.phase != .ended && t.slot == slot).foldl (fun n t => n + w * max t.nregs (g.growOf t.idx)) 0

/-- Whether no other request of the slot goes first, in the issue order (07 R142, R143). -/
def State.firstAsk (s : State) (g : Group) (t : Team) : Bool :=
  let asks := (s.residents g.die g.core).flatMap fun h =>
    (h.teams.filter fun u => h.status == .running && !h.stop && u.phase == .running && u.slot == t.slot && u.asks.isSome).map fun u => s.cand h u
  ((choose (s.slotOf (slotKey g.die g.core t.slot)).last asks).map fun c => (c.g, c.t)) == some (g.gid, t.idx)

/-- The group of largest key among those that a vgrow may release (07 R142): residents of the slot that load or run,
the frontier's own kept from a speculative request. -/
def State.releasable (s : State) (g : Group) (slot : Nat) : Option Group :=
  let spec := s.isSpec g
  ((s.residents g.die g.core).filter fun h =>
    h.gid != g.gid && (h.status == .running || h.status == .loading) && (h.teams.any fun u => u.phase != .ended && u.slot == slot) &&
    !(spec && (s.launch? h.launch).any fun l => ((s.chartOf l h).map Chart.ordered).getD false && (l.front[h.die]?).getD Key.none == h.key)).foldl
    (fun best h => match best with
      | none => some h
      | some b => if b.key.toNat < h.key.toNat then some h else some b) none

/-- Free registers of a slot. -/
def State.freeRegs (s : State) (die core slot : Nat) : Nat :=
  65536 - (((s.slotLoads die core)[slot]?).map SlotLoad.regs).getD 0

/-- Other groups released until a request fits (07 R142), at most as many as reside. -/
def State.releaseFor (s : State) (g : Group) (slot need : Nat) : Nat → State
  | 0 => s
  | k + 1 =>
    if need ≤ s.freeRegs g.die g.core slot then s
    else match s.releasable g slot with
    | none => s
    | some h => (s.preemptGroup h.gid).releaseFor g slot need k

/-- The count granted: the new registers read 0 (07 R141). -/
def Team.granted (t : Team) (n : Nat) : Team := { t.dropFrom t.nregs with nregs := n, wait := some .again, readySince := none }

/-- A vgrow granted: the team holds its count, and the group no longer reserves it (07 R141, R142). -/
def State.grantTo (s : State) (gi ti n : Nat) : State :=
  match s.team? gi ti with
  | none => s
  | some (g, t) => s.setGroup { g.setTeam (t.granted n) with grow := g.grow.filter fun e => e.1 != ti }

/-- A group moved for the request of one of its own teams (07 R142, 20 R318): pre-empted, a speculative one aborted, it enters dispatch with
that team counted at its new count (notes/assumptions/46.md, DEDUCED), and its vgrow, issued again, is granted there. -/
def State.moveFor (s : State) (g : Group) (ti n : Nat) : State :=
  (s.setGroup { g with grow := (ti, n) :: g.grow.filter fun e => e.1 != ti }).preemptGroup g.gid

/-- What a grant comes to: the state with it, where the request can be met now (07 R142). A count that the group was placed with is
granted at once. -/
def State.grant (s : State) (gi ti : Nat) : Option State :=
  match s.team? gi ti with
  | none => none
  | some (g, t) =>
    match t.asks, (s.launch? g.launch).bind fun l => s.chartOf l g with
    | some n, some c =>
      let need := c.width * (n - max t.nregs (g.growOf ti))
      if !s.runs gi ti (fun g _ => !g.stop) || !(need == 0 || s.firstAsk g t) then none
      else if 65536 < g.regsOn c.width t.slot + need then some (s.moveFor g ti n)
      else
        let s' := s.releaseFor g t.slot need (s.residents g.die g.core).length
        if need ≤ s'.freeRegs g.die g.core t.slot then some (s'.grantTo gi ti n) else none
    | _, _ => none

/-- VGROW_GRANT (07 R141, R142): the blocked vgrow then completes at its next issue. -/
def execVgrowGrant (gi ti : Nat) (s : State) : Out := .next ((s.grant gi ti).getD s)

end Sys2Proof.Machine
end

