-- ==== Sys2Proof/Machine/EngineEvents.lean ====
section
/-!
DEFINITION. Steps of the copy engine and of the operand fetcher (16 R256 to R273, 17 R286, R287), and translation misses (10 R192).
-/
namespace Sys2Proof.Machine

/-- A group whose engine commands run: resident, or parked (12 R235). -/
def Group.engineLive (g : Group) : Bool := g.status == .running || g.status == .ended || g.status == .parked

/-- A group's handle. -/
def Group.handleAt (g : Group) (h : Nat) : Handle := (g.handles[h]?).getD Handle.free

/-- A handle written back. -/
def Group.setHandle (g : Group) (h : Nat) (v : Handle) : Group := { g with handles := g.handles.set h v }

/-- The fill of a handle. -/
def Group.fillOf (g : Group) (h : Nat) : Option Cmd := g.cmds.find? fun c => !c.kind.drain && c.hdl == h

/-- The drain of a handle. -/
def Group.drainOf (g : Group) (h : Nat) : Option Cmd := g.cmds.find? fun c => c.kind.drain && c.hdl == h

/-- A group with its Chart and a command of it. -/
def State.withCmd (s : State) (gi : Nat) (f : Group → Option Cmd) : Option (Group × Chart × Cmd) :=
  match s.group? gi with
  | none => none
  | some g =>
    match (s.launch? g.launch).bind fun l => s.chartOf l g, f g with
    | some c, some k => if g.engineLive then some (g, c, k) else none
    | _, _ => none

/-! ### Acceptance -/

/-- Whether a team's command is the first of its group's that wait to be accepted, and a queue entry is free for it (16 R262). -/
def State.acceptDue (s : State) (gi ti : Nat) : Bool :=
  s.runs gi ti fun g t => t.wait == some .queueEntry && g.firstTurn t && s.mayIssue gi ti &&
    s.queueFree g.die g.core (!s.isSpec g && ((s.launch? g.launch).bind fun l => s.chartOf l g).any Chart.ordered)

/-- The executing team's copy command run again. -/
def State.acceptRun (s : State) : Out :=
  match s.ctx? with
  | none => .next s
  | some x => match x.fetch with
    | .ok (.cpin st h r b) => execCpin st h r b s
    | .ok (.cpout st p h r b) => execCpout st p h r b s
    | .ok (.gather hd h r v) => execGather hd h r v s
    | .ok (.scatter hd h r v) => execScatter hd h r v s
    | _ => .next s

/-- COPY_ACCEPT (16 R262, R265): the waiting instruction goes on, from its checks, to its acceptance. -/
def execCopyAccept (gi ti : Nat) (s : State) : Out :=
  s.when (s.acceptDue gi ti) fun s =>
    match (s.atIssue gi ti).withBinds State.acceptRun with
    | .next u => u.afterEvent
    | _ => s

/-! ### Fills -/

/-- How far a command has come. -/
def Cmd.run (k : Cmd) : FillRun := { got := k.got, bad := k.bad, seen := k.seen }

/-- A command as far as a run of it has come, its range standing in the set table. -/
def Cmd.ran (k : Cmd) (f : FillRun) : Cmd := { k with got := f.got, bad := f.bad, seen := f.seen, noted := true }

/-- An element of a fill read apart from its publish (16 R267, 24 R367). -/
def State.microFill (s : State) (gi h n : Nat) : State :=
  match s.withCmd gi fun g => g.fillOf h with
  | none => s
  | some (g, c, k) =>
    match s.noteCmd g k, k.srcs[n]? with
    | some g, some q =>
      let r := s.fillOne g c k.run n q
      r.1.setGroup { g with cmds := g.cmds.map fun d => if d == k then k.ran r.2 else d }
    | _, _ => s

/-- Whether a fill may publish by its place in the acceptance order and by the engine's rate (16 R262, R263), and no matrix
instruction that has issued is still to read the slot that it fills (17 R288). -/
def State.fillTimely (s : State) (g : Group) (k : Cmd) : Bool :=
  (g.cmds.find? fun c => !c.kind.drain) == some k && decide (k.at_ + (k.need + 511) / 512 ≤ s.cycle) &&
  !g.teams.any fun t => t.mats.any fun r => r.slot == k.slot

/-- A fill that is due, what is left of it read: the state, the group, and how the fill ends. -/
structure FillEnd where
  s : State
  g : Group
  c : Chart
  k : Cmd
  f : FillRun

/-- What a fill that is due comes to (16 R267, R273). -/
def State.fillNow (s : State) (gi h : Nat) : Option FillEnd :=
  match s.withCmd gi fun g => g.fillOf h with
  | none => none
  | some (g, c, k) =>
    if s.fillTimely g k then
      (s.noteCmd g k).map fun g =>
        let r := s.fillRest g c k.run k.srcs
        { s := r.1, g := g, c := c, k := k, f := r.2 }
    else none

/-- The image written into the shadow slot: covered words lose their poison, words of poisoned elements take it (16 R261, R267). -/
def Group.writeImage (g : Group) (base : Nat) (es : List FillElem) : Group :=
  let bs := es.flatMap fun e => (List.range e.bytes.length).map fun i => (base + e.ofs + i, (e.bytes[i]?).getD 0#8)
  let g := g.writeLoc .slot bs
  { g with hpois := (es.filter FillElem.poi).foldl (fun m e => markPoison m (base + e.ofs) e.bytes.length) g.hpois }

/-- The bytes of a slot taken for the teams' loads of them in flight: those were issued before the publish, and read the old front
(24 R365). -/
def Group.slotTaken (g : Group) (base n : Nat) : Group :=
  let hit (p : LoadPart) (a : Nat) : Bool := p.sp == .slot && decide (base ≤ a ∧ a < base + n)
  let now (_ : LoadPart) (a : Nat) : Byte × Bool := (g.harea.read a, poisonIn g.hpois a 1)
  { g with teams := g.teams.map fun t => { t with loads := t.loads.map (Load.taken hit now) } }

/-- A fill's end: the image in the slot, FRONT turned, TAG and STATE set (16 R258), its measures and conflicts. -/
def Group.published (g : Group) (hsize : Nat) (k : Cmd) (es : List FillElem) : Group :=
  let g := (g.slotTaken (k.slot * hsize) hsize).writeImage (k.slot * hsize) es
  let v := g.handleAt k.hdl
  let g := g.setHandle k.hdl { v with front := !v.front, tag := k.tag, st := .full }
  { g with
    cmds := g.cmds.erase k, bkconf := g.bkconf + k.conflicts
    meas := { g.meas with bytes := g.meas.bytes + k.mainMoved } }

/-- PUBLISH (16 R258, R267); of a group whose teams have ended, the measures that it has filed follow (08 R157). -/
def execPublish (gi : Nat) (hdl : BitVec 5) (s : State) : Out :=
  match s.fillNow gi hdl.toNat with
  | some e => .next (if e.f.bad.isNone then (e.s.refile e.g fun m => some { m with bytes := m.bytes + e.k.mainMoved }).setGroup (e.g.published e.c.hsize e.k e.f.got) else s)
  | none => .next s

/-- The handle after a fill's fault (16 R256, R273; 17 R286, R287). -/
def Handle.fillFaulted (v : Handle) (k : Cmd) (a : DWord) : Handle :=
  match k.kind with
  | .fetch _ true => { v with st := v.prior }
  | .fetch _ false => { v with st := v.prior, fault := some a, fteam := k.team }
  | _ => { v with st := .free, fault := some a, fteam := k.team }

/-- FILL_FAULT (16 R273). The batches that it has read add nothing to %bkconf (notes/assumptions/73.md, DESIGN CHOICE). -/
def execFillFault (gi : Nat) (hdl : BitVec 5) (s : State) : Out :=
  match s.fillNow gi hdl.toNat with
  | none => .next s
  | some e => match e.f.bad with
    | none => .next s
    | some (_, a) =>
      let g := e.g.setHandle e.k.hdl ((e.g.handleAt e.k.hdl).fillFaulted e.k a)
      .next ((e.s.setGroup { g with cmds := g.cmds.erase e.k }).endCheck gi)

/-! ### Drains -/

/-- The translations of a drain's check (10 R192, 16 R268). -/
def State.drainSeen (s : State) (g : Group) (k : Cmd) : State := s.translateAll g.launch g.die g.core (k.map.map Prod.fst)

/-- A drain whose check runs. -/
def State.drainNow (s : State) (gi h : Nat) : Option (Group × Cmd × Option DWord) :=
  match s.withCmd gi fun g => g.drainOf h with
  | none => none
  | some (g, _, k) => if (g.handleAt h).chk then some (g, k, s.drainFault k) else none

/-- DRAIN_CHECK_DONE (16 R268). -/
def execDrainCheckDone (gi : Nat) (hdl : BitVec 5) (s : State) : Out :=
  match s.drainNow gi hdl.toNat with
  | some (g, k, none) => .next ((s.drainSeen g k).setGroup (g.setHandle k.hdl { g.handleAt k.hdl with chk := false }))
  | _ => .next s

/-- DRAIN_CHECK_FAULT (16 R273): the drain cancelled, its commit-area entry released. -/
def execDrainCheckFault (gi : Nat) (hdl : BitVec 5) (s : State) : Out :=
  match s.drainNow gi hdl.toNat with
  | some (g, k, some a) =>
    let g := g.setHandle k.hdl { g.handleAt k.hdl with st := .full, chk := false, fault := some a, fteam := k.team }
    .next (((s.drainSeen g k).setGroup { g with cmds := g.cmds.erase k }).endCheck gi)
  | _ => .next s

/-- Whether a handle's drain has been applied and its write is to complete. -/
def State.drainWritten (s : State) (gi h : Nat) : Bool := (s.group? gi).any fun g => g.written.any fun k => k.hdl == h

/-- DRAIN_WRITE_DONE (16 R256): a page-table edit is no longer held for the drain (R274). -/
def execDrainWriteDone (gi : Nat) (hdl : BitVec 5) (s : State) : Out :=
  s.when (s.drainWritten gi hdl.toNat) fun s =>
    match s.group? gi with
    | none => s
    | some g =>
      let g := { g with written := g.written.filter fun k => k.hdl != hdl.toNat }
      s.setGroup (g.setHandle hdl.toNat { g.handleAt hdl.toNat with st := .free, chk := false })

/-! ### The fetcher's lookahead -/

namespace Ctx

/-- The team at the instruction k places on in address order, from the next one (17 R287), among the registers that it names there. -/
def ahead (x : Ctx) (pc : DWord) : Nat → Ctx
  | 0 => { x with t := ({ x.t with pc := pc } : Team).lend x.w (x.im.bindsAt pc) }
  | k + 1 => x.ahead (pc + dwordOf (x.sizeAt pc)) k

/-- The matrix operands of a tile-form instruction. -/
def tileForm : Instr → Option (MmaOp × BitVec 5 × BitVec 16 × BitVec 6)
  | .mma o => match o.b with
    | .tile h r st => some (o, h, r, st)
    | .handle _ _ => none
  | .mmas o _ _ => match o.b with
    | .tile h r st => some (o, h, r, st)
    | .handle _ _ => none
  | _ => none

/-- The lowest lane of the team's mask. -/
def lowLane (x : Ctx) : Option Nat := (List.range x.w).find? fun l => x.t.mask.getLsbD l

/-- A team's prefetches in flight. -/
def prefetches (x : Ctx) : Nat :=
  (x.g.cmds.filter fun c => c.team == x.t.idx && (match c.kind with
    | .fetch _ true => true
    | _ => false)).length

/-- A prefetch of the instruction k places on, where one is made (17 R287). -/
def prefetch (x : Ctx) (now k : Nat) : Option Ctx :=
  if decide (4 ≤ x.prefetches) || x.g.teams.any fun u => u.qturn.isSome then none
  else
  let y := x.ahead x.t.pc k
  match y.fetch.toOption.bind tileForm, x.lowLane with
  | some (o, h, r, st), some l =>
    let f := y.t.readV now l o.f.toNat
    let t := y.t.readS now st.toNat
    let v := x.handle h
    match FWord.of f.val with
    | none => none
    | some fw =>
      let sc := fw.bty == .q4
      if f.poi || t.poi || v.fault.isSome || !x.fieldOk (.mma o) || !y.holds o.a.toNat fw.aRun ||
          decide (x.c.hsize < tileNeed sc) then none
      else if !(v.st == .free || (v.st == .full && !tagServes v.tag r t.val sc)) then none
      else
        let x := x.metTile r sc
        match x.tileRecords r [fw.cls] sc with
      | .error _ => none
      | .ok recs => match x.fetchStart h r t.val sc true recs with
        | .error _ => none
        | .ok y => some y
  | _, _ => none

end Ctx

/-- A prefetch of a running team's lookahead. -/
def State.prefetched (s : State) (gi ti k : Nat) : Option State :=
  if k < 8 && s.runs gi ti fun _ _ => true then
    match ({ s with cur := some (gi, ti) } : State).ctx? with
    | none => none
    | some x => (x.prefetch (s.clockOf x.g x.t) k).map fun y => { y.save with cur := none }
  else none

/-- OPERAND_PREFETCH (17 R287). -/
def execOperandPrefetch (gi ti k : Nat) (s : State) : Out := .next ((s.prefetched gi ti k).getD s)

end Sys2Proof.Machine
end

