-- ==== Sys2Proof/Machine/Cut.lean ====
section
/-!
DEFINITION. Cutting: allowed shapes and the initial cut (08 R150, R155), bands, tiles and bearings (R153, R154), scripts (R148, R156),
stripes (21 R329), and the Sextant's re-cut (08 R157 to R159).
-/
namespace Sys2Proof.Machine

/-! ### Allowed extents and bearings -/

/-- A field whose 0 has a meaning. -/
def orElse (v dflt : Nat) : Nat := if v = 0 then dflt else v

/-- MUL, MIN and MAX of a dimension (08 R146). -/
def Chart.mulOf (c : Chart) (d : Nat) : Nat := orElse (nth c.mul d) 1
def Chart.minOf (c : Chart) (d : Nat) : Nat := orElse (nth c.min d) 1
def Chart.maxOf (c : Chart) (d : Nat) : Nat := orElse (nth c.max d) 65536

/-- The smallest allowed extent of a dimension that is at least n (08 R150). -/
def Chart.atLeast (c : Chart) (d n : Nat) : Option Nat :=
  if d < c.rank then
    let a := (Nat.max n (c.minOf d) + c.mulOf d - 1) / c.mulOf d * c.mulOf d
    if a ≤ c.maxOf d then some a else none
  else if n ≤ 1 then some 1 else none

/-- The largest allowed extent of a dimension that is at most n. -/
def Chart.atMost (c : Chart) (d n : Nat) : Option Nat :=
  if d < c.rank then
    let a := Nat.min n (c.maxOf d) / c.mulOf d * c.mulOf d
    if c.minOf d ≤ a then some a else none
  else if 1 ≤ n then some 1 else none

/-- The smallest allowed extent of a dimension. -/
def Chart.least (c : Chart) (d : Nat) : Nat := (c.atLeast d 1).getD 1

/-- The bearings that a re-cut may choose, ascending (08 R147, R159). -/
def Chart.bearings (c : Chart) : List Nat :=
  if c.pin then [c.pinb] else (List.range 6).filter fun b => c.bearm == 0 || c.bearm / 2 ^ b % 2 == 1

/-- The initial shape (08 R155). -/
def Chart.initialShape (c : Chart) : List Nat :=
  (List.range 4).foldl (fun g d =>
    let rest := prodL ((List.range (3 - d)).map fun i => c.least (d + 1 + i))
    let cap := Nat.min (Nat.max (nth c.space d 1) (c.least d)) (c.vmaxEff / (prodL g * rest))
    g ++ [(c.atMost d cap).getD (c.least d)]) []

/-- The initial bearing. -/
def Chart.initialBearing (c : Chart) : Nat := (c.bearings.head?).getD 0

/-! ### Tiles and bearings -/

/-- HilbertIndex over a square of side n, from the half side s down (08 R154); `k` bounds the halvings. -/
def hilbert (n : Nat) : Nat → Nat → Nat → Nat → Nat
  | 0, _, _, _ => 0
  | k + 1, s, x, y =>
    if s = 0 then 0
    else
      let rx := x / s % 2
      let ry := y / s % 2
      let h := s * s * ((3 * rx) ^^^ ry)
      let x' := if ry = 0 && rx = 1 then n - 1 - x else x
      let y' := if ry = 0 && rx = 1 then n - 1 - y else y
      h + (if ry = 0 then hilbert n k (s / 2) y' x' else hilbert n k (s / 2) x' y')

/-- The smallest power of two at or above n. -/
def pow2Above (n : Nat) : Nat := if n ≤ 1 then 1 else 2 ^ (Nat.log2 (n - 1) + 1)

/-- The Morton key of a tile: bit k × rk + d is bit k of index d. -/
def morton (rk : Nat) (i : List Nat) : Nat :=
  (List.range 32).foldl (fun m k => (List.range rk).foldl (fun m d => m + nth i d / 2 ^ k % 2 * 2 ^ (k * rk + d)) m) 0

/-- The place of a tile in a bearing's order over a grid: equal numbers never meet in one band (08 R154). -/
def tileOrder (rk bearing : Nat) (n i : List Nat) : Nat :=
  let n0 := nth n 0
  let n1 := nth n 1
  let x := nth i 0
  let y := nth i 1
  let outer := nth i 3 * nth n 2 + nth i 2
  if rk ≤ 1 then x
  else
    match bearing with
    | 1 => outer * (n0 * n1) + x * n1 + y
    | 2 => morton rk i
    | 3 => let side := pow2Above (max n0 n1); outer * (side * side) + hilbert side 32 (side / 2) x y
    | 4 => outer * (n0 * n1) + y * n0 + (if y % 2 = 1 then n0 - 1 - x else x)
    | 5 => outer * ((n0 + n1) * n1) + (x + y) * n1 + y
    | _ => outer * (n0 * n1) + y * n0 + x

/-- An element put before the first one of larger rank. -/
def insertOn {α : Type} (f : α → Nat) (a : α) : List α → List α
  | [] => [a]
  | b :: r => if f b < f a then b :: insertOn f a r else a :: b :: r

/-- A list in ascending rank, equal ranks in their order. -/
def sortOn {α : Type} (f : α → Nat) (l : List α) : List α := l.foldr (insertOn f) []

/-- The tiles of a grid in a bearing's order. -/
def tilesIn (rk bearing : Nat) (n : List Nat) : List (List Nat) :=
  let all := (List.range (nth n 3)).flatMap fun i3 => (List.range (nth n 2)).flatMap fun i2 =>
    (List.range (nth n 1)).flatMap fun i1 => (List.range (nth n 0)).map fun i0 => [i0, i1, i2, i3]
  sortOn (tileOrder rk bearing n) all

/-- The cut in force for the next band (08 R156): with a script, the entry whose COUNT is not used up, or the rest entry. -/
def Launch.nextCut (l : Launch) (c : Chart) : Launch :=
  if c.script then
    let l := match l.script[l.cutno]? with
      | some (count, _) => if l.cutno < c.ncut && count ≤ l.scriptN then { l with cutno := l.cutno + 1, scriptN := 0 } else l
      | none => l
    { l with shape := ((l.script[l.cutno]?).map Prod.snd).getD l.shape, scriptN := l.scriptN + 1 }
  else l

/-- The upper edge of the next band along z (08 R153). -/
def Launch.bandTop (l : Launch) (c : Chart) : Nat :=
  min (l.origin + (if c.script then 1 else 8) * nth l.shape c.z 1) (nth c.space c.z)

/-- The groups of the next band in order: origins and extents (08 R153). -/
def Launch.bandTiles (l : Launch) (c : Chart) : List (List Nat × List Nat) :=
  let z := c.z
  let top := l.bandTop c
  let span (d : Nat) : Nat := if d = z then top - l.origin else nth c.space d 1
  let grid := (List.range 4).map fun d => (span d + nth l.shape d 1 - 1) / nth l.shape d 1
  (tilesIn c.rank l.bearing grid).map fun i =>
    ((List.range 4).map fun d => (if d = z then l.origin else 0) + nth i d * nth l.shape d 1,
     (List.range 4).map fun d => min (nth l.shape d 1) (span d - nth i d * nth l.shape d 1))

/-- A cut group (08 R153, 12 R216, R217). -/
def Launch.cutGroup (l : Launch) (c : Chart) (gid : Nat) (t : List Nat × List Nat) : Group :=
  let ts := c.tsAt (c.corner t.1 t.2)
  { Group.fresh gid l.id l.chart with
    key := cutKey ts (linear c.space t.1), ts := ts, org := t.1, ext := t.2, cutno := l.cutno, die := l.home }

/-- Groups cut into stripes of q (21 R329), at most k of them. -/
def stripesOf (q : Nat) : Nat → List Nat → List (List Nat)
  | 0, _ => []
  | _, [] => []
  | k + 1, gs => gs.take q :: stripesOf q k (gs.drop q)

/-! ### Band formation -/

/-- Groups at the tail of a die's share. -/
def Launch.appendShare (l : Launch) (die : Nat) (gs : List Nat) : Launch :=
  { l with shares := l.shares.set die ((l.shares[die]?).getD [] ++ gs) }

/-- Groups in transit to another die (12 R232): in an ordered launch both dies report them. -/
def Launch.depart (l : Launch) (ordered : Bool) (src dst : Nat) (gs : List Nat) : Launch :=
  if ordered then { l with transit := l.transit ++ gs.map fun g => (g, src, dst) } else l

/-- A stripe given to its die: at home directly, elsewhere by a packet. -/
def State.giveStripe (s : State) (lid home die : Nat) (ordered : Bool) (gs : List Nat) : State :=
  match s.launch? lid with
  | none => s
  | some l =>
    if die = home then (s.setLaunch (l.appendShare die gs)).atDesk die arrivalRank
    else (s.setLaunch (l.depart ordered home die gs)).send home die (.stripe lid gs)

/-- Whether a share holds a group of the launch's current band, or one is on its way to a share (08 R153, 21 R329). -/
def State.bandUndrawn (s : State) (l : Launch) (z : Nat) : Bool :=
  (s.groupsOf l.id).any fun g => !g.isRec && g.status == .share && decide (l.bandAt ≤ nth g.org z)

/-- Whether the next band is to be formed (08 R153, 12 R231, 21 R329). -/
def State.bandDue (s : State) (lid : Nat) : Bool :=
  match s.launch? lid with
  | none => false
  | some l =>
    match s.rootChart l with
    | none => false
    | some c =>
      l.phase == .dispatching && decide (l.origin < nth c.space c.z) && s.islandOn (ctlIsland l.home) &&
      (!s.bandUndrawn l c.z || (c.ordered && (l.front[l.home]?).getD Key.none == l.restBound c))

/-- BAND_FORM (08 R153 to R156, 21 R329). -/
def execBandForm (lid : Nat) (s : State) : Out :=
  s.when (s.bandDue lid) fun s =>
    match s.launch? lid with
    | none => s
    | some l =>
      match s.rootChart l with
      | none => s
      | some c =>
        let l := l.nextCut c
        let tiles := l.bandTiles c
        let gs := (List.range tiles.length).zip tiles |>.map fun t => l.cutGroup c (s.nextId + t.1) t.2
        let ids := gs.map Group.gid
        let d := l.dies.length
        let parts := stripesOf (max 1 (ids.length / (4 * d))) ids.length ids
        let s := { s with groups := s.groups ++ gs, nextId := s.nextId + ids.length }
        let s := s.setLaunch { l with bandAt := l.origin, origin := l.bandTop c }
        (List.range parts.length).foldl (fun s i =>
          s.giveStripe lid l.home (nth l.dies (i % d)) c.ordered ((parts[i]?).getD [])) s

/-! ### The Sextant -/

/-- A measurement put in the order of ends: by cycle, groups of one cycle by key (08 R157). -/
def holdMeas (m : Meas × Nat) (ms : List (Meas × Nat)) : List (Meas × Nat) :=
  let at_ (x : Meas × Nat) : Nat := (x.1.start + x.1.dur) * 2 ^ 128 + x.1.key.toNat
  match ms with
  | [] => [m]
  | x :: r => if at_ m < at_ x then m :: x :: r else x :: holdMeas m r

/-- Whether a die holds a measurement to pass on. -/
def State.forwardDue (s : State) (lid die : Nat) : Bool :=
  s.islandOn (ctlIsland die) && (s.launch? lid).any fun l => l.fwd.any fun f => f.1 == die

/-- SEXTANT_FORWARD (08 R157): a die's oldest measurement, to the home die's Sextant. -/
def execSextantForward (lid die : Nat) (s : State) : Out :=
  s.when (s.forwardDue lid die) fun s =>
    match s.launch? lid with
    | none => s
    | some l =>
      match l.fwd.find? fun f => f.1 == die with
      | none => s
      | some f =>
        let l := { l with fwd := l.fwd.erase f }
        if die = l.home then s.setLaunch { l with held := holdMeas f.2 l.held }
        else (s.setLaunch l).send die l.home (.measure lid f.2.1 f.2.2)

/-- The exact value n / d rounded once to binary32 (08 R159). -/
def rnRat (n d : Nat) : Nat :=
  if n = 0 || d = 0 then 0
  else
    let k := 64 + Nat.log2 d
    (FF.f32.round .rne false (n * 2 ^ k / d) (n * 2 ^ k % d != 0) (-(k : Int))).1

/-- Binary32 operations of Recut, under RNE. -/
def rnAdd (a b : Nat) : Nat := (FF.f32.add .rne a b).1
def rnSub (a b : Nat) : Nat := (FF.f32.sub .rne a b).1
def rnMul (a b : Nat) : Nat := (FF.f32.mul .rne a b).1

/-- a / b for finite a and a finite b other than zero. -/
def rnDiv (a b : Nat) : Nat :=
  match FF.f32.val a, FF.f32.val b with
  | .fin n m e, .fin n' m' e' =>
    if m = 0 then FF.f32.zero (n != n')
    else if m' = 0 then FF.f32.infBits (n != n')
    else (FF.f32.round .rne (n != n') (m * 2 ^ 64 / m') (m * 2 ^ 64 % m' != 0) (e - e' - 64)).1
  | _, _ => FF.f32.nan

/-- An integer in binary32. -/
def rnNat (n : Nat) : Nat := rnRat n 1

/-- What Recut measures: l, cv and dv (08 R159). -/
structure CutMeas where
  l  : Nat
  cv : Nat
  dv : Nat
  deriving DecidableEq, Repr

/-- The measures of a set of ended groups: Σ (duration − mean)² / n is formed exactly, as (n × Σ duration² − (Σ duration)²) / n². -/
def cutMeas (gs : List (Meas × Nat)) : CutMeas :=
  let sum (f : Meas × Nat → Nat) : Nat := gs.foldl (fun n g => n + f g) 0
  let n := gs.length
  let dur := sum fun g => g.1.dur
  let mu := rnRat dur n
  let s2 := rnRat (n * (sum fun g => g.1.dur * g.1.dur) - dur * dur) (n * n)
  { l := rnRat (sum fun g => g.1.bytes) (sum Prod.snd)
    cv := if mu = 0 then 0 else rnDiv (fsqrtBits .rne s2).1 mu
    dv := rnRat (sum fun g => g.1.lanes) (32 * sum fun g => g.1.passes) }

/-- Lam (08 R159). -/
def Chart.lam (c : Chart) (h : List Nat) : Nat :=
  (List.range c.rank).foldl (fun a d => if 1 < nth c.space d then rnAdd a (rnDiv (rnNat 1) (rnNat (nth h d 1))) else a) 0

/-- Fill (08 R159). -/
def Chart.fill (c : Chart) (h : List Nat) : Nat :=
  let v := prodL h
  rnDiv (rnNat v) (rnNat (c.width * ((v + c.width - 1) / c.width)))

/-- Beta (08 R159). -/
def beta (b : Nat) : Nat :=
  match b with
  | 2 => rnRat 85 100
  | 3 => rnRat 80 100
  | 4 => rnRat 95 100
  | _ => rnRat 1 1

/-- Cost of a cut against the one in force (08 R159). -/
def Chart.cost (c : Chart) (m : CutMeas) (g : List Nat) (b : Nat) (h : List Nat) (b' : Nat) : Nat :=
  let k64 := rnNat 64
  let rLam := if c.lam g = 0 then rnNat 1 else rnDiv (c.lam h) (c.lam g)
  let t1 := rnMul (rnMul m.l rLam) (rnDiv (beta b') (beta b))
  let t2 := rnMul (rnMul k64 m.cv) (fsqrtBits .rne (rnDiv (rnNat (prodL h)) (rnNat (prodL g)))).1
  let t3 := rnMul k64 (rnSub (rnNat 1) (rnDiv (rnMul m.dv (c.fill h)) (c.fill g)))
  rnAdd (rnAdd t1 t2) t3

/-- The candidates of Recut in order (08 R159). -/
def Chart.cands (c : Chart) (g : List Nat) (b : Nat) : List (List Nat × Nat) :=
  [(g, b)] ++
  ((List.range c.rank).flatMap fun d =>
    ([c.atLeast d (2 * nth g d), c.atMost d (nth g d / 2)].filterMap id).flatMap fun a =>
      let h := g.set d a
      if prodL h ≤ c.vmaxEff then c.bearings.map fun b' => (h, b') else []) ++
  ((c.bearings.filter (· != b)).map fun b' => (g, b'))

/-- Whether a binary32 value lies below another. -/
def rnLt (a b : Nat) : Bool := (FF.f32.val a).lt (FF.f32.val b)

/-- Recut (08 R159): the next cut. -/
def Chart.recut (c : Chart) (gs : List (Meas × Nat)) (g : List Nat) (b : Nat) : List Nat × Nat :=
  if gs.length < 8 then (g, b)
  else
    let m := cutMeas gs
    let best := (c.cands g b).foldl (fun (acc : List Nat × Nat) x =>
      if rnLt (c.cost m g b x.1 x.2) (c.cost m g b acc.1 acc.2) then x else acc) (g, b)
    if rnLt (rnMul (rnRat 7 8) (c.cost m g b g b)) (c.cost m g b best.1 best.2) then (g, b) else best

/-- Whether a re-cut point has come (08 R158). -/
def State.recutDue (s : State) (lid : Nat) : Bool :=
  match s.launch? lid with
  | none => false
  | some l =>
    match s.rootChart l with
    | none => false
    | some c =>
      l.phase == .dispatching && !c.script && !c.recutOff && decide (l.origin < nth c.space c.z) && s.islandOn (ctlIsland l.home) &&
      (decide (64 ≤ l.held.length) || decide (l.markVol < l.dvol ∧ prodL c.space - l.markVol ≤ 8 * (l.dvol - l.markVol)))

/-- RECUT (08 R158, R159). -/
def execRecut (lid : Nat) (s : State) : Out :=
  s.when (s.recutDue lid) fun s =>
    match s.launch? lid with
    | none => s
    | some l =>
      match s.rootChart l with
      | none => s
      | some c =>
        let cut := c.recut (l.held.drop (l.held.length - 64)) l.shape l.bearing
        let same := cut == (l.shape, l.bearing)
        s.setLaunch
          { l with
            shape := cut.1, bearing := cut.2, cutno := if same then l.cutno else l.cutno + 1, held := [], markVol := l.dvol }

end Sys2Proof.Machine
end

