-- ==== Sys2Proof/Machine/Shares.lean ====
section
/-!
DEFINITION. Shares, draws and steals (21 R328 to R333), and the frontier task's claim to a place (12 R230).
-/
namespace Sys2Proof.Machine

/-- A die's share. -/
def Launch.share (l : Launch) (die : Nat) : List Nat := (l.shares[die]?).getD []

/-- The frontier that a die holds. -/
def Launch.frontAt (l : Launch) (die : Nat) : Key := (l.front[die]?).getD Key.none

/-- A group with its Chart. -/
def State.groupChart? (s : State) (gid : Nat) : Option (Group × Chart) :=
  (s.group? gid).bind fun g => ((s.launch? g.launch).bind fun l => s.chartOf l g).map fun c => (g, c)

/-- Whether a core can accept a group now (08 R163, 17 R277), its row island being on. -/
def State.accepts (s : State) (gid die core : Nat) : Bool :=
  s.islandOn (rowIsland die core) && (s.groupChart? gid).any fun q => (s.plan q.1 q.2 die core).isSome

/-- Whether another active group of the launch holds the same key: record groups of equal keys run one at a time (12 R223). -/
def State.keyTaken (s : State) (g : Group) : Bool :=
  g.isRec && (s.groupsOf g.launch).any fun h => h.gid != g.gid && h.activeG && h.key == g.key

/-- The groups of a list that wait for no other of their key (12 R223): the others stand back (notes/assumptions/61.md). -/
def State.keyFree (s : State) (gs : List Nat) : List Nat := gs.filter fun i => !((s.group? i).any s.keyTaken)

/-! ### The frontier task's place -/

/-- The speculative group of a launch with the largest key. -/
def State.topSpec (s : State) (l : Launch) : Option Group :=
  ((s.groupsOf l.id).filter fun g => g.resident && s.isSpec g).foldl (fun best g => match best with
    | none => some g
    | some b => if b.key.toNat < g.key.toNat then some g else some b) none

/-- Speculative groups of the launch aborted in descending key order until a group can be placed on one of a die's cores (12 R230),
at most n of them. -/
def State.makeRoom (s : State) (l : Launch) (gid die : Nat) (cores : List Nat) : Nat → State
  | 0 => s
  | n + 1 =>
    if (cores.any fun k => s.accepts gid die k) = true then s
    else match s.topSpec l with
    | none => s
    | some g => (s.abortGroup g.gid).makeRoom l gid die cores n

/-- Whether a group heads the frontier of its die (12 R224). -/
def Launch.headsFrontier (l : Launch) (c : Chart) (g : Group) : Bool := c.ordered && l.frontAt g.die == g.key

/-- The frontier task in a list of groups. -/
def State.frontierIn (s : State) (l : Launch) (gs : List Nat) : Option Nat :=
  gs.find? fun i => (s.groupChart? i).any fun q => l.headsFrontier q.2 q.1

/-- The frontier task of a die's share, where a core has a place for it once room is made: it waits behind no other group (12 R230). -/
def State.frontierRoom (s : State) (l : Launch) (die core : Nat) : Option (Nat × State) :=
  match s.frontierIn l (s.keyFree (l.share die)) with
  | none => none
  | some gid =>
    let s := s.makeRoom l gid die (List.range 64) (s.groupsOf l.id).length
    if s.accepts gid die core then some (gid, s) else none

/-! ### Draws -/

/-- The priority class of a launch (08 R147). -/
def State.prioOf (s : State) (l : Launch) : Nat := ((s.rootChart l).map Chart.prio).getD 0

/-- Whether a core may draw from a launch's share: the distributor takes its fetch-and-add in this cycle, no steal request of an earlier
one standing before it (21 R333), and the head of the share is acceptable (21 R330). -/
def State.mayDraw (s : State) (l : Launch) (die core : Nat) : Bool :=
  l.phase == .dispatching && s.islandOn (ctlIsland die) && s.islandOn (netIsland die) && s.deskFree die (drawRank core) &&
  (l.inbox.all fun q => q.1 != die || decide (s.cycle ≤ q.2.1)) && (match (s.keyFree (l.share die)).head? with
    | none => false
    | some gid => s.accepts gid die core)

/-- Whether a launch goes before another: higher priority class, then earlier admission (21 R330). -/
def State.before (s : State) (a b : Launch) : Bool :=
  decide (s.prioOf b < s.prioOf a) || (s.prioOf a == s.prioOf b && decide (a.stamp < b.stamp ∨ (a.stamp = b.stamp ∧ a.id < b.id)))

/-- The number of groups that a draw takes (21 R330). -/
def chunk (r : Nat) : Nat := max 1 ((r + 127) / 128)

/-- Groups drawn into a core's local list: each first draw of a cut group adds to the dispatched volume (08 R158). -/
def State.drawGroups (s : State) (lid die core : Nat) (gs : List Nat) : State :=
  match s.launch? lid with
  | none => s
  | some l =>
    let vol := s.groups.foldl (fun n g => if gs.contains g.gid && !g.isRec && !g.drawn then n + g.vol else n) 0
    let s := s.setLaunch { l with
      shares := l.shares.set die ((l.share die).filter fun i => !gs.contains i), dvol := l.dvol + vol, draws := l.draws + 1 }
    let take (g : Group) : Group :=
      if gs.contains g.gid then { g with status := .drawn, drawn := true, core := core, drawAt := l.draws } else g
    let s := { s with groups := s.groups.map take }
    let k := s.core die core
    (s.setCore die core { k with drawn := k.drawn ++ gs }).atDesk die (drawRank core)

/-- The draw of a core, where it makes one: from the head of the share, where no drawn group of the core's can start, or the frontier
task (12 R230). -/
def State.draw (s : State) (lid die core : Nat) : Option State :=
  match s.launch? lid with
  | none => none
  | some l =>
    if (s.keyFree (s.core die core).drawn).isEmpty && s.mayDraw l die core &&
        (s.launches.all fun m => m.id == lid || !s.mayDraw m die core || s.before l m) then
      some (s.drawGroups lid die core ((s.keyFree (l.share die)).take (chunk (l.share die).length)))
    else if l.phase == .dispatching && s.islandOn (ctlIsland die) && s.islandOn (netIsland die) && s.deskFree die (drawRank core) then
      (s.frontierRoom l die core).map fun p => p.2.drawGroups lid die core [p.1]
    else none

/-- Whether a core of a die draws from a launch's share now: of the operations of one cycle these are served first (21 R333). -/
def State.drawing (s : State) (lid die : Nat) : Bool := (List.range 64).any fun k => (s.draw lid die k).isSome

/-- SHARE_DRAW (21 R330, 08 R158). -/
def execShareDraw (lid die core : Nat) (s : State) : Out := .next ((s.draw lid die core).getD s)

/-- Groups of a launch returned from a core's local list to the head of the share, in their order (21 R330, R332). -/
def State.returnLocal (s : State) (lid die core : Nat) : State :=
  match s.launch? lid with
  | none => s
  | some l =>
    let k := s.core die core
    let mine := k.drawn.filter fun i => (s.group? i).any fun g => g.launch == lid
    let s := s.setCore die core
      { k with drawn := k.drawn.filter fun i => !mine.contains i, ousted := k.ousted.filter fun i => i != lid }
    let s := { s with groups := s.groups.map fun (g : Group) => if mine.contains g.gid then { g with status := .share } else g }
    let s := s.setLaunch { l with shares := l.shares.set die (mine ++ l.share die) }
    if mine.isEmpty then s else s.atDesk die arrivalRank

/-- The launches of lower priority class whose drawn groups a placed group ousts from a core (21 R330). -/
def State.oust (s : State) (l : Launch) (die core : Nat) : State :=
  let k := s.core die core
  let low := ((k.drawn.filterMap fun i => (s.group? i).map Group.launch).eraseDups).filter fun i =>
    (s.launch? i).any fun m => decide (s.prioOf m < s.prioOf l)
  s.setCore die core { k with ousted := (k.ousted ++ low).eraseDups }

/-- Whether a core can no longer start the drawn groups of a launch (21 R330). -/
def State.localDue (s : State) (lid die core : Nat) : Bool :=
  match s.launch? lid with
  | none => false
  | some l =>
    let k := s.core die core
    (k.drawn.any fun i => (s.group? i).any fun g => g.launch == lid) &&
    (l.phase != .dispatching || k.removed || k.reset.isSome || k.ousted.contains lid)

/-- LOCAL_LIST_RETURN (21 R330). -/
def execLocalListReturn (lid die core : Nat) (s : State) : Out :=
  s.when (s.localDue lid die core) fun s => s.returnLocal lid die core

/-! ### Counts and steals -/

/-- Whether groups of a launch are still to be drawn, a band having been formed (21 R331). -/
def State.undrawn (s : State) (l : Launch) : Bool :=
  l.phase == .dispatching && decide (0 < l.origin) &&
  ((s.groupsOf l.id).any (fun g => g.status == .share) ||
   (s.rootChart l).any fun c => decide (l.origin < nth c.space c.z))

/-- Whether a die's exchange of counts is due: a report of its own in an unordered launch (21 R331). -/
def State.exchangeDue (s : State) (lid die : Nat) : Bool :=
  s.islandOn (ctlIsland die) && (s.launch? lid).any fun l =>
    l.dies.contains die && decide (1 < l.dies.length) && (s.rootChart l).all (fun c => !c.ordered) && s.undrawn l &&
    decide (nth l.exchanged die + 256 ≤ s.cycle)

/-- SHARE_COUNT_EXCHANGE (21 R331): in an ordered launch the counts travel with the reports of 12 R232, on the same period. -/
def execShareCountExchange (lid die : Nat) (s : State) : Out :=
  s.when (s.exchangeDue lid die) fun s =>
    match s.launch? lid with
    | none => s
    | some l =>
      let s := s.setLaunch { l with exchanged := l.exchanged.set die s.cycle }
      (l.dies.filter (· != die)).foldl (fun s d => s.send die d (.counts lid die (l.share die).length)) s

/-- A count that a die hears of another (21 R331). -/
def Launch.hear (l : Launch) (at_ die n : Nat) : Launch :=
  { l with seen := l.seen.set at_ ((List.range 4).map fun i => if i = die then n else nth ((l.seen[at_]?).getD []) i) }

/-- The count that a die last heard of another. -/
def Launch.heard (l : Launch) (die other : Nat) : Nat := nth ((l.seen[die]?).getD []) other

/-- The victim that a thief chooses (21 R331). -/
def Launch.victim (l : Launch) (die : Nat) : Option Nat :=
  (l.dies.filter fun d => d != die && decide (0 < l.heard die d)).foldl (fun best d => match best with
    | none => some d
    | some b => if l.heard die b < l.heard die d then some d else some b) none

/-- Whether a core of a die wants to draw from a launch: its list is empty and an undrawn group would find a place there. -/
def State.wantsDraw (s : State) (l : Launch) (die : Nat) : Bool :=
  (List.range 64).any fun k => (s.keyFree (s.core die k).drawn).isEmpty &&
    (s.groupsOf l.id).any fun g => g.status == .share && s.accepts g.gid die k

/-- A die's steal, where it makes one: its victim. It has at most one outstanding, whatever the launch (21 R331). -/
def State.stealFrom (s : State) (lid die : Nat) : Option Nat :=
  match s.launch? lid with
  | none => none
  | some l =>
    if l.phase == .dispatching && s.islandOn (ctlIsland die) && l.dies.contains die && (l.share die).isEmpty &&
        s.launches.all (fun m => ((m.steals[die]?).getD none).isNone) && s.wantsDraw l die then l.victim die else none

/-- STEAL_REQUEST (21 R331). -/
def execStealRequest (lid die : Nat) (s : State) : Out :=
  match s.stealFrom lid die, s.launch? lid with
  | some v, some l => .next ((s.setLaunch { l with steals := l.steals.set die (some v) }).send die v (.stealReq lid die))
  | _, _ => .next s

/-- The request that a die serves next: the earliest, of those of one cycle the lowest thief's (21 R333). -/
def Launch.nextThief (l : Launch) (die : Nat) : Option (Nat × Nat × Nat) :=
  let at_ (q : Nat × Nat × Nat) : Nat := q.2.1 * 4 + q.2.2
  (l.inbox.filter fun q => q.1 == die).foldl (fun best q => match best with
    | none => some q
    | some b => if at_ q < at_ b then some q else some b) none

/-- Whether a die has a steal request to serve, its launch dispatching: one that arrived in this cycle comes after the draws and the
requests of lower thieves (21 R333). -/
def State.serveDue (s : State) (lid die : Nat) : Bool :=
  s.islandOn (ctlIsland die) && (s.launch? lid).any fun l => l.phase == .dispatching && (l.nextThief die).any fun q =>
    decide (q.2.1 < s.cycle) || (!s.drawing lid die && s.deskFree die (stealRank q.2.2))

/-- Whether groups arriving at a die wait for operations of the same cycle: draws, and steal requests (21 R333). -/
def State.arriveLate (s : State) (lid die : Nat) : Bool :=
  s.drawing lid die || (s.launch? lid).any fun l => l.phase == .dispatching && (l.nextThief die).isSome

/-- STEAL_SERVE (21 R331): half the share from its tail. -/
def execStealServe (lid die : Nat) (s : State) : Out :=
  s.when (s.serveDue lid die) fun s =>
    match s.launch? lid, s.rootChart <$> s.launch? lid with
    | some l, some (some c) =>
      match l.nextThief die with
      | none => s
      | some q =>
        let thief := q.2.2
        let sh := l.share die
        let keep := sh.length - (sh.length + 1) / 2
        let l := { l with inbox := l.inbox.erase q, shares := l.shares.set die (sh.take keep) }
        ((s.setLaunch (l.depart c.ordered die thief (sh.drop keep))).atDesk die (stealRank thief)).send die thief (.stealRep lid (sh.drop keep))
    | _, _ => s

/-- Groups that stand in no list: neither in a share, nor drawn, nor further on. -/
def State.unplaced (s : State) (l : Launch) (gs : List Nat) : List Nat :=
  gs.filter fun i => (s.group? i).any fun g => g.launch == l.id && g.status == .share && !(l.shares.any fun sh => sh.contains i)

/-- Groups arriving at the tail of a die's share. -/
def State.arrive (s : State) (lid die : Nat) (gs : List Nat) : State :=
  match s.launch? lid with
  | none => s
  | some l =>
    let gs := s.unplaced l gs
    let s := { s with groups := s.groups.map fun (g : Group) => if gs.contains g.gid then { g with die := die } else g }
    (s.setLaunch (l.appendShare die gs)).atDesk die arrivalRank

/-- Whether a reply to a die's steal has arrived and is taken now. -/
def State.replyDue (s : State) (lid die : Nat) : Bool :=
  s.islandOn (ctlIsland die) && (s.launch? lid).any (fun l => l.replies.any fun r => r.1 == die) && !s.arriveLate lid die

/-- STEAL_REPLY (21 R331): an empty one ends the steal until the next exchange. -/
def execStealReply (lid die : Nat) (s : State) : Out :=
  s.when (s.replyDue lid die) fun s =>
    match s.launch? lid with
    | none => s
    | some l =>
      match l.replies.find? fun r => r.1 == die with
      | none => s
      | some r =>
        let seen := if r.2.isEmpty then l.seen.set die [] else l.seen
        (s.setLaunch { l with replies := l.replies.erase r, steals := l.steals.set die none, seen := seen }).arrive lid die r.2

end Sys2Proof.Machine
end

