-- ==== Sys2Proof/Machine/GroupEvents.lean ====
section
/-!
DEFINITION. Steps of the device on groups: dispatch and resumption (08 R162 to R165, 20 R322), preloads and postload checks (08 R164),
final commits (11 R204), bins' timers (12 R223), the frontier (12 R230 to R232), parked continuations (12 R235), and pre-emption
(20 R316 to R318).
-/
namespace Sys2Proof.Machine

/-! ### Dispatch -/

/-- A group about to start on a core: with its launch and Chart, its slots, and the state with its place made. -/
structure Start where
  g     : Group
  l     : Launch
  c     : Chart
  slots : List Nat
  s     : State
  deriving DecidableEq, Repr

/-- Whether a core may start a drawn group: its launch dispatches and has not been ousted from the core (21 R330), and no other group
of its key is active (12 R223). -/
def State.startable (s : State) (die core gid : Nat) : Bool :=
  (s.group? gid).any fun g => !s.keyTaken g && !(s.core die core).ousted.contains g.launch &&
    (s.launch? g.launch).any fun l => l.phase == .dispatching

/-- The group that a core starts next from its local list: the frontier task first (12 R230), otherwise the first in share order
(21 R330), of those that it may start. -/
def State.nextStart (s : State) (die core : Nat) : Option Start :=
  let list := (s.core die core).drawn.filter (s.startable die core)
  let front := list.find? fun i => (s.groupChart? i).any fun q =>
    (s.launch? q.1.launch).any fun l => l.headsFrontier q.2 q.1
  match (front <|> list.head?).bind s.groupChart? with
  | none => none
  | some (g, c) =>
    match s.launch? g.launch with
    | none => none
    | some l =>
      if !s.islandOn (rowIsland die core) then none
      else
        let s' := if l.headsFrontier c g then s.makeRoom l g.gid die [core] (s.groupsOf l.id).length else s
        match s'.launch? g.launch with
        | none => none
        | some l' => (s'.plan g c die core).map fun slots => { g := g, l := l', c := c, slots := slots, s := s' }

/-- A group off a core's local list. -/
def State.undraw (s : State) (die core gid : Nat) : State :=
  let k := s.core die core
  s.setCore die core { k with drawn := k.drawn.erase gid }

/-- A preload as the engine takes it at a dispatch, with its checks (08 R164, 16 R260, R263). -/
def State.preCmd (s : State) (im : Image) (c : Chart) (g : Group) (r ofs : Nat) : PreCmd :=
  let b := s.recordFor im r .preload
  let bits := match b with
    | .ok bits => bits
    | .error _ => 0#512
  { cmd := { kind := .cpin, hdl := 0, r := r, lrec := bits, lrec2 := 0#512, off := 0, idx := [], slot := 0, team := 0, at_ := s.cycle }
    ofs := ofs
    fault := match b with
      | .error e => some (e, dwordOf r)
      | .ok _ => if c.winSize g < ofs + (LRec.ofBits bits).denseBytes then some (Cause.extent, dwordOf ofs) else none }

/-- The preloads of a group, PRE0 first, and the state with their records met (10 R193). -/
def State.preCmds (s : State) (c : Chart) (g : Group) : State × List PreCmd :=
  match (s.launch? g.launch).bind fun l => s.image? l.image with
  | none => (s, [])
  | some im =>
    let s := s.metRecords im (c.pre.filterMap fun p => p.map Prod.fst)
    (s, c.pre.filterMap fun p => p.map fun q => s.preCmd im c g q.1 q.2)

/-- The positions of teams put on slots of a core (07 R143). -/
def State.seats (s : State) (die core : Nat) (slots : List Nat) : List Nat := freePos (s.positions die core) slots

/-- The places shown of a group's areas, which a new stay of it on the core does not keep (10 R177). -/
def Core.unbase (k : Core) (gid : Nat) : Core :=
  { k with bases := k.bases.filter fun b => match b.1 with
      | .window g | .handle g | .spill g _ => g != gid
      | .region _ => true }

/-- A group put on a core takes it from the drawn groups of launches of lower class (21 R330). -/
def State.placed (s : State) (x : Start) (die core : Nat) (g : Group) : State :=
  let s := (s.undraw die core g.gid).setGroup g
  (s.setCore die core ((s.core die core).unbase g.gid)).oust x.l die core

/-- GROUP_DISPATCH (08 R162 to R165). -/
def execGroupDispatch (die core : Nat) (s : State) : Out :=
  match s.nextStart die core with
  | some x =>
    if x.g.saved then .next s
    else
      let g := x.g.dispatched x.l x.c core x.slots (x.s.seats die core x.slots)
      let q := x.s.preCmds x.c g
      .next (q.1.placed x die core { g with meas := { g.meas with start := s.cycle }, pres := q.2 })
  | none => .next s

/-- A saved group back on a core (20 R320 to R322): its live teams on the planned slots, its accepted commands issued again. A parked
team's STALL is still to be honoured where it has not elapsed: its `earliest` holds a reference cycle while it is parked (01 R18). -/
def State.resumed (s : State) (g : Group) (core : Nat) (slots pos : List Nat) : Group :=
  let live := g.teams.filter fun t => t.phase != .ended
  let place (t : Team) : Nat := (live.findIdx? fun u => u.idx == t.idx).getD 0
  let wake (t : Team) : Team :=
    if t.phase == .ended then t
    else
      let k := nth slots (place t)
      let sl := s.slotOf (slotKey g.die core k)
      let from_ := sl.clock (max s.cycle t.earliest)
      { t with slot := k, pos := nth pos (place t), phase := .running, busy := sl.clock s.cycle, earliest := from_, readySince := some from_ }
  { g with
    status := if live.isEmpty then .ended else .running
    core := core, saved := false, parked := none, teams := g.teams.map wake
    cmds := g.cmds.map fun c => { c with at_ := s.cycle } }

/-- GROUP_RESUME (20 R322). -/
def execGroupResume (die core : Nat) (s : State) : Out :=
  match s.nextStart die core with
  | some x =>
    if x.g.saved then .next (x.s.placed x die core (x.s.resumed x.g core x.slots (x.s.seats die core x.slots))) else .next s
  | none => .next s

/-! ### Preloads and postloads -/

/-- What a preload puts into the window, from its place on (08 R164). -/
def PreCmd.srcs (p : PreCmd) : List FillSrc := (LRec.ofBits p.cmd.lrec).denseSrcs 0 p.ofs

/-- A preload's image in the window: covered words lose their poison, words of poisoned elements take it. -/
def Group.preloaded (g : Group) (es : List FillElem) (k : Cmd) : Group :=
  let bs := es.flatMap fun e => (List.range e.bytes.length).map fun i => (e.ofs + i, (e.bytes[i]?).getD 0#8)
  let g := g.writeLoc .win bs
  { g with
    wpois := (es.filter FillElem.poi).foldl (fun m e => markPoison m e.ofs e.bytes.length) g.wpois
    bkconf := g.bkconf + k.conflicts, meas := { g.meas with bytes := g.meas.bytes + k.mainMoved } }

/-- Preloads as far as they have come: the state, the group with those made, and the first fault. -/
structure PreRun where
  s   : State
  g   : Group
  bad : Option (Cause × DWord)

/-- One more preload made, unless one has failed. -/
def PreRun.one (c : Chart) (x : PreRun) (p : PreCmd) : PreRun :=
  if x.bad.isSome then x
  else if p.fault.isSome then { x with bad := p.fault }
  else
    let r := x.s.fillRest x.g c p.cmd.run p.srcs
    match r.2.bad with
    | some b => { x with s := r.1, bad := some (Cause.copyFault, b.2) }
    | none => { x with s := r.1, g := x.g.preloaded r.2.got p.cmd }

/-- What a loading group's preloads come to. -/
def State.preloadNow (s : State) (gi : Nat) : Option (Chart × PreRun) :=
  match s.groupChart? gi with
  | none => none
  | some (g, c) =>
    if g.status == .loading && g.preFault.isNone then some (c, g.pres.foldl (PreRun.one c) { s := s, g := g, bad := none }) else none

/-- An element of a preload read from main memory apart from its completion (16 R267). -/
def State.microPre (s : State) (gi p k : Nat) : State :=
  match s.groupChart? gi with
  | none => s
  | some (g, c) =>
    match g.pres[p]? with
    | none => s
    | some q =>
      if g.status != .loading || q.fault.isSome || (LRec.ofBits q.cmd.lrec).win then s
      else
        match s.noteCmd g q.cmd, q.srcs[k]? with
        | some g, some e =>
          let r := s.fillOne g c q.cmd.run k e
          r.1.setGroup { g with pres := g.pres.set p { q with cmd := q.cmd.ran r.2 } }
        | _, _ => s

/-- The group with its teams ready (08 R164, step 3). -/
def State.startTeams (s : State) (g : Group) : Group :=
  { g with
    status := .running, meas := { g.meas with start := s.cycle }
    pres := []
    teams := g.teams.map fun t =>
      let now := s.clockOf g t
      { t with phase := .running, busy := now, earliest := now, readySince := some now } }

/-- Cycles that the copy engine needs for a group's preloads, 512 bytes in each (16 R263). -/
def Group.preloadTime (g : Group) : Nat := (g.pres.foldl (fun n p => n + (LRec.ofBits p.cmd.lrec).denseBytes) 511) / 512

/-- The reads of a group's preloads noted in the set table of a speculative group, each on the entries that the ones before it leave
(12 R225, R226). -/
def State.notePres (s : State) (g : Group) (h : Group) : Option Group :=
  g.pres.foldl (fun (acc : Option Group) p => acc.bind fun h => (s.setGroup h).noteCmd h p.cmd) (some h)

/-- A loading group whose preloads can complete: with them made, and their reads noted. A group that loads keeps the cycle of its
dispatch as the start of its measures. -/
def State.preloadDone (s : State) (gi : Nat) : Option PreRun :=
  match s.preloadNow gi, s.group? gi with
  | some (_, x), some g =>
    if x.bad.isSome || decide (s.cycle < g.meas.start + g.preloadTime) then none
    else (s.notePres g x.g).map fun h => { x with g := h }
  | _, _ => none

/-- PRELOAD_COMPLETE (08 R164, 01 R10). -/
def execPreloadComplete (gi : Nat) (s : State) : Out :=
  match s.preloadDone gi with
  | some x => .next (x.s.setGroup (x.s.startTeams x.g))
  | none => .next s

/-- The fault of a loading group's preloads: met now, or held while the group is speculative. -/
def State.preFaultNow (s : State) (gi : Nat) : Option (Group × Cause × DWord) :=
  match s.group? gi with
  | none => none
  | some g =>
    match g.status, g.preFault with
    | .loading, some f => if s.isSpec g then none else some (g, f.1, f.2)
    | .loading, none => match s.preloadNow gi with
      | some (_, x) => x.bad.map fun e => (g, e.1, e.2)
      | none => none
    | _, _ => none

/-- PRELOAD_FAULT (08 R164, 20 R313): recorded with the end of the group, or held in a speculative one (12 R227). -/
def execPreloadFault (gi : Nat) (s : State) : Out :=
  match s.preFaultNow gi with
  | some (g, cause, a) =>
    if s.isSpec g then .next (s.setGroup { g with preFault := some (cause, a) })
    else .next (s.endGroup gi cause noTeamWord 0#64 a)
  | none => .next s

/-- Whether a group's postload checks are to be made: its teams have ended, and it is not speculative (12 R227). -/
def State.postDue (s : State) (gi : Nat) : Bool :=
  (s.groupChart? gi).any fun q =>
    q.1.status == .ended && q.1.posts.isNone && q.2.post.any Option.isSome && !s.isSpec q.1

/-- POSTLOAD_CHECK_DONE (08 R164). -/
def execPostloadCheckDone (gi : Nat) (s : State) : Out :=
  s.when (s.postDue gi) fun s =>
    match s.groupChart? gi with
    | none => s
    | some (g, c) =>
      match (s.launch? g.launch).bind fun l => s.image? l.image with
      | none => s
      | some im =>
        let s := s.metRecords im (c.post.filterMap fun p => p.map Prod.fst)
        let ks := c.post.map fun p => p.map fun q => s.postCheck im c g q.1 q.2
        let as := ks.flatMap fun k => match k with
          | none => []
          | some k => ((LRec.ofBits k.lrec).drainMap 0).map Prod.fst
        (s.translateAll g.launch g.die g.core as).setGroup { g with posts := some ks }

/-- Whether a group's final commit may be made (08 R164, 11 R204). -/
def State.finalDue (s : State) (gi : Nat) : Bool :=
  (s.group? gi).any fun g => g.status == .ended && g.handles.all (fun h => h.fault.isNone) && s.commitReady gi true

/-- Main-memory bytes that a group's final commit moves (08 R157). -/
def Group.finalBytes (g : Group) (c : Chart) : Nat :=
  g.drainBytes + (g.goodPosts c).foldl (fun n p => n + (LRec.ofBits p.1).indices.length * (LRec.ofBits p.1).es) 0

/-- A group's final commit made: it leaves the active groups, and the measures that it has filed hold what it has moved (08 R157). -/
def State.finalCommit (s : State) (gi : Nat) : State :=
  let s := match s.groupChart? gi with
    | some (g, c) => s.refile g fun m => some { m with bytes := g.meas.bytes + g.finalBytes c }
    | none => s
  let s := s.groupCommit gi true
  match s.group? gi with
  | none => s
  | some g => s.setGroup { g.cleared with status := .done, written := g.written }

/-- GROUP_COMMIT (11 R204, 08 R164): the group's final one. -/
def execGroupCommit (gi : Nat) (s : State) : Out := s.when (s.finalDue gi) fun s => s.finalCommit gi

/-! ### Bins and the frontier -/

/-- The timer of a set of a bin that has expired (12 R223). -/
def State.timerNow (s : State) (lid die node : Nat) (ts : DWord) : Option (Launch × Image × Option DWord) :=
  match s.launch? lid with
  | none => none
  | some l =>
    match s.rootChart l, s.image? l.image with
    | some c, some im =>
      let k : Option DWord := if c.ordered then some ts else none
      match (l.bin die node).timers.find? fun t => t.1 == k, im.nodes[node]? with
      | some t, some (_, n) => if l.phase == .dispatching && s.islandOn (ctlIsland die) && decide (t.2 + n ≤ s.cycle) then some (l, im, k) else none
      | _, _ => none
    | _, _ => none

/-- BIN_TIMER_EXPIRY (12 R223). -/
def execBinTimerExpiry (lid die node : Nat) (ts : DWord) (s : State) : Out :=
  match s.timerNow lid die node ts with
  | some (l, im, k) => .next (s.binLaunch l im die node k)
  | none => .next s

/-- A report of a die entered at the home share: its least key, and the groups that it has received, which it alone reports from
now on (12 R232). -/
def Launch.takeReport (l : Launch) (die : Nat) (k : Key) (got : List Nat) : Launch :=
  { l with reports := l.reports.set die k, transit := l.transit.filter fun t => !(t.2.2 == die && got.contains t.1) }

/-- Whether a die's report is due (12 R232). -/
def State.reportDue (s : State) (lid die : Nat) : Bool :=
  s.islandOn (ctlIsland die) && (s.launch? lid).any fun l =>
    (s.rootChart l).any Chart.ordered && l.phase == .dispatching && l.dies.contains die && decide (nth l.reported die + 256 ≤ s.cycle)

/-- FRONTIER_REPORT (12 R232): to the home die; with its share's count, to every die of the set (21 R331). -/
def execFrontierReport (lid die : Nat) (s : State) : Out :=
  s.when (s.reportDue lid die) fun s =>
    match s.launch? lid, s.rootChart <$> s.launch? lid with
    | some l, some (some c) =>
      let k := s.dieLeast l c die
      let got := (l.transit.filter fun t => t.2.2 == die && (s.group? t.1).any fun g => g.die == die).map Prod.fst
      let l := { l with reported := l.reported.set die s.cycle }
      let l := if die = l.home then l.takeReport die k got else l
      (l.dies.filter (· != die)).foldl (fun s d => s.send die d (.report lid die k got (l.share die).length)) (s.setLaunch l)
    | _, _ => s

/-- The frontier that a die comes to hold (12 R231, R232): it never decreases. The groups that head it are speculative no more
(R224), the bins that hold it launch (R230), and a copy fault held at a group's end ends the group (16 R273). -/
def State.frontierAt (s : State) (lid die : Nat) (k : Key) : State :=
  match s.launch? lid with
  | none => s
  | some l =>
    if k.toNat ≤ (l.frontAt die).toNat then s
    else
      let s := s.setLaunch { l with front := l.front.set die k }
      let heads (g : Group) : Bool := g.launch == lid && g.die == die && g.key == k && g.activeG
      let ids := (s.groups.filter heads).map Group.gid
      let s := { s with groups := s.groups.map fun g => if heads g then { g with nonspec := true } else g }
      (ids.foldl State.endCheck s).binsFlush lid die

/-- The minimum of the dies' latest reports (12 R232, step 4). -/
def Launch.least (l : Launch) : Key := l.dies.foldl (fun k d => minKey k ((l.reports[d]?).getD Key.none)) Key.none

/-- Whether the home share has a frontier to send. -/
def State.frontierDue (s : State) (lid : Nat) : Bool :=
  (s.launch? lid).any fun l =>
    s.islandOn (ctlIsland l.home) && (s.rootChart l).any Chart.ordered && l.phase == .dispatching && decide ((l.frontAt l.home).toNat < l.least.toNat)

/-- FRONTIER_UPDATE (12 R232): the home die holds the new frontier, and every other die is sent it. -/
def execFrontierUpdate (lid : Nat) (s : State) : Out :=
  s.when (s.frontierDue lid) fun s =>
    match s.launch? lid with
    | none => s
    | some l =>
      let s := (l.dies.filter (· != l.home)).foldl (fun s d => s.send l.home d (.frontier lid l.least)) s
      s.frontierAt lid l.home l.least

/-! ### Parked continuations -/

/-- The continuation enters dispatch (12 R235): at the head of the share of its die (21 R332). -/
def State.unpark (s : State) (g : Group) : State := (s.setGroup { g with status := .share, saved := true }).requeueGroup g

/-- A parked group whose launch dispatches. -/
def State.parkedAt (s : State) (gi : Nat) (p : Launch → Group → Parked → Bool) : Bool :=
  (s.group? gi).any fun g => g.status == .parked && (s.launch? g.launch).any fun l =>
    l.phase == .dispatching && g.parked.any fun k => p l g k

/-- Whether a gpark.timer has expired (12 R235). -/
def State.parkTimerDue (s : State) (gi : Nat) : Bool :=
  s.parkedAt gi fun _ _ k => match k.on with
    | .timer n => decide (k.since + n.toNat ≤ s.cycle)
    | _ => false

/-- GPARK_TIMER_EXPIRY (12 R235). -/
def execGparkTimerExpiry (gi : Nat) (s : State) : Out :=
  s.when (s.parkTimerDue gi) fun s =>
    match s.group? gi with
    | none => s
    | some g => s.unpark g

/-- The committed word that .signal watches, on a die (12 R235); an address that no region covers reads an open value. -/
def Launch.signalWord (l : Launch) (die : Nat) (a : DWord) : Word :=
  let n := a.toNat
  if n < 2 ^ 32 ∧ n / 2 ^ 22 % 16 = 0 ∧ n % 2 ^ 22 + 4 ≤ l.dsize then BitVec.ofNat 32 (leNat (l.region.readN (regionKey die n) 4))
  else Config.strayWord a

/-- Whether a parked continuation's event, other than a timer's, has occurred (12 R235). -/
def State.parkDue (s : State) (gi : Nat) : Bool :=
  s.parkedAt gi fun l g k => match k.on with
    | .hstate h m => ((g.handles[h.toNat]?).map fun v => m.getLsbD v.st.code).getD false
    | .qne _ => true
    | .signal _ c => l.signalWord g.die k.addr != c
    | .timer _ => false

/-- CONTINUATION_RESUME (12 R235). -/
def execContinuationResume (gi : Nat) (s : State) : Out :=
  s.when (s.parkDue gi) fun s =>
    match s.group? gi with
    | none => s
    | some g => s.unpark g

/-! ### Pre-emption -/

/-- Whether a group can be pre-empted: it loads or runs (20 R318); a parked one and one that has ended are not (R324). -/
def State.preemptable (s : State) (gi : Nat) : Bool :=
  (s.group? gi).any fun g => g.status == .running || g.status == .loading

/-- PREEMPT (20 R316, R318): at any request of the service's. -/
def execPreempt (gi : Nat) (s : State) : Out := s.when (s.preemptable gi) fun s => s.preemptGroup gi

/-- Whether a group's grace has expired (20 R316): it is pre-empted then, or its teams stop for it where what they have begun is to be
waited for (R318). -/
def State.graceDue (s : State) (gi : Nat) : Bool :=
  s.preemptable gi && (s.group? gi).any fun g =>
    g.grace.any (fun t => decide (t ≤ s.cycle)) && (!g.stop || s.quiet gi || s.isSpec g || g.status == .loading)

/-- PREEMPT_GRACE_EXPIRY (20 R316). -/
def execPreemptGraceExpiry (gi : Nat) (s : State) : Out := s.when (s.graceDue gi) fun s => s.preemptGroup gi

end Sys2Proof.Machine
end

