-- ==== Sys2Proof/Machine/NetEvents.lean ====
section
/-!
DEFINITION. Steps of the on-package network (21 R336 to R339). Two network cycles pass in one reference cycle (R342: 1.6 GHz and 800 MHz).
-/
namespace Sys2Proof.Machine

/-- Whether two packets carry reports, or stripes, that the receiving unit takes in the order of their sending (21 R329, R336). -/
def Parcel.sameStream : Parcel → Parcel → Bool
  | .counts l d _, .counts l' d' _ => l == l' && d == d'
  | .report l d _ _ _, .report l' d' _ _ _ => l == l' && d == d'
  | .stripe l _, .stripe l' _ => l == l'
  | .frontier l _, .frontier l' _ => l == l'
  | _, _ => false

/-- Whether an older packet of the same reports is still on its way. -/
def State.overtakes (s : State) (p : Packet) : Bool :=
  s.packets.any fun q => decide (q.id < p.id) && q.src == p.src && q.dst == p.dst && q.what.sameStream p.what

/-- What a packet brings about at its destination (08 R157, 12 R232, 21 R329, R331). -/
def State.received (s : State) (p : Packet) : State :=
  let onLaunch (l : Nat) (f : Launch → Launch) : State := match s.launch? l with
    | none => s
    | some x => s.setLaunch (f x)
  match p.what with
  | .stripe l gs => s.arrive l p.dst gs
  | .stealReq l thief => onLaunch l fun x =>
      if x.phase == .dispatching then { x with inbox := x.inbox ++ [(p.dst, s.cycle, thief)] } else x
  | .stealRep l gs => onLaunch l fun x => { x with replies := x.replies ++ [(p.dst, gs)] }
  | .counts l d n => onLaunch l fun x => x.hear p.dst d n
  | .report l d k got n => onLaunch l fun x => (if p.dst = x.home then x.takeReport d k got else x).hear p.dst d n
  | .frontier l k => s.frontierAt l p.dst k
  | .measure l m v => onLaunch l fun x => { x with held := holdMeas (m, v) x.held }

/-- Whether a packet must wait for others (21 R329, R333, R336): an older one of its stream, or, where it brings groups, the operations
of the cycle that the distributor serves first. -/
def State.held (s : State) (p : Packet) : Bool :=
  s.overtakes p || (match p.what with
    | .stripe l _ => s.arriveLate l p.dst
    | _ => false)

/-- PACKET_DELIVERY (21 R338). -/
def execPacketDelivery (id : Nat) (s : State) : Out :=
  match s.deliverable id with
  | none => .next s
  | some p =>
    if s.held p then .next s
    else .next ((p.route.foldl State.touch { s with packets := s.packets.filter fun q => q.id != id }).received p)

/-- The reference cycle of the next drain point (21 R337). -/
def State.nextDrain (s : State) : Nat := (s.drains + 1) * 32768

/-- Whether a drain point has come: its routers are up. -/
def State.drainDue (s : State) : Bool :=
  s.drain.isNone && decide (s.nextDrain ≤ s.cycle) && s.routers.all fun r => s.routerUp (r.1 / 64, r.1 % 64)

/-- DRAIN_POINT (21 R337): a phase of 1,024 reference cycles from the drain point on. -/
def execDrainPoint (s : State) : Out :=
  s.when s.drainDue fun s => { s with drain := some (s.nextDrain + 1024), drains := s.drains + 1 }

/-- Whether a drain phase has ended. -/
def State.drainEnded (s : State) : Bool := s.drain.any fun t => decide (t ≤ s.cycle)

/-- Whether a packet's delivery may wait no longer: the drain phase that found it in the network ends (21 R337), or 131,072 network cycles
have passed since its acceptance (R338). -/
def State.overdue (s : State) (p : Packet) : Bool :=
  decide (p.at_ + 65536 ≤ s.cycle) || s.drain.any fun t => decide (t ≤ s.cycle ∧ p.at_ < t)

/-- The step that brings on the delivery of a packet: its own, or an operation of the distributor that comes before it (21 R333). -/
def State.urge (s : State) (p : Packet) : Option Instr :=
  if (s.deliverable p.id).isSome && !s.held p then some (.packetDelivery p.id)
  else match p.what with
  | .stripe l _ =>
    (((List.range 64).find? fun k => (s.draw l p.dst k).isSome).map fun k => .shareDraw l p.dst k) <|>
    (if s.serveDue l p.dst then some (.stealServe l p.dst) else none)
  | _ => none

/-- DRAIN_PHASE_END (21 R337): no router was idle during the phase. -/
def execDrainPhaseEnd (s : State) : Out :=
  s.when s.drainEnded fun s =>
    { s with drain := none, routers := s.routers.map fun r => (r.1, { r.2 with idle := max r.2.idle s.cycle }) }

/-- Whether a drain point is within the 16 reference cycles for which every router is woken (21 R339). -/
def State.drainNear (s : State) : Bool := s.drain.isSome || decide (s.nextDrain ≤ s.cycle + 16)

/-- Whether a router has been idle for 1,024 network cycles (21 R339). -/
def State.sleepy (s : State) (die core : Nat) : Bool :=
  let r := s.router die core
  decide (r.idle + 512 ≤ s.cycle) && decide (die < 4) && decide (core < 64) && !r.down && s.routerUp (die, core) && !s.drainNear &&
  !s.routed (die, core)

/-- ROUTER_POWER_DOWN (21 R339). -/
def execRouterPowerDown (die core : Nat) (s : State) : Out :=
  s.when (s.sleepy die core) fun s => s.setRouter die core { down := true, idle := s.cycle, waking := none }

/-- Whether a router that is down is signalled, or a drain point is near (21 R339). -/
def State.wakeDue (s : State) (die core : Nat) : Bool :=
  (s.router die core).down && (s.routed (die, core) || s.drainNear)

/-- ROUTER_WAKE (21 R339): ready 32 network cycles on. -/
def execRouterWake (die core : Nat) (s : State) : Out :=
  s.when (s.wakeDue die core) fun s => s.setRouter die core { down := false, idle := s.cycle, waking := some (s.cycle + 16) }

end Sys2Proof.Machine
end

