-- ==== Sys2Proof/Machine/Islands.lean ====
section
/-!
DEFINITION. Steps of the voltage and frequency islands (21 R341 to R343) and of the matrix quarters' ramps (17 R299).
-/
namespace Sys2Proof.Machine

/-! ### Points -/

/-- One point down, and up. -/
def Point.lower : Point → Point
  | .f0 => .f1
  | .f1 => .f2
  | .f2 | .off => .off

def Point.raise : Point → Point
  | .off => .f2
  | .f2 => .f1
  | .f1 | .f0 => .f0

/-- The code of a point (21 R342). -/
def Point.code : Point → Nat
  | .f0 => 0
  | .f1 => 1
  | .f2 => 2
  | .off => 3

/-- Die, core and slot of a slot island. -/
def islandDie (i : Nat) : Nat := i / 256
def islandCore (i : Nat) : Nat := i / 4 % 64
def islandSlot (i : Nat) : Nat := i % 4

/-- The groups with a team on a slot island. -/
def State.groupsOn (s : State) (i : Nat) : List Group :=
  (s.residents (islandDie i) (islandCore i)).filter fun g => g.teams.any fun t => t.phase != .ended && t.slot == islandSlot i

/-- A slot island turned off. -/
def State.turnOff (s : State) (i : Nat) : State :=
  s.setSlot i { (s.slotOf i).repoint .off s.cycle with changing := none, leaving := false }

/-- A slot island moved to a point (21 R342): issue stops for at most 1,600 reference cycles. At OFF its groups are pre-empted, and it
turns off once its last team has left, whatever steps it makes till then. -/
def State.toPoint (s : State) (i : Nat) (p : Point) : State :=
  let x := s.slotOf i
  if x.point = p then s
  else if p = .off then
    let s := ((s.groupsOn i).map Group.gid).foldl State.preemptGroup s
    if (s.groupsOn i).isEmpty then s.turnOff i else s.setSlot i { s.slotOf i with leaving := true }
  else s.setSlot i { x.repoint p s.cycle with changing := some (s.cycle + 1600) }

/-- Whether an island that is to turn off has lost its last team. -/
def State.vacant (s : State) (i : Nat) : Bool := (s.slotOf i).leaving && (s.groupsOn i).isEmpty

/-- Whether a change of point is under way that may be done. -/
def State.pointDue (s : State) (i : Nat) : Bool := (s.slotOf i).changing.isSome || s.vacant i

/-- ISLAND_POINT_CHANGE_DONE (21 R342): within 1,600 reference cycles; of an island that turns off, once its last team has left. -/
def execIslandPointChangeDone (slot : Nat) (s : State) : Out :=
  s.when (s.pointDue slot) fun s =>
    if s.vacant slot then s.turnOff slot else s.setSlot slot { s.slotOf slot with changing := none }

/-! ### The controller's period -/

/-- The lowest and the highest priority class of an island's teams; `none` where it holds none. -/
def State.islandClass (s : State) (i : Nat) : Option (Nat × Nat) :=
  (s.groupsOn i).foldl (fun acc g =>
    let p := ((s.launch? g.launch).map s.prioOf).getD 0
    match acc with
    | none => some (p, p)
    | some (a, b) => some (min a p, max b p)) none

/-- Whether an island holds a team of a task that heads a frontier (21 R343). -/
def State.frontIsland (s : State) (i : Nat) : Bool :=
  (s.groupsOn i).any fun g => (s.launch? g.launch).any fun l => (s.chartOf l g).any fun c => l.headsFrontier c g

/-- The islands with teams, ascending. -/
def State.busyIslands (s : State) : List Nat :=
  sortOn id ((s.groups.filter Group.resident).flatMap fun g =>
    (g.teams.filter fun t => t.phase != .ended).map fun t => slotKey g.die g.core t.slot).eraseDups

/-- The order in which the controller steps islands down for power: those of the lowest class present, ascending, the frontier's
last (21 R343). -/
def State.stepOrder (s : State) : List Nat :=
  let busy := s.busyIslands
  let low := busy.foldl (fun n i => match s.islandClass i with
    | none => n
    | some (a, _) => min n a) 4
  let mine := busy.filter fun i => s.islandClass i == some (low, low)
  (mine.filter fun i => !s.frontIsland i) ++ mine.filter s.frontIsland

/-- Whether an island can make a step down for power (21 R343): it does not stand at its lowest already, about to turn off, and is not too
hot, which makes its one step of the period for that. -/
def Slot.canStepDown (x : Slot) : Bool := !x.hot && x.point != .off && !(x.leaving && x.point == .f2)

/-- A step down for power (21 R343): to OFF from the lowest point, its groups pre-empted (notes/assumptions/9.md). -/
def State.powerDown (s : State) (i : Nat) : State :=
  let x := s.slotOf i
  if x.canStepDown then s.toPoint i x.point.lower else s

/-- Whether an island can make a step up (21 R343): it stands below its cap, or is about to turn off with a higher cap, and is not too
hot. -/
def Slot.canStepUp (x : Slot) : Bool := !x.hot && (if x.leaving then x.cap != .off else decide (x.cap.code < x.point.code))

/-- A step up, never above the cap: an island that was about to turn off stays at its point. -/
def State.powerUp (s : State) (i : Nat) : State :=
  let x := s.slotOf i
  if !x.canStepUp then s else if x.leaving then s.setSlot i { x with leaving := false } else s.toPoint i x.point.raise

/-- A temperature read (21 R343): passing 105 °C makes an island hot until it falls below 100 °C. -/
def Slot.sense (x : Slot) (t : Nat) : Slot := { x with temp := t, hot := if 105 < t then true else if t < 100 then false else x.hot }

/-- The islands below their caps, in the order of `stepOrder` continued by those that hold no team of the lowest class. -/
def State.upOrder (s : State) : List Nat :=
  let rest := (s.slots.map Prod.fst).filter fun i => !s.stepOrder.contains i
  (s.stepOrder ++ rest).reverse

/-- Whether the controller's period has passed (21 R343). -/
def State.tickDue (s : State) : Bool := decide (s.islandAt + 8000 ≤ s.cycle)

/-- ISLAND_CONTROL_TICK (21 R343), the estimate and the temperatures given; how many islands a step needs, at least one, is an
open value (notes/assumptions/2.md). -/
def execIslandControlTick (watts : Nat) (temps : List (Nat × Nat)) (s : State) : Out :=
  s.when s.tickDue fun s =>
    let s := { s with islandAt := s.islandAt + 8000 }
    let s := temps.foldl (fun s p => if p.1 < 1024 then s.setSlot p.1 ((s.slotOf p.1).sense p.2) else s) s
    let n := max 1 (Config.stepCount s.fresh)
    let s :=
      if s.limit < watts then (((s.stepOrder.filter fun i => (s.slotOf i).canStepDown).take n).foldl State.powerDown s).bump
      else if watts * 100 < s.limit * 95 then (((s.upOrder.filter fun i => (s.slotOf i).canStepUp).take n).foldl State.powerUp s).bump
      else s
    ((s.slots.filter fun e => e.2.hot).map Prod.fst).foldl (fun s i => s.toPoint i (s.slotOf i).point.lower) s

/-! ### RETAIN -/

/-- Whether something of a die asks for a row, network or control island (21 R342): a launch that dispatches or is to start, a packet, a
group. -/
def State.islandAsked (s : State) (i : Nat) : Bool :=
  let d := (i - 1024) / 10
  let k := (i - 1024) % 10
  let live := s.launches.any fun l =>
    l.dies.contains d && (l.phase == .dispatching || (l.phase == .admitted && s.predsDone l.preds))
  let here := s.groups.filter fun g => g.resident && g.die == d
  if k = 8 then live || !here.isEmpty || s.packets.any fun p => p.route.any fun r => r.1 == d
  else if k = 9 then live || !here.isEmpty || s.packets.any fun p => p.dst == d
  else live || here.any fun g => g.core / 8 == k

/-- Whether an island in RETAIN is to return to ON. -/
def State.retainWakeDue (s : State) (i : Nat) : Bool := s.retain.contains i && s.islandAsked i

/-- RETAIN_WAKE (21 R342): ON within 2 µs. -/
def execRetainWake (island : Nat) (s : State) : Out :=
  s.when (s.retainWakeDue island) fun s =>
    { s with retain := NSet.del s.retain island, waking := (s.waking.filter fun w => w.1 != island) ++ [(island, s.cycle + 1600)] }

/-- Whether an island may go into RETAIN: it is one of the 40, it is ON, and nothing asks for it. -/
def State.retainEntryDue (s : State) (i : Nat) : Bool :=
  decide (1024 ≤ i ∧ i < 1064) && s.islandOn i && !s.islandAsked i

/-- RETAIN_ENTRY (21 R342). -/
def execRetainEntry (island : Nat) (s : State) : Out :=
  s.when (s.retainEntryDue island) fun s =>
    { s with retain := NSet.add s.retain island, waking := s.waking.filter fun w => w.1 != island }

/-! ### Ramps -/

/-- Whether a slot's matrix quarters go idle (17 R299): 32 cycles without a pass after the last one, and no hold. -/
def State.rampDue (s : State) (i : Nat) : Bool :=
  (s.slotOf i).matLast.isSome && s.quartersIdle i ((s.slotOf i).clock s.cycle)

/-- MATRIX_RAMP_IDLE (17 R299). -/
def execMatrixRampIdle (slot : Nat) (s : State) : Out :=
  s.when (s.rampDue slot) fun s => s.setSlot slot { s.slotOf slot with matLast := none }

/-- Whether an mburst's hold has lasted 4,096 cycles (17 R299). -/
def State.burstDue (s : State) (gi ti : Nat) : Bool :=
  s.runs gi ti fun g t => t.burst.any fun b => decide (b.since + 4096 ≤ s.clockOf g t)

/-- MBURST_HOLD_EXPIRY (17 R299). -/
def execMburstHoldExpiry (gi ti : Nat) (s : State) : Out :=
  s.when (s.burstDue gi ti) fun s => s.onTeam gi ti fun _ t => { t with burst := none }

end Sys2Proof.Machine
end

