-- ==== Sys2Proof/Machine/CoreEvents.lean ====
section
/-!
DEFINITION. Steps of the service and of the device on cores: core reset (21 R340), scrubbing (10 R181), translation misses (10 R192),
sampling (22 R361), module reset (22 R360), and dropped packets (22 R345).
-/
namespace Sys2Proof.Machine

/-- Times within 2^30 cycles of now. -/
def recent (now : Nat) (ts : List Nat) : List Nat := ts.filter fun t => decide (now < t + 2 ^ 30)

/-- A core taken out of placement (10 R181). -/
def State.removeCore (s : State) (die core : Nat) : State :=
  let k := s.core die core
  if k.removed then s else (s.setCore die core { k with removed := true }).logErr .coreRemoved die core 0 []

/-! ### Core reset -/

/-- What a reset makes of a group on the core (21 R340). The fault entry of one that has committed names team 0xFFFFFFFF and address 0
(notes/assumptions/80.md, DESIGN CHOICE). -/
def State.resetGroup (s : State) (g : Group) : State :=
  if !s.isSpec g && g.committed then s.endGroup g.gid Cause.rollbackUnavailable noTeamWord 0#64 0#64 else s.abortGroup g.gid

/-- Whether a core can be reset: it is one, and no reset of it is under way. -/
def State.resetDue (s : State) (die core : Nat) : Bool :=
  decide (die < 4 ∧ core < 64) && (s.core die core).reset.isNone

/-- CORE_RESET (21 R340): the drawn groups return, the groups on the core are aborted or ended, the reset is logged, and the third
within 2^30 cycles takes the core out of placement. -/
def execCoreReset (die core : Nat) (s : State) : Out :=
  s.when (s.resetDue die core) fun s =>
    let gs := s.residents die core
    let s := (s.launches.map Launch.id).foldl (fun s l => s.returnLocal l die core) s
    let s := gs.foldl (fun s g => if ((s.group? g.gid).map Group.resident).getD false then s.resetGroup g else s) s
    let k := s.core die core
    let times := recent s.cycle k.resets ++ [s.cycle]
    let s := s.setCore die core { k with reset := some (s.cycle + 40000), resets := times }
    let s := s.logErr .coreReset die core 0 (gs.map Group.key)
    if 3 ≤ times.length then s.removeCore die core else s

/-- Whether a core is being reset. -/
def State.resetOn (s : State) (die core : Nat) : Bool := (s.core die core).reset.isSome

/-- CORE_RESET_END (21 R340): within 50 µs. -/
def execCoreResetEnd (die core : Nat) (s : State) : Out :=
  s.when (s.resetOn die core) fun s => s.setCore die core { s.core die core with reset := none }

/-! ### Scrubbing -/

/-- An entry of a list with a word poisoned. -/
def poisonEntry (es : List Entry) (k w : Nat) : List Entry :=
  match es[k]? with
  | none => es
  | some e => if w < 8 then es.set k { e with poi := NSet.add e.poi w } else es

/-- A copy of a checkpoint poisoned, where the checkpoint holds it (11 R199). -/
def Ckpt.poison (k : Ckpt) : CkptCopy → Ckpt
  | .v l r =>
    if r < k.n then let d : VReg := { val := 0#32, poi := false }; { k with v := Store.put d k.v (vKey l r) { Store.get d k.v (vKey l r) with poi := true } }
    else k
  | .p l r =>
    if r < 48 then let d : PReg := { val := false, poi := false }; { k with p := Store.put d k.p (pKey l r) { Store.get d k.p (pKey l r) with poi := true } }
    else k
  | .s r =>
    if r < 64 then let d : SReg := { val := 0#64, poi := false }; { k with s := Store.put d k.s r { Store.get d k.s r with poi := true } } else k

/-- The poison mark that an uncorrectable word takes (10 R181, R182), where the place holds state on the core; a word of main memory is
met when a copy reads it (10 R193). -/
def State.poisonAt (s : State) (die core : Nat) (p : EccPlace) : State :=
  let onGroup (gi : Nat) (f : Group → Group) : State := match s.group? gi with
    | some g => if g.resident && g.die == die && g.core == core then s.setGroup (f g) else s
    | none => s
  let onTeam (gi ti : Nat) (f : Team → Team) : State := onGroup gi fun g => match g.team? ti with
    | some t => g.setTeam (f t)
    | none => g
  match p with
  | .window gi w => onGroup gi fun g => { g with wpois := NSet.add g.wpois w }
  | .handle gi w => onGroup gi fun g => { g with hpois := NSet.add g.hpois w }
  | .spill gi ti w => onTeam gi ti fun t => { t with spois := NSet.add t.spois w }
  | .buffer gi ti k w => onTeam gi ti fun t => { t with buf := poisonEntry t.buf k w }
  | .area gi k w => onGroup gi fun g => { g with carea := poisonEntry g.carea k w }
  | .region li w => match s.launch? li with
    | some l =>
      if l.live && l.dies.contains die && decide (w * 8 < l.dsize) then
        s.setLaunch { l with rpois := NSet.add l.rpois ((die * 2 ^ 28 + core * 2 ^ 22) / 8 + w) }
      else s
    | none => s
  | .ckpt gi ti cs => onTeam gi ti fun t => { t with ckpt := cs.foldl Ckpt.poison t.ckpt }
  | .idle => s
  | .dram a => { s with mbad := NSet.add s.mbad (a / 8) }

/-- An uncorrectable error of a core's scratchpad counted: the sixteenth within 2^30 cycles takes the core out of placement. -/
def State.countErr (s : State) (die core : Nat) : State :=
  let k := s.core die core
  let times := recent s.cycle k.errs ++ [s.cycle]
  let s := s.setCore die core { k with errs := times }
  if 16 ≤ times.length then s.removeCore die core else s

/-- Whether a word can stand at its offset (10 R177): in the scratchpad, at a multiple of 8; a word of an area that begins at a multiple of
1 KiB where the area's place, once it has been shown, puts it; the copies of a checkpoint that one word holds fill at most 64 bits. What
the spec says of no other place is free (notes/assumptions/40.md). -/
def Core.holds (k : Core) (word : EccWord) : Bool :=
  decide (word.ofs < scratchBytes) && word.ofs % 8 == 0 &&
  (match word.place.area? with
   | none => true
   | some (a, w) => decide (8 * w ≤ word.ofs) && (word.ofs - 8 * w) % 1024 == 0 &&
      (k.bases.find? fun b => b.1 == a).all fun b => b.2 == word.ofs - 8 * w) &&
  (match word.place with
   | .ckpt _ _ cs => decide (cs.foldl (fun n c => n + c.bits) 0 ≤ 64)
   | _ => true)

/-- The place of an area noted. -/
def Core.noteBase (k : Core) (word : EccWord) : Core :=
  match word.place.area? with
  | none => k
  | some (a, w) => { k with bases := (a, word.ofs - 8 * w) :: k.bases.filter fun b => b.1 != a }

/-- SCRUB (10 R181): a single-bit error is corrected and counted; an uncorrectable one poisons the word; the log names the word by its
offset in the core's scratchpad. A word of main memory is logged when a copy meets it (10 R193). -/
def execScrub (die core : Nat) (word : EccWord) (double : Bool) (s : State) : Out :=
  match word.place with
  | .dram _ => s.when double fun s => s.poisonAt die core word.place
  | _ =>
    s.when (decide (die < 4 ∧ core < 64) && (s.core die core).holds word) fun s =>
      let s := s.setCore die core ((s.core die core).noteBase word)
      if !double then s.logErr .corrected die core word.ofs []
      else
        let s := (s.poisonAt die core word.place).logErr .uncorrectable die core word.ofs []
        (s.logErr .poison die core word.ofs []).countErr die core

/-! ### Translation -/

/-- Whether a core's engines miss a mapped page of a launch's (10 R192). -/
def State.missDue (s : State) (lid die core va : Nat) : Bool :=
  decide (die < 4 ∧ core < 64) && (s.launch? lid).isSome &&
  (s.page? va).any fun p => !(s.core die core).tcache.contains p.va

/-- TRANSLATION_MISS (10 R192). -/
def execTranslationMiss (lid die core va : Nat) (s : State) : Out :=
  s.when (s.missDue lid die core va) fun s => ((s.page? va).map (s.miss lid die core)).getD s

/-! ### Samples -/

/-- The running teams of a launch on a die. -/
def State.runningOn (s : State) (lid die : Nat) : List (Group × Team) :=
  ((s.groupsOf lid).filter fun g => g.status == .running && g.die == die).flatMap fun g =>
    (g.teams.filter fun t => t.phase == .running).map fun t => (g, t)

/-- Whether a launch's sample period has passed on a die (22 R350, R361). -/
def State.sampleDue (s : State) (lid die : Nat) : Bool :=
  (s.launch? lid).any fun l =>
    l.phase == .dispatching && l.dies.contains die && decide (0 < l.sample ∧ nth l.sampled die + l.sample ≤ s.cycle)

/-- The entry of a team's sample. -/
def State.sampleOf (s : State) (lid : Nat) (g : Group) (t : Team) : BkptEntry :=
  { launch := lid, key := g.key, team := t.idx, pc := t.pc, depth := t.mstack.length, mask := t.mask, spec := s.isSpec g
    sample := true }

/-- SAMPLE_TICK (22 R361): one running team of the launch on a die; which one is the service's choice, `pick`. -/
def execSampleTick (lid die pick : Nat) (s : State) : Out :=
  s.when (s.sampleDue lid die) fun s =>
    match s.launch? lid with
    | none => s
    | some l =>
      let s := s.setLaunch { l with sampled := l.sampled.set die (nth l.sampled die + l.sample) }
      let ts := s.runningOn lid die
      match ts[pick % ts.length]? with
      | none => s
      | some (g, t) => { s with bkptlog := s.bkptlog.push (s.sampleOf lid g t) }

/-! ### The module -/

/-- MODULE_RESET (22 R345, R360; 01 R15): the state of reset, the schedule's own apart. -/
def execModuleReset (s : State) : Out := .next { State.reset with agenda := s.agenda, fresh := s.fresh }

/-- UNSUPPORTED_PACKET (22 R345): dropped and counted. -/
def execUnsupportedPacket (port : Nat) (s : State) : Out := .next (s.logErr .dropped 0 port 0 [])

end Sys2Proof.Machine
end

