-- ==== Sys2Proof/Machine/Scalar.lean ====
section
/-!
DEFINITION. The scalar class (05 R94 to R97): scalar arithmetic, special registers (01 R12 to R15, 08 R152, 12 R233), and the moves
between scalars and lanes.
-/
namespace Sys2Proof

/-- A count of 64 or more shifts everything out (05 R94). -/
def sshl64 (a k : DWord) : DWord := if 64 ≤ k.toNat then 0#64 else a <<< k.toNat
def sshr64 (a k : DWord) : DWord := if 64 ≤ k.toNat then 0#64 else a >>> k.toNat

/-- ssar (05 R94): `sgn` reads the count as s64, and a negative one shifts left. -/
def ssar64 (sgn : Bool) (a k : DWord) : DWord :=
  if sgn && k.msb then sshl64 a (-k) else a.sshiftRight (min k.toNat 63)

/-- The condition of scmp (05 R94). -/
def scmpHolds (sub : BitVec 3) (a b : DWord) : Bool :=
  match sub.toNat with
  | 0 => a == b
  | 1 => a != b
  | 2 => decide (a.toInt < b.toInt)
  | 3 => decide (b.toInt ≤ a.toInt)
  | 4 => decide (a.toNat < b.toNat)
  | _ => decide (b.toNat ≤ a.toNat)

/-- The smaller or larger of two scalars; `nn` reads them as non-negative (05 R94). -/
def spick (min nn : Bool) (a b : DWord) : DWord :=
  let less := if nn then decide (a.toNat < b.toNat) else decide (a.toInt < b.toInt)
  if less == min then a else b

end Sys2Proof

namespace Sys2Proof.Machine

namespace Ctx

/-- A scalar instruction of sources a and b: its result, and the instruction done (05 R94). -/
def sclBin (x : Ctx) (o : SOp) (f : DWord → DWord → DWord) : Out :=
  let a := x.sc o.a.toNat
  let b := x.sB o.b
  ((x.setS o.d (f a.val b.val) (a.poi || b.poi)).retire o.b.size o.stall).done

end Ctx

/-! ### Arithmetic -/

/-- sadd (05 R94). -/
def execSadd (o : SOp) (s : State) : Out := s.run fun x => x.sclBin o fun a b => a + b

/-- ssub (05 R94). -/
def execSsub (o : SOp) (s : State) : Out := s.run fun x => x.sclBin o fun a b => a - b

/-- smul (05 R94). -/
def execSmul (o : SOp) (s : State) : Out := s.run fun x => x.sclBin o fun a b => a * b

/-- smad (05 R94). -/
def execSmad (o : SOp) (s : State) : Out :=
  s.run fun x =>
    let a := x.sc o.a.toNat
    let b := x.sB o.b
    let c := x.sc o.c.toNat
    ((x.setS o.d (a.val * b.val + c.val) (a.poi || b.poi || c.poi)).retire o.b.size o.stall).done

/-- sand (05 R94). -/
def execSand (o : SOp) (s : State) : Out := s.run fun x => x.sclBin o fun a b => a &&& b

/-- sor (05 R94). -/
def execSor (o : SOp) (s : State) : Out := s.run fun x => x.sclBin o fun a b => a ||| b

/-- sxor (05 R94). -/
def execSxor (o : SOp) (s : State) : Out := s.run fun x => x.sclBin o fun a b => a ^^^ b

/-- sshl (05 R94). -/
def execSshl (o : SOp) (s : State) : Out := s.run fun x => x.sclBin o sshl64

/-- sshr (05 R94). -/
def execSshr (o : SOp) (s : State) : Out := s.run fun x => x.sclBin o sshr64

/-- ssar (05 R94). -/
def execSsar (o : SOp) (s : State) : Out := s.run fun x => x.sclBin o (ssar64 (o.sub == 1#3))

/-- smin (05 R94). -/
def execSmin (o : SOp) (s : State) : Out := s.run fun x => x.sclBin o (spick true (o.sub == 1#3))

/-- smax (05 R94). -/
def execSmax (o : SOp) (s : State) : Out := s.run fun x => x.sclBin o (spick false (o.sub == 1#3))

/-- scmp (05 R94). -/
def execScmp (o : SOp) (s : State) : Out :=
  s.run fun x => x.sclBin o fun a b => if scmpHolds o.sub a b then 1#64 else 0#64

/-- The result of smov (05 R94). -/
def smovVal (o : SOp) (x : Ctx) : SReg := x.sB o.b

/-- smov (05 R94). -/
def execSmov (o : SOp) (s : State) : Out :=
  s.run fun x => let b := smovVal o x; ((x.setS o.d b.val b.poi).retire o.b.size o.stall).done

/-- sli (05 R95): the halves keep the register's other half and its poison. -/
def execSli (stall : BitVec 4) (sub : BitVec 2) (d : BitVec 6) (imm : Word) (s : State) : Out :=
  s.run fun x =>
    let old := x.sc d.toNat
    let r : SReg := match sub.toNat with
      | 0 => { val := old.val.extractLsb' 32 32 ++ imm, poi := old.poi }
      | 1 => { val := imm ++ old.val.setWidth 32, poi := old.poi }
      | 2 => { val := imm.signExtend 64, poi := false }
      | _ => { val := imm.setWidth 64, poi := false }
    ((x.setS d r.val r.poi).retire 16 stall).done

/-! ### Special registers -/

/-- The group-relative digit of dimension d of a linear index (08 R152). -/
def crdDigit (rank : Nat) (ext : List Nat) (q d : Nat) : Nat :=
  let r := max rank 1
  let k := q / prodL (ext.take d)
  if r ≤ d then 0 else if d + 1 = r then k else k % nth ext d 1

/-- The launch's rank as a group sees it: 1 for a record group (08 R152). -/
def Ctx.rank (x : Ctx) : Nat := if x.g.isRec then 1 else x.c.rank

/-- %crd of a lane (08 R152). -/
def Ctx.crd (x : Ctx) (lane d : Nat) : Word :=
  let q := if x.t.stage = 0 then x.t.idx * x.w + lane else lane
  BitVec.ofNat 32 (nth x.g.org d + crdDigit x.rank x.g.ext q d)

/-- %cfront (12 R233). -/
def Ctx.cfront (x : Ctx) : Key := if x.c.ordered then (x.l.front[x.g.die]?).getD Key.none else Key.none

/-- %flags, GCONF being the group's (01 R12). -/
def Ctx.flagsNow (x : Ctx) : Word := x.t.flags ||| Flag.on x.g.gconf Flag.gconf

/-- A lane-scope special register (01 R14). -/
def Ctx.laneReg (x : Ctx) (sel lane : Nat) : Word :=
  match sel with
  | 0x00 => BitVec.ofNat 32 lane
  | 0x08 => x.crd lane 0
  | 0x09 => x.crd lane 1
  | 0x0A => x.crd lane 2
  | 0x0B => x.crd lane 3
  | _ => if x.t.frame.lanes.getLsbD lane then 1#32 else 0#32

/-- A team-scope special register, 128 bits wide at most (01 R14). -/
def Ctx.teamReg (x : Ctx) (sel : Nat) : BitVec 128 :=
  match sel with
  | 0x01 => BitVec.ofNat 128 x.t.idx
  | 0x02 => BitVec.ofNat 128 (x.c.pointTeams x.g)
  | 0x03 => BitVec.ofNat 128 x.w
  | 0x04 => BitVec.ofNat 128 x.t.stage
  | 0x0C | 0x0D | 0x0E | 0x0F => BitVec.ofNat 128 (nth x.g.org (sel - 0x0C))
  | 0x10 | 0x11 | 0x12 | 0x13 => BitVec.ofNat 128 (nth x.g.ext (sel - 0x10) 1)
  | 0x14 | 0x15 | 0x16 | 0x17 => BitVec.ofNat 128 (nth (if x.g.isRec then x.g.ext else x.c.space) (sel - 0x14) 1)
  | 0x18 => BitVec.ofNat 128 x.g.vol
  | 0x19 => x.g.key
  | 0x1A => x.g.ts.setWidth 128
  | 0x1B => x.cfront
  | 0x1C => BitVec.ofNat 128 x.g.cutno
  | 0x20 => BitVec.ofNat 128 x.g.core
  | 0x21 => BitVec.ofNat 128 x.g.die
  | 0x22 => BitVec.ofNat 128 x.t.slot
  | 0x23 => BitVec.ofNat 128 x.s.cycle
  | 0x28 => x.flagsNow.setWidth 128
  | 0x29 => x.t.tctl.setWidth 128
  | 0x2A => BitVec.ofNat 128 (min x.g.bkconf (2 ^ 32 - 1))
  | 0x30 => x.t.frame.cause.setWidth 128
  | 0x32 => x.t.frame.addr.setWidth 128
  | 0x33 => x.t.frame.pc.setWidth 128
  | _ => 0#128

/-- sget (05 R96, 01 R14). -/
def execSget (stall : BitVec 4) (d : BitVec 8) (sel : BitVec 8) (s : State) : Out :=
  s.run fun x =>
    let ws : List RegWrite := match selScope sel with
      | some .lane => x.lanes.map fun l => .v l d.toNat { val := x.laneReg sel.toNat l, poi := false }
      | some .wide =>
        [.s d.toNat { val := (x.teamReg sel.toNat).setWidth 64, poi := false },
         .s (d.toNat + 1) { val := (x.teamReg sel.toNat).extractLsb' 64 64, poi := false }]
      | _ => [.s d.toNat { val := (x.teamReg sel.toNat).setWidth 64, poi := false }]
    ((x.emitNow 2 ws).retire 8 stall).done

/-- %flags written: each bit written as 1 is cleared, GCONF for the whole group (01 R12). -/
def Ctx.clearFlags (x : Ctx) (v : Word) : Ctx :=
  { x with
    t := { x.t with flags := x.t.flags &&& ~~~v }
    g := { x.g with gconf := x.g.gconf && (v &&& Flag.gconf) == 0#32 } }

/-- %tctl admits a value (01 R13). -/
def tctlOk (v : Word) : Bool := decide (v.toNat < 16) && decide ((v.extractLsb' 0 3).toNat ≤ 4)

/-- sset (05 R96): a poisoned source traps, and so does a reserved bit (00 R6) or a reserved value of RM (01 R13). -/
def execSset (stall : BitVec 4) (sel : BitVec 8) (b : SrcB) (s : State) : Out :=
  s.run fun x =>
    let r := x.sB b
    let v : Word := r.val.setWidth 32
    if r.poi then x.trap0 Cause.poisonUse
    else if sel = 0x28#8 then
      if v &&& ~~~Flag.all = 0#32 then ((x.clearFlags v).retire 8 stall).done else x.trap0 Cause.reservedField
    else if tctlOk v then (({ x with t := { x.t with tctl := v } } : Ctx).retire 8 stall).done
    else x.trap0 Cause.reservedField

/-! ### Scalars and lanes -/

/-- vbcast (05 R97). -/
def laneVbcast (o : VBcast) (x : Ctx) : Nat → LaneResult :=
  fun l =>
    let b := x.sBAt l o.b
    let v : Word := if o.hi then b.val.extractLsb' 32 32 else b.val.setWidth 32
    ([.v l o.d.toNat { val := v, poi := b.poi }], 0#32)

/-- vbcast (05 R97): an integer ALU result (01 R18). -/
def execVbcast (o : VBcast) (s : State) : Out := s.run fun x => x.each o.h 8 4 (laneVbcast o x)

/-- vlane (05 R97): the register as it stands at the issue in lane i, active or not. -/
def execVlane (stall : BitVec 4) (sx : Bool) (d : BitVec 6) (a : BitVec 8) (b : SrcB) (s : State) : Out :=
  s.run fun x =>
    let i := x.sB b
    if i.poi then x.trap0 Cause.poisonUse
    else if x.w ≤ i.val.toNat then x.trap Cause.bound noLanes i.val
    else
      let v := x.t.readV x.t.t0 i.val.toNat a.toNat
      ((x.setS d (if sx then v.val.signExtend 64 else v.val.setWidth 64) v.poi).retire 8 stall).done

end Sys2Proof.Machine
end

