-- ==== Sys2Proof/Machine/CrossLane.lean ====
section
/-!
DEFINITION. The cross-lane class (07 R136 to R139).
-/
namespace Sys2Proof

/-- The first lane of a lane's segment, and the last (07 R136). -/
def segLo (seg lane : Nat) : Nat := if seg = 0 then 0 else lane / 2 ^ seg * 2 ^ seg
def segHi (seg w lane : Nat) : Nat := if seg = 0 then w - 1 else min (w - 1) (lane / 2 ^ seg * 2 ^ seg + 2 ^ seg - 1)

/-- The lane that shfl reads (07 R138). -/
def shflLane (sub : BitVec 3) (seg w lane b : Nat) : Nat :=
  let s0 := segLo seg lane
  let s1 := segHi seg w lane
  let k := if seg = 0 then b else b % 2 ^ seg
  let j : Int := match sub.toNat with
    | 0 => s0 + k
    | 1 => if (lane : Int) - b < s0 then lane else (lane : Int) - b
    | 2 => if s1 < lane + b then lane else lane + b
    | _ => s0 + ((lane - s0) ^^^ k : Nat)
  if j < 0 ∨ (s1 : Int) < j ∨ (w : Int) ≤ j then lane else j.toNat

/-- One combination of scan and reduce (07 R139): TYPE 0 s32, 1 n32, 2 f32. -/
def scanOp (ty : Nat) (sub : BitVec 3) (mode : Rnd) (a b : Word) : Word × Word :=
  let flt (r : Nat × Word) : Word × Word := (BitVec.ofNat 32 r.1, r.2)
  match sub.toNat with
  | 0 => if ty = 2 then flt (FF.f32.add mode a.toNat b.toNat) else (a + b, 0#32)
  | 1 =>
    if ty = 2 then flt (FF.f32.minmax true a.toNat b.toNat)
    else if ty = 0 then (if b.toInt < a.toInt then b else a, 0#32) else (if b.toNat < a.toNat then b else a, 0#32)
  | 2 =>
    if ty = 2 then flt (FF.f32.minmax false a.toNat b.toNat)
    else if ty = 0 then (if a.toInt < b.toInt then b else a, 0#32) else (if a.toNat < b.toNat then b else a, 0#32)
  | 3 => (a &&& b, 0#32)
  | 4 => (a ||| b, 0#32)
  | _ => (a ^^^ b, 0#32)

end Sys2Proof

namespace Sys2Proof.Machine

namespace Ctx

/-- A cross-lane instruction (07 R136): the guard's poison, then the operand lanes' poison, each precise and naming its lanes;
otherwise every participating lane's writes and flags, ready at L = 8. -/
def cross (x : Ctx) (o : XLane) (bad : List Nat) (f : List Nat → List (Nat × LaneResult)) : Out :=
  let guards := (x.guardFaults o.h).map fun q => q.1
  let lanes := x.sel o.h
  if !guards.isEmpty then x.trap Cause.poisonUse (laneSet guards) 0#64
  else if !bad.isEmpty then x.trap Cause.poisonUse (laneSet bad) 0#64
  else
    let rs := f lanes
    (((x.emit 8 (rs.flatMap fun r => r.2.1)).emitFlags 8 (rs.map fun r => (r.1, r.2.2))).retireLanes o.b.size o.h.stall lanes).done

/-- Participating lanes of a lane's segment. -/
def segOf (o : XLane) (lanes : List Nat) (l : Nat) : List Nat :=
  lanes.filter fun k => segLo o.seg.toNat k == segLo o.seg.toNat l

/-- The word of lanes 32q to 32q+31 that meet a condition. -/
def wordWhere (q : Nat) (lanes : List Nat) (f : Nat → Bool) : Word :=
  BitVec.ofNat 32 ((List.range 32).foldl (fun n i => if lanes.contains (32 * q + i) && f (32 * q + i) then n + 2 ^ i else n) 0)

/-- A vector result. -/
def vRes (l : Nat) (d : BitVec 8) (v : Word) (poi : Bool) : Nat × LaneResult :=
  (l, [.v l d.toNat { val := v, poi := poi }], 0#32)

/-- A predicate result. -/
def pRes (l : Nat) (d : BitVec 8) (v : Bool) (poi : Bool) : Nat × LaneResult :=
  (l, [.p l d.toNat { val := v, poi := poi }], 0#32)

/-- A lane's head predicate of scan and reduce. -/
def headP (x : Ctx) (o : XLane) (l : Nat) : PReg :=
  match o.b with
  | .vec k => if k.getLsbD 3 then x.p l o.c.toNat else { val := false, poi := false }
  | _ => { val := false, poi := false }

/-- TYPE of scan and reduce. -/
def scanTy (o : XLane) : Nat := match o.b with
  | .vec k => (k.setWidth 3).toNat
  | _ => 0

/-- The inclusive prefixes of the runs of a segment (07 R139), in ascending lane order: lane, value, poison, the flags of its own
combination, and the run's number. -/
def scanRuns (x : Ctx) (o : XLane) (mode : Rnd) (lanes : List Nat) : List (Nat × Word × Bool × Word × Nat) :=
  (lanes.foldl (fun (acc : List (Nat × Word × Bool × Word × Nat)) l =>
    let a := x.v l o.a.toNat
    match acc with
    | [] => [(l, a.val, a.poi, 0#32, 0)]
    | (_, v, p, _, n) :: _ =>
      if (x.headP o l).val then (l, a.val, a.poi, 0#32, n + 1) :: acc
      else
        let r := scanOp (scanTy o) o.sub mode v a.val
        (l, r.1, p || a.poi, r.2, n) :: acc) []).reverse

/-- The participating lanes grouped by segment. -/
def segments (o : XLane) (lanes : List Nat) : List (List Nat) :=
  ((lanes.map fun l => segLo o.seg.toNat l).eraseDups).map fun s => lanes.filter fun l => segLo o.seg.toNat l == s

/-- Lanes whose head predicate carries poison. -/
def headPoison (x : Ctx) (o : XLane) : List Nat := (x.sel o.h).filter fun l => (x.headP o l).poi

/-- Whether the operand predicate of a participating lane among some carries poison. -/
def predPoison (x : Ctx) (o : XLane) (ls : List Nat) : Bool := ls.any fun l => (x.p l o.a.toNat).poi

end Ctx

/-- shfl (07 R138): register a is read in every lane at the issue. -/
def execShfl (o : XLane) (s : State) : Out :=
  s.run fun x => x.cross o ((x.sel o.h).filter fun l => (x.b32 l o.b).poi) fun lanes =>
    lanes.map fun l =>
      let r := x.t.readV x.t.t0 (shflLane o.sub o.seg.toNat x.w l (x.b32 l o.b).val.toNat) o.a.toNat
      Ctx.vRes l o.d r.val r.poi

/-- ballot (07 R137). -/
def execBallot (o : XLane) (s : State) : Out :=
  s.run fun x =>
    let q (l : Nat) : Nat := if o.sub = 1#3 then (x.b32 l o.b).val.toNat else l / 32
    x.cross o (if o.sub = 1#3 then (x.sel o.h).filter fun l => (x.b32 l o.b).poi else []) fun lanes =>
      lanes.map fun l =>
        if x.w / 32 ≤ q l then Ctx.vRes l o.d 0#32 false
        else Ctx.vRes l o.d (Ctx.wordWhere (q l) lanes fun k => (x.p k o.a.toNat).val)
          (x.predPoison o (lanes.filter fun k => k / 32 == q l))

/-- vote (07 R137). -/
def execVote (o : XLane) (s : State) : Out :=
  s.run fun x => x.cross o [] fun lanes =>
    lanes.map fun l =>
      let ls := Ctx.segOf o lanes l
      let vs := ls.map fun k => (x.p k o.a.toNat).val
      let r := match o.sub.toNat with
        | 0 => vs.any id
        | 1 => vs.all id
        | _ => vs.all id || !vs.any id
      Ctx.pRes l o.d r (x.predPoison o ls)

/-- popm (07 R137): for .below, the operands that enter are those of the lanes below. -/
def execPopm (o : XLane) (s : State) : Out :=
  s.run fun x => x.cross o [] fun lanes =>
    lanes.map fun l =>
      let ls := (Ctx.segOf o lanes l).filter fun k => o.sub != 1#3 || decide (k < l)
      Ctx.vRes l o.d (BitVec.ofNat 32 (ls.filter fun k => (x.p k o.a.toNat).val).length) (x.predPoison o ls)

/-- scan (07 R139). -/
def execScan (o : XLane) (s : State) : Out :=
  s.run fun x => x.cross o (x.headPoison o) fun lanes =>
    (Ctx.segments o lanes).flatMap fun ls => (x.scanRuns o (tctlRm x.t.tctl) ls).map fun r =>
      (r.1, [.v r.1 o.d.toNat { val := r.2.1, poi := r.2.2.1 }], r.2.2.2.1)

/-- reduce (07 R139): every lane of a run receives the run's last prefix. -/
def execReduce (o : XLane) (s : State) : Out :=
  s.run fun x => x.cross o (x.headPoison o) fun lanes =>
    (Ctx.segments o lanes).flatMap fun ls =>
      let rs := x.scanRuns o (tctlRm x.t.tctl) ls
      rs.map fun r =>
        let t := (rs.filter fun k => k.2.2.2.2 == r.2.2.2.2).getLast?.getD r
        (r.1, [.v r.1 o.d.toNat { val := t.2.1, poi := t.2.2.1 }], r.2.2.2.1)

/-- match (07 R137): the result of .lead is taken from the operands of the whole segment, that of .mask from those of the lane's
word (notes/assumptions/11.md). -/
def execMatchOp (o : XLane) (s : State) : Out :=
  s.run fun x => x.cross o [] fun lanes =>
    lanes.map fun l =>
      let ls := Ctx.segOf o lanes l
      let same (k : Nat) : Bool := (x.v k o.a.toNat).val == (x.v l o.a.toNat).val
      if o.sub = 1#3 then
        Ctx.pRes l o.d (!ls.any fun k => decide (k < l) && same k) (ls.any fun k => (x.v k o.a.toNat).poi)
      else
        let ws := ls.filter fun k => k / 32 == l / 32
        Ctx.vRes l o.d (Ctx.wordWhere (l / 32) ws same) ((x.v l o.a.toNat).poi || ws.any fun k => (x.v k o.a.toNat).poi)

/-- elect (07 R137). -/
def execElect (o : XLane) (s : State) : Out :=
  s.run fun x => x.cross o [] fun lanes =>
    lanes.map fun l => Ctx.pRes l o.d ((Ctx.segOf o lanes l).head? == some l) false

/-- lmask (07 R137). -/
def execLmask (o : XLane) (s : State) : Out :=
  s.run fun x => x.cross o [] fun lanes =>
    lanes.map fun l =>
      let i := l % 32
      let v : Word := match o.sub.toNat with
        | 0 => BitVec.ofNat 32 (2 ^ i - 1)
        | 1 => BitVec.ofNat 32 (2 ^ (i + 1) - 1)
        | 2 => ~~~(BitVec.ofNat 32 (2 ^ (i + 1) - 1))
        | 3 => ~~~(BitVec.ofNat 32 (2 ^ i - 1))
        | 4 => BitVec.ofNat 32 (2 ^ i)
        | _ => maskWord x.t.mask (l / 32)
      Ctx.vRes l o.d v false

end Sys2Proof.Machine
end

