-- ==== Sys2Proof/Machine/Transfer.lean ====
section
/-!
DEFINITION. Moving bytes for the host: copies granule by granule with their faults (22 R353), the region images of a launch (R350),
and responses (R346, R347).
-/
namespace Sys2Proof.Machine

/-! ### Responses -/

/-- A status code (22 R347). -/
def Status.code : Status → Nat
  | .success => 0x0000 | .admitted => 0x0001 | .pending => 0x0002
  | .invalidCommand => 0x0010 | .invalidOperand => 0x0011 | .notFound => 0x0012 | .busy => 0x0013 | .noSpace => 0x0014
  | .imageFormat => 0x0020 | .imageLevel => 0x0021 | .signature => 0x0022 | .translateLimit => 0x0023
  | .invalidChart => 0x0030 | .budgetRefused => 0x0031
  | .groupFault => 0x0040 | .budgetExpired => 0x0041 | .cancelled => 0x0042 | .dependenceFailed => 0x0043
  | .peerRefused => 0x0050 | .copyFault => 0x0051

/-- A response sent (22 R346). -/
def State.respond (s : State) (session : Nat) (tag : BitVec 64) (cmd : BitVec 8) (st : Status) (body : List Byte) : State :=
  { s with responses := s.responses ++ [{ session := session, tag := tag, cmd := cmd, status := st, body := body }] }

/-- Little-endian bytes of a bit vector. -/
def bytesBv {w : Nat} (n : Nat) (v : BitVec w) : List Byte := leBytes n v.toNat

/-! ### Granules -/

/-- The parts of n bytes from an address that lie in one 64-byte granule each: start and length, ascending. -/
def granParts (va n : Nat) : List (Nat × Nat) :=
  if n = 0 then []
  else (List.range ((va + n - 1) / 64 + 1 - va / 64)).map fun k =>
    let lo := max va ((va / 64 + k) * 64)
    (lo, min (va + n) ((va / 64 + k + 1) * 64) - lo)

/-- The first of n bytes from an address that an access may not touch. -/
def State.firstBad (s : State) (write : Bool) (va n : Nat) : Option Nat :=
  ((List.range n).map fun i => va + i).find? fun a => !(if write then s.mayWrite (a : Int) 1 else s.mayRead (a : Int) 1)

/-- Bytes put in main memory: covered words lose their poison, words of poisoned bytes take it (10 R182). -/
def State.putRaw (s : State) (va : Nat) (bs : List Byte) (poi : List Bool) : State :=
  let cleared := clearCovered s.mpois ((List.range bs.length).map fun i => va + i)
  let bad := (List.range bs.length).filter fun i => (poi[i]?).getD false
  { s with
    mem := s.mem.writeN va bs, mpois := bad.foldl (fun m i => markPoison m (va + i) 1) cleared
    mbad := clearCovered s.mbad ((List.range bs.length).map fun i => va + i) }

/-- A granule of a transfer into main memory written, or the lowest address at which it faults (22 R353). -/
def State.putGran (s : State) (va : Nat) (bs : List Byte) (poi : List Bool) (p : Nat × Nat) : State × Option Nat :=
  match s.firstBad true p.1 p.2 with
  | some a => (s, some a)
  | none => (s.putRaw p.1 ((bs.drop (p.1 - va)).take p.2) ((poi.drop (p.1 - va)).take p.2), none)

/-- A transfer into main memory, `done` granules of which have been written before, in ascending order (22 R353): the first granule that
faults stops it, and its lowest faulting address comes with the state. -/
def State.putBytes (s : State) (va : Nat) (bs : List Byte) (poi : List Bool) (done : Nat) : State × Option Nat :=
  ((granParts va bs.length).drop done).foldl (fun acc p => match acc with
    | (s, some a) => (s, some a)
    | (s, none) => s.putGran va bs poi p) (s, none)

/-- The poison of n bytes of main memory. -/
def State.poisonOf (s : State) (va n : Nat) : List Bool := (List.range n).map fun i => poisonIn s.mpois (va + i) 1

/-! ### Region images -/

/-- Base of a core's region: die and core (10 R184). -/
def regionBase (die core : Nat) : Nat := die * 2 ^ 28 + core * 2 ^ 22

/-- One granule of a load image put in the region of a core on every die of the set (22 R350). -/
def Launch.loadGran (l : Launch) (core ofs : Nat) (bs : List Byte) (poi : List Bool) : Launch :=
  l.dies.foldl (fun l d =>
    let a := regionBase d core + ofs
    let l := l.writeRegion ((List.range bs.length).map fun i => (a + i, (bs[i]?).getD 0#8))
    { l with rpois := ((List.range bs.length).filter fun i => (poi[i]?).getD false).foldl (fun m i => markPoison m (a + i) 1) l.rpois }) l

/-- A granule of the load image read (22 R350) with its poison, or the address at which it faults; words that hold an uncorrectable error
are met (10 R193). -/
def State.imagePart (s : State) (va : Nat) (p : Nat × Nat) : State × Except Nat (List (Byte × Bool)) :=
  match s.firstBad false (va + p.1) p.2 with
  | some a => (s, .error a)
  | none =>
    let s := s.meet (va + p.1) p.2
    (s, .ok ((s.mem.readN (va + p.1) p.2).zip (s.poisonOf (va + p.1) p.2)))

/-- The load image put into the regions granule by granule in ascending order, up to the first that faults (22 R350, R353): those read
before as they were then, the others now. -/
def State.loadRegions (s : State) (l : Launch) (va : Nat) : State × Launch × Option Nat :=
  (granParts 0 (l.nc * l.dsize)).foldl (fun acc p =>
    if acc.2.2.isSome then acc
    else
      let r : State × Except Nat (List (Byte × Bool)) := match l.loaded.find? fun e => e.1 == p.1 / 64 with
        | some e => (acc.1, .ok e.2)
        | none => acc.1.imagePart va p
      match r.2 with
      | .error a => (r.1, acc.2.1, some a)
      | .ok bs => (r.1, acc.2.1.loadGran (p.1 / l.dsize) (p.1 % l.dsize) (bs.map Prod.fst) (bs.map Prod.snd), none)) (s, l, none)

/-- The bytes of the save image and their poison: die of rank r, core k at (r × NC + k) × D (22 R350). -/
def Launch.saveBytes (l : Launch) : List (Byte × Bool) :=
  l.dies.flatMap fun d => (List.range l.nc).flatMap fun k => (List.range l.dsize).map fun i =>
    let a := regionBase d k + i
    (l.region.read a, poisonIn l.rpois a 1)

/-- A fault entry of a region image (22 R350). -/
def imageFault (va : Nat) : FaultEntry :=
  { cause := Cause.copyFault, team := noTeamWord, key := 0#128, iaddr := 0#64, taddr := dwordOf va }

end Sys2Proof.Machine
end

