-- ==== Sys2Proof/Machine/LaunchEvents.lean ====
section
/-!
DEFINITION. Steps of the service on launches (20 R324, R325; 22 R350 to R352): the start of dispatch, budget expiry, cancellation, the
save image, and the completion record.
-/
namespace Sys2Proof.Machine

/-! ### Predecessors -/

/-- Whether some predecessor has ended otherwise. -/
def State.predFailed (s : State) (ps : List Nat) : Bool :=
  ps.any fun p => match s.finalStatus p with
    | some st => st != .success
    | none => false

/-! ### The start of dispatch -/

/-- Whether a launch's dispatch is to start (22 R350): its dies are ON (21 R342). -/
def State.startDue (s : State) (lid : Nat) : Bool :=
  (s.launch? lid).any fun l => l.phase == .admitted && s.predsDone l.preds && l.dies.all s.dieOn

/-- A launch about to form its first band: the initial cut (08 R155), and in an ordered launch the frontier of the whole space
(12 R231) at every die. -/
def Launch.opened (l : Launch) (c : Chart) (now : Nat) : Launch :=
  let empty := prodL c.space == 0
  let l :=
    { l with
      phase := .dispatching, shape := c.initialShape, bearing := c.initialBearing
      origin := if empty then nth c.space c.z else 0
      exchanged := List.replicate 4 now, reported := List.replicate 4 now, sampled := List.replicate 4 now }
  if c.ordered then
    let k := l.restBound c
    { l with front := List.replicate 4 k, reports := l.reports.set l.home k }
  else l

/-- A granule of a launch's load image read before the rest (22 R350): each is read at a point of its own. -/
def State.microImage (s : State) (lid k : Nat) : State :=
  match s.launch? lid with
  | none => s
  | some l =>
    match if s.startDue lid then l.load else none, (granParts 0 (l.nc * l.dsize))[k]? with
    | some va, some p =>
      if l.loaded.any fun e => e.1 == k then s
      else match s.imagePart va p with
        | (s, .ok bs) => s.setLaunch { l with loaded := l.loaded ++ [(k, bs)] }
        | (_, .error _) => s
    | _, _ => s

/-- LAUNCH_DISPATCH_START (22 R350): the load image, and the first band may be formed; a load that faults dispatches no group. -/
def execLaunchDispatchStart (lid : Nat) (s : State) : Out :=
  s.when (s.startDue lid) fun s =>
    match s.launch? lid with
    | none => s
    | some l =>
      match s.rootChart l with
      | none => s
      | some c =>
        let r := match l.load with
          | some va => s.loadRegions l va
          | none => (s, l, none)
        let o := ({ r.2.1 with loaded := [] } : Launch).opened c s.cycle
        match r.2.2 with
        | none => r.1.setLaunch o
        | some a => r.1.setLaunch { o.addFault (imageFault a) with origin := nth c.space c.z }

/-! ### Ends -/

/-- Whether a save image is to be written (22 R350). -/
def State.saveDue (s : State) (lid : Nat) : Bool :=
  (s.launch? lid).any fun l => l.phase == .dispatching && l.save.isSome && !l.saved && s.tasksDone l && l.dies.all s.dieOn

/-- The next granule of a launch's save image written before the rest (22 R350). -/
def State.microSave (s : State) (lid : Nat) : State :=
  match s.launch? lid with
  | none => s
  | some l =>
    let bs := l.saveBytes
    let va := l.save.getD 0
    match if s.saveDue lid then (granParts va bs.length)[l.savedTo]? else none with
    | none => s
    | some p =>
      let r := s.putGran va (bs.map Prod.fst) (bs.map Prod.snd) p
      if r.2.isSome then s else r.1.setLaunch { l with savedTo := l.savedTo + 1 }

/-- REGION_IMAGE_SAVE (22 R350): a fault is recorded once, the granules before it being written. -/
def execRegionImageSave (lid : Nat) (s : State) : Out :=
  s.when (s.saveDue lid) fun s =>
    match s.launch? lid with
    | none => s
    | some l =>
      let bs := l.saveBytes
      let r := s.putBytes (l.save.getD 0) (bs.map Prod.fst) (bs.map Prod.snd) l.savedTo
      let l := { l with saved := true }
      r.1.setLaunch (match r.2 with
        | none => l
        | some a => l.addFault (imageFault a))

/-- Drawn groups of a launch returned on every core: to the head of their die's share, in share order, which is that of their draws
(20 R325, 21 R330). -/
def State.returnAll (s : State) (lid : Nat) : State :=
  let drawn := s.cores.flatMap fun k => k.2.drawn.filter fun i => (s.group? i).any fun g => g.launch == lid
  let order := sortOn (fun i => ((s.group? i).map Group.drawAt).getD 0) drawn
  let s := { s with
    cores := s.cores.map fun (k : Nat × Core) =>
      (k.1, { k.2 with drawn := k.2.drawn.filter fun i => !drawn.contains i, ousted := k.2.ousted.filter fun i => i != lid })
    groups := s.groups.map fun (g : Group) => if drawn.contains g.gid then { g with status := .share } else g }
  match s.launch? lid with
  | none => s
  | some l => s.setLaunch { l with
      shares := (List.range 4).map fun d => (order.filter fun i => (s.group? i).any fun (g : Group) => g.die == d) ++ l.share d }

/-- Groups that are on their way between dies put in their die's share, and the steals ended (20 R325). -/
def State.recall (s : State) (lid : Nat) : State :=
  match s.launch? lid with
  | none => s
  | some l =>
    let lost := s.unplaced l ((s.groupsOf lid).map Group.gid)
    let l := lost.foldl (fun l i => l.appendShare (((s.group? i).map Group.die).getD 0) [i]) l
    s.setLaunch { l with inbox := [], replies := [], steals := List.replicate 4 none, transit := [] }

/-- What a stop of dispatch makes of one group (20 R324): a speculative one is aborted, a running one is saved; of one whose teams have
ended, a commit whose waits are over is made, and otherwise it is saved without a team to stop. -/
def State.stopGroup (s : State) (gid : Nat) : State :=
  match s.group? gid with
  | none => s
  | some g =>
    if !g.resident then s
    else if s.isSpec g then s.abortGroup gid
    else if g.status == .ended then
      if s.finalDue gid then s.finalCommit gid else (s.setGroup { g.atRest with status := .share }).requeueGroup g
    else s.preemptGroup gid

/-- Dispatch stopped, everything of the launch brought to rest, and the continuation built (20 R324, R325). -/
def State.stopLaunch (s : State) (lid : Nat) : State :=
  match s.launch? lid with
  | none => s
  | some l =>
    let n := s.nextId
    let s := { s.setLaunch { l with phase := .stopped, status := .budgetExpired, cont := n } with
      nextId := n + 1, conts := s.conts ++ [(n, lid)] }
    let s := (s.returnAll lid).recall lid
    ((s.groupsOf lid).map Group.gid).foldl State.stopGroup s

/-- Whether a launch may still be stopped or cancelled: its save image is not written, and its record is not built (22 R350, R352). -/
def Launch.open? (l : Launch) : Bool := (l.phase == .admitted || l.phase == .dispatching) && !l.saved

/-- Whether a launch's budget has expired (20 R323): 800 reference cycles to a µs. -/
def State.budgetDue (s : State) (lid : Nat) : Bool :=
  (s.launch? lid).any fun l => l.open? && decide (l.stamp + l.budget * 800 ≤ s.cycle)

/-- BUDGET_EXPIRY (20 R324). -/
def execBudgetExpiry (lid : Nat) (s : State) : Out := s.when (s.budgetDue lid) fun s => s.stopLaunch lid

/-- Dispatch stopped and every group ended, no fault recorded (22 R352). -/
def State.cancelLaunch (s : State) (lid : Nat) : State :=
  match s.launch? lid with
  | none => s
  | some l =>
    let ids := (s.groupsOf lid).map Group.gid
    let s := ids.foldl State.unlist s
    let s := { s with groups := s.groups.map fun (g : Group) => if g.launch == lid then { g.cleared with status := .done, recs := [], written := g.written } else g }
    s.setLaunch
      { l with
        phase := .cancelled, status := .cancelled, bins := [], shares := List.replicate 4 [], inbox := [], replies := []
        steals := List.replicate 4 none, transit := [] }

/-! ### The completion record -/

/-- A time in ns (22 R354): 1.25 ns to a reference cycle. -/
def nsOf (cycles : Nat) : Nat := cycles * 5 / 4

/-- The totals of an account in ns, `n` cycles standing before them: taken from the running sums, so that they sum to wall time. -/
def nsTotals (n : Nat) : List Nat → List Nat
  | [] => []
  | c :: cs => (nsOf (n + c) - nsOf n) :: nsTotals (n + c) cs

/-- A fault entry's 40 bytes (22 R351). -/
def FaultEntry.bytes (f : FaultEntry) : List Byte :=
  bytesBv 1 f.cause ++ leBytes 3 0 ++ bytesBv 4 f.team ++ bytesBv 16 f.key ++ bytesBv 8 f.iaddr ++ bytesBv 8 f.taddr

/-- The completion record (22 R351); its reserved bytes are 0. -/
def Launch.record (l : Launch) : List Byte :=
  leBytes 2 l.status.code ++ leBytes 6 0 ++ leBytes 8 l.id ++ ((nsTotals 0 l.acct).flatMap fun t => leBytes 8 t) ++
  leBytes 8 l.races ++ leBytes 4 l.nfaults ++ leBytes 4 0 ++ leBytes 8 l.cont ++ l.faults.flatMap FaultEntry.bytes

/-- The waits for an id answered (22 R348). -/
def State.answerWaits (s : State) (id : Nat) (st : Status) (body : List Byte) : State :=
  let mine := s.waits.filter fun w => w.target == id
  mine.foldl (fun s w => s.respond w.session w.tag 0x08#8 st body) { s with waits := s.waits.filter fun w => w.target != id }

/-- The status that a launch completes with now: `none` while it does not (22 R350, R351). One that was stopped or cancelled waits until no
group of it stays on a core and no drain of it is being written (20 R324). -/
def State.completion (s : State) (l : Launch) : Option Status :=
  match l.phase with
  | .stopped | .cancelled => if (s.groupsOf l.id).any (fun g => g.resident || !g.written.isEmpty) then none else some l.status
  | .dispatching =>
    if s.tasksDone l && (l.save.isNone || l.saved) then some (if l.nfaults = 0 then .success else .groupFault) else none
  | .admitted => if s.predFailed l.preds then some .dependenceFailed else none
  | .complete => none

/-- The lines of a launch dropped from every remote-read cache (10 R190). -/
def State.dropLaunchLines (s : State) (lid : Nat) : State :=
  { s with cores := s.cores.map fun c => (c.1, { c.2 with rcache := c.2.rcache.filter fun x => x.1 != lid }) }

/-- Whether a launch's completion record is to be sent. -/
def State.completeDue (s : State) (lid : Nat) : Bool := (s.launch? lid).any fun l => (s.completion l).isSome

/-- LAUNCH_COMPLETE (22 R351, 10 R183): the record sent to the launching session and to the waits, the regions released; those of a
stopped launch go into its continuation (20 R325). -/
def execLaunchComplete (lid : Nat) (s : State) : Out :=
  s.when (s.completeDue lid) fun s =>
    match s.launch? lid with
    | none => s
    | some l =>
      let st := (s.completion l).getD l.status
      let l := { l with
        phase := .complete, status := st
        region := if st = .budgetExpired then l.region else []
        rpois := if st = .budgetExpired then l.rpois else [] }
      let s := (s.setLaunch l).dropLaunchLines lid
      (s.respond l.session l.tag 0x08#8 st l.record).answerWaits lid st l.record

end Sys2Proof.Machine
end

