-- ==== Sys2Proof/Machine/ChartCheck.lean ====
section
/-!
DEFINITION. Charts as bytes (08 R146 to R148), and the checks of a launch's Charts (08 R149, R150; 12 R217, R220; 17 R277).
-/
namespace Sys2Proof.Machine

/-! ### A Chart's bytes -/

/-- n bytes of a list from an offset, as a number. -/
def leAt (bs : List Byte) (o n : Nat) : Nat := leNat ((bs.drop o).take n)

/-- A bit range of a number. -/
def bitsAt (v lo n : Nat) : Nat := v / 2 ^ lo % 2 ^ n

/-- A preload or postload entry (08 R146): record and window offset where VALID. -/
def preEntry (v : Nat) : Option (Nat × Nat) := if bitsAt v 48 1 = 1 then some (bitsAt v 32 16, bitsAt v 0 32) else none

/-- A Chart's 256 bytes (08 R146, R147). -/
def Chart.ofBytes (b : List Byte) : Chart :=
  let ctl := leAt b 216 4
  let team := leAt b 44 4
  let st := leAt b 48 4
  let pres := (List.range 4).map fun i => leAt b (144 + 8 * i) 8
  let posts := (List.range 4).map fun i => leAt b (176 + 8 * i) 8
  { rsvZero := ((b.drop 220).take 36).all (· == 0#8) && bitsAt ctl 31 1 == 0 && leAt b 88 2 == 0 && bitsAt st 12 20 == 0 &&
      bitsAt team 28 4 == 0 && bitsAt (leAt b 100 4) 24 8 == 0 && (pres ++ posts).all fun v => bitsAt v 49 15 == 0
    kept := 0, entry := leAt b 64 4, handler := leAt b 68 4
    sent := [leAt b 52 4, leAt b 56 4, leAt b 60 4]
    stages := [bitsAt st 0 4, bitsAt st 4 4, bitsAt st 8 4]
    wid := bitsAt team 0 5, regs := bitsAt team 5 9, ckpt := bitsAt team 14 9, tiles := bitsAt team 23 5
    vmax := leAt b 40 4
    mul := (List.range 4).map fun d => leAt b (32 + 2 * d) 2
    max := (List.range 4).map fun d => leAt b (24 + 2 * d) 2
    min := (List.range 4).map fun d => leAt b (16 + 2 * d) 2
    ext := (List.range 4).map fun d => leAt b (4 * d) 4
    winfix := leAt b 72 4, winpp := leAt b 76 4, tbuf := leAt b 80 4, commit := leAt b 84 4, spill := leAt b 90 2
    hsize := leAt b 92 4, hcount := leAt b 96 1, qcount := leAt b 97 1, qdepth := leAt b 98 2, barst := leAt b 100 4
    tsbase := dwordOf (leAt b 104 8), tscoef := (List.range 4).map fun d => dwordOf (leAt b (112 + 8 * d) 8)
    pre := pres.map preEntry, post := posts.map preEntry
    cuts := leAt b 208 4, budget := leAt b 212 4
    pclass := bitsAt ctl 29 2, prio := bitsAt ctl 27 2, hndl := bitsAt ctl 26 1 == 1, ncut := bitsAt ctl 21 5
    script := bitsAt ctl 20 1 == 1, recutOff := bitsAt ctl 19 1 == 1, pinb := bitsAt ctl 16 3, pin := bitsAt ctl 15 1 == 1
    bearm := bitsAt ctl 9 6, node := bitsAt ctl 5 4, nodeb := bitsAt ctl 4 1 == 1, ordered := bitsAt ctl 3 1 == 1
    rank := bitsAt ctl 0 3 }

/-- A script entry's 16 bytes (08 R148): its count and shape, and whether its reserved field is 0. -/
def scriptEntry (b : List Byte) : (Nat × List Nat) × Bool :=
  ((leAt b 8 4, (List.range 4).map fun d => leAt b (2 * d) 2 + 1), leAt b 12 4 == 0)

/-- A Chart's script, read from where the image's data section stands (08 R148); entries that lie beyond the section are read from what
memory holds there (notes/assumptions/52.md, DESIGN CHOICE). -/
def State.scriptOf (s : State) (im : Image) (c : Chart) : List ((Nat × List Nat) × Bool) :=
  if c.script then (List.range (c.ncut + 1)).map fun k => scriptEntry (s.mem.readN (im.data + c.cuts + 16 * k) 16) else []

/-! ### The checks of LAUNCH -/

/-- Whether an extent is allowed (08 R150). -/
def Chart.allowed (c : Chart) (d a : Nat) : Bool := c.atMost d a == some a

/-- Whether a shape is allowed (08 R150). -/
def Chart.shapeOk (c : Chart) (g : List Nat) : Bool :=
  (List.range 4).all (fun d => c.allowed d (nth g d)) && decide (prodL g ≤ c.vmaxEff)

/-- Counts, sizes and depths within the limits of 08 R146 (R149), and of a team (R149). -/
def Chart.limitsOk (c : Chart) : Bool :=
  decide (1 ≤ c.regs ∧ c.regs ≤ 256 ∧ c.width * c.regs * 4 ≤ 262144 ∧ c.ckpt ≤ c.regs ∧ c.tiles ≤ 16) &&
  decide (c.qcount ≤ 16 ∧ c.qdepth ≤ 1024 ∧ (c.qdepth = 0 → c.qcount = 0) ∧ c.hcount ≤ 32 ∧ c.hsize % 64 = 0) &&
  decide (c.spill ≤ 4096 ∧ c.spill % 16 = 0 ∧ c.commitBytes ≤ 2 ^ 20 ∧ c.commitBytes % 64 = 0) &&
  decide (c.tbufBytes ≤ 262144 ∧ c.tbufBytes % 64 = 0 ∧ c.winfix + c.winpp * c.vmaxEff ≤ 2097152) &&
  decide (c.ncut ≤ 16 ∧ c.cuts % 16 = 0)

/-- RANK, bearings and NODEB (08 R149). -/
def Chart.ctlOk (c : Chart) : Bool :=
  decide (c.rank ≤ 4 ∧ c.pinb ≤ 5) && (!c.pin || c.bearm == 0 || bitsAt c.bearm c.pinb 1 == 1) && c.nodeb == (c.rank == 0)

/-- The space and its shapes (08 R149 to R151, 12 R217). -/
def Chart.spaceOk (c : Chart) : Bool :=
  ((List.range 4).all fun d =>
    if d < c.rank then (c.atLeast d 1).isSome
    else nth c.ext d == 0 && nth c.min d == 0 && nth c.max d == 0 && nth c.mul d == 0) &&
  decide (c.stageTeams < 64 ∧ c.vmaxEff ≤ (64 - c.stageTeams) * c.width) &&
  decide (prodL ((List.range 4).map c.least) ≤ c.vmaxEff) && decide (prodL c.space < 2 ^ 63)

/-- Whether an entry point lies in the text (08 R149). -/
def Image.entryOk (im : Image) (a : Nat) : Bool := decide (a < 8 * im.text.length) && a % 8 == 0

/-- The entry points (08 R149): HANDLER's where the Chart has a handler (notes/assumptions/66.md, DEDUCED). -/
def Image.entriesOk (im : Image) (c : Chart) : Bool :=
  im.entryOk c.entry && (!c.hndl || im.entryOk c.handler) &&
  (List.range 3).all fun i => nth c.stages i == 0 || im.entryOk (nth c.sent i)

/-- The records of preloads and postloads (08 R149). -/
def State.prePostOk (s : State) (im : Image) (c : Chart) : Bool :=
  (c.pre ++ c.post).all fun e => match e with
    | none => true
    | some (r, _) => decide (r < im.nrecs) && !(LRec.ofBits (s.recordBits im r)).win

/-- The script's entries (08 R148, R149). -/
def State.scriptOk (s : State) (im : Image) (c : Chart) : Bool :=
  let es := s.scriptOf im c
  (List.range es.length).all fun k => match es[k]? with
    | none => true
    | some ((count, shape), rsv) => rsv && c.shapeOk shape && (if k < c.ncut then decide (1 ≤ count) else count == 0)

/-- The largest group placed on an empty core (08 R149, R163; 17 R277). -/
def Chart.placeOk (c : Chart) : Bool :=
  c.fitsEmpty (List.replicate ((c.vmaxEff + c.width - 1) / c.width + c.stageTeams) c.regs)

/-- 08 R149 for one Chart. -/
def State.chartOk (s : State) (im : Image) (c : Chart) : Bool :=
  c.rsvZero && c.ctlOk && c.limitsOk && c.spaceOk && im.entriesOk c && s.prePostOk im c && s.scriptOk im c && c.placeOk

/-- 12 R220: the root is bound to no node, no node has two Charts, the modes agree, and every count fits. -/
def Image.nodesOk (im : Image) (root : Chart) : Bool :=
  let bound := im.charts.filter Chart.nodeb
  !root.nodeb && decide ((bound.map Chart.node).eraseDups.length = bound.length) &&
  bound.all fun c => c.ordered == root.ordered &&
    (match im.nodes[c.node]? with
     | none => true
     | some (count, _) => decide ((count + c.width - 1) / c.width + c.stageTeams ≤ 64))

/-- The Charts of a launch checked (22 R350: INVALID_CHART where they fail). -/
def State.launchChartsOk (s : State) (im : Image) (root : Chart) : Bool :=
  im.nodesOk root && s.chartOk im root && (im.charts.filter Chart.nodeb).all fun c => s.chartOk im c

end Sys2Proof.Machine
end

