-- ==== Sys2Proof/Machine/HostMemory.lean ====
section
/-!
DEFINITION. Host commands in general (22 R346 to R349), and those on main memory: MAP and UNMAP (R368, 16 R274), COPY (22 R353), and a
peer's transfers.
-/
namespace Sys2Proof.Machine

/-! ### Commands -/

/-- The answer to a command. -/
def State.answer (s : State) (h : CmdHead) (cmd : BitVec 8) (st : Status) (body : List Byte) : State :=
  s.respond h.session h.tag cmd st body

/-- The head of a host command. -/
def headOf : Instr → Option CmdHead
  | .query h | .map h _ | .unmap h _ _ | .load h _ _ _ _ | .unload h _ | .launch h _ | .launchx h _ _ | .wait h _ _ | .cancel h _
  | .cancelKeep h _ | .copyPut h _ _ _ | .copyGet h _ _ _ | .copyXfer h _ _ _ _ _ _ | .attest h _ | .log h _ _ _ | .islandRead h
  | .islandSet h _ _ | .unassignedCommand h _ => some h
  | _ => none

/-- The session of a host command. -/
def sessionOf (i : Instr) : Nat := ((headOf i).map CmdHead.session).getD 0

/-- The sessions that have a command outstanding. -/
def State.sessions (s : State) : List Nat :=
  ((s.waits.map Waiting.session) ++ ((s.copies.filter fun c => c.done.isNone).map Copy.session) ++
   (s.edits.map fun e => sessionOf e.cmd) ++ s.queued.map fun q => sessionOf q.cmd).eraseDups

/-- Commands outstanding: waits, copies under way, edits that wait, and commands that stand behind them. -/
def State.outstanding (s : State) : Nat :=
  s.waits.length + (s.copies.filter fun c => c.done.isNone).length + s.edits.length + s.queued.length

/-- Whether a command goes beyond the limits of 22 R348. -/
def State.tooMany (s : State) (h : CmdHead) : Bool :=
  decide (256 ≤ s.outstanding) || (!s.sessions.contains h.session && decide (64 ≤ s.sessions.length))

/-- The commands that stand in line, each with the cycle of its arrival: page-table edits that wait, then commands that wait for others. -/
def State.lines (s : State) : List (Nat × Instr) := (s.edits.map fun e => (e.since, e.cmd)) ++ s.queued.map fun q => (q.at_, q.cmd)

/-- Whether a session has a command in line, behind which another of its commands stands (22 R348, Order). -/
def State.behind (s : State) (session : Nat) : Bool := s.lines.any fun q => sessionOf q.2 == session

/-- The arrival of the command that is being served: now, or, of a command taken up from the line, when it came. -/
def State.arrival (s : State) : Nat := s.takenUp.getD s.cycle

/-- A command answered: refused for its header (22 R346), or by its rule. -/
def State.answered (s : State) (h : CmdHead) (cmd : BitVec 8) (f : State → State) : Out :=
  if h.rsv ≠ 0 ∨ h.status ≠ 0 ∨ 65504 < h.len.toNat then .next (s.answer h cmd .invalidCommand []) else .next (f s)

/-- A command served. One that arrives is refused for the limits (22 R348), or put in line where its session's turn has not come; one that
is taken up leaves the line. One that is beyond the limits and has a bad header too is answered BUSY (notes/assumptions/77.md, DESIGN
CHOICE). -/
def State.serve (s : State) (i : Instr) (h : CmdHead) (cmd : BitVec 8) (f : State → State) : Out :=
  if s.takenUp.isSome then ({ s with queued := s.queued.eraseP fun q => q.cmd == i } : State).answered h cmd f
  else if s.tooMany h then .next (s.answer h cmd .busy [])
  else if s.behind h.session then .next { s with queued := s.queued ++ [{ at_ := s.cycle, cmd := i }] }
  else s.answered h cmd f

/-! ### Pages -/

/-- The page sizes (10 R191). -/
def pageSizes : List Nat := [2 ^ 16, 2 ^ 21, 2 ^ 30]

/-- Bytes of a die's stack in use (10 R191). -/
def State.stackUsed (s : State) (home : Nat) : Nat := (s.pages.filter fun p => p.home == home).foldl (fun n p => n + p.size) 0

/-- Bytes of a die's stack. -/
def stackBytes : Nat := 96 * 2 ^ 30

/-- A range of main memory cleared: bytes and poison (22 R368). -/
def State.clearRange (s : State) (va len : Nat) : State :=
  { s with
    mem := s.mem.filter fun e => !decide (va ≤ e.1 ∧ e.1 < va + len)
    mpois := s.mpois.filter fun w => !decide (va ≤ 8 * w ∧ 8 * w < va + len)
    mbad := s.mbad.filter fun w => !decide (va ≤ 8 * w ∧ 8 * w < va + len) }

/-- Pages of a size created over a range. -/
def State.addPages (s : State) (va len size home : Nat) (r w : Bool) (peers : List (BitVec 48)) : State :=
  let ps : List Page := (List.range (len / size)).map fun k =>
    { va := va + k * size, size := size, r := r, w := w, home := home, peers := peers }
  { s.clearRange va len with pages := s.pages ++ ps }

/-- Pages dropped from every translation cache (10 R192). -/
def State.shootDown (s : State) (vas : List Nat) : State :=
  { s with cores := s.cores.map fun c => (c.1, { c.2 with tcache := c.2.tcache.filter fun a => !vas.contains a }) }

/-- An entry of the page-table log for each size of a list of pages (22 R361). -/
def State.logPages (s : State) (kind : EditKind) (ps : List Page) (va len stalled : Nat) : State :=
  (pageSizes.filter fun n => ps.any fun p => p.size == n).foldl (fun s n => s.logEdit kind n va len stalled) s

/-- An edit of pages made, or put in line with the cycle of its arrival and the pages that it takes away or narrows (16 R274). -/
def State.edit (s : State) (i : Instr) (va len : Nat) (ps : List Page) (f : State → List Page → Nat → State) : State :=
  if s.edited va len then { s with edits := s.edits ++ [{ since := s.cycle, cmd := i, pages := ps.map Page.va }] } else f s ps 0

/-- The edit in line that the command taken up is. -/
def State.heldEdit (s : State) (i : Instr) : Option Edit := if s.takenUp.isSome then s.edits.find? fun e => e.cmd == i else none

/-- Whether a page-table edit is held no longer. -/
def State.editFree (s : State) : Instr → Bool
  | .map _ o => !s.edited o.va o.len
  | .unmap _ va len => !s.edited va len
  | _ => false

/-- Whether a command in line may be taken up: none of its session stands before it, and no page that it edits is held (22 R348). -/
def State.lineReady (s : State) (k : Nat) : Bool :=
  (s.lines[k]?).any fun q =>
    !((s.lines.take k).any fun p => sessionOf p.2 == sessionOf q.2) && (decide (s.edits.length ≤ k) || s.editFree q.2)

/-- The command in line that is taken up first by default. -/
def State.nextLine (s : State) : Option Nat := (List.range s.lines.length).find? s.lineReady

/-- An edit that stands in line, made once nothing holds it: it acts on the pages that it found, as far as they stand, and leaves the
line. -/
def State.finishEdit (s : State) (e : Edit) (va len : Nat) (f : State → List Page → Nat → State) : State :=
  if s.edited va len then s
  else
    let s := { s with edits := s.edits.erase e }
    f s (s.pages.filter fun p => e.pages.contains p.va && p.inside va len) (s.cycle - e.since)

/-- Whether MAP's operands are refused whatever is mapped (22 R368, first row). -/
def MapOps.bad (o : MapOps) : Bool :=
  o.rsv || o.len == 0 || !pageSizes.contains o.size || o.va % o.size != 0 || o.len % o.size != 0 ||
  decide (2 ^ 48 < o.va + o.len) || decide (3 < o.home) || decide (8 < o.peers.length)

/-- A narrowing MAP made on its pages (22 R368, 10 R192). -/
def State.narrow (s : State) (h : CmdHead) (o : MapOps) (ps : List Page) (stalled : Nat) : State :=
  let vas := ps.map Page.va
  let s := { s with pages := s.pages.map fun (p : Page) => if vas.contains p.va then { p with r := o.r, w := o.w, peers := o.peers } else p }
  let s := (s.shootDown vas).logEdit .narrow o.size o.va o.len stalled
  (s.logEdit .shootDown o.size o.va o.len stalled).answer h 0x02#8 .success []

/-- MAP (22 R368). -/
def State.mapCmd (s : State) (h : CmdHead) (o : MapOps) : State :=
  let inside := s.pages.filter fun p => p.inside o.va o.len
  let ans (s : State) (st : Status) : State := s.answer h 0x02#8 st []
  if MapOps.bad o then ans s .invalidOperand
  else if s.pages.any fun p => p.meets o.va o.len && !p.inside o.va o.len then ans s .invalidOperand
  else if inside.isEmpty then
    if stackBytes < s.stackUsed o.home + o.len then ans s .noSpace
    else ans ((s.addPages o.va o.len o.size o.home o.r o.w o.peers).logEdit .map o.size o.va o.len 0) .success
  else if decide (inside.length * o.size = o.len) && inside.all fun p => p.size == o.size && p.home == o.home then
    if (inside.any fun p => (p.r && !o.r) || (p.w && !o.w)) = true then s.edit (.map h o) o.va o.len inside fun s ps n => s.narrow h o ps n
    else
      let set (p : Page) : Page := if p.inside o.va o.len then { p with r := o.r, w := o.w, peers := o.peers } else p
      ans (({ s with pages := s.pages.map set } : State).logEdit .map o.size o.va o.len 0) .success
  else ans s .invalidOperand

/-- MAP, or a MAP in line that is taken up. -/
def execMap (h : CmdHead) (o : MapOps) (s : State) : Out :=
  match s.heldEdit (.map h o) with
  | some e => .next (s.finishEdit e o.va o.len fun s ps n => s.narrow h o ps n)
  | none => s.serve (.map h o) h 0x02#8 fun s => s.mapCmd h o

/-- An UNMAP made on its pages (22 R368, 10 R192). -/
def State.unmapPages (s : State) (h : CmdHead) (va len : Nat) (ps : List Page) (stalled : Nat) : State :=
  let vas := ps.map Page.va
  let s := { s with pages := s.pages.filter fun p => !vas.contains p.va }
  let s := (s.shootDown vas).logPages .unmap ps va len stalled
  (s.logPages .shootDown ps va len stalled).answer h 0x03#8 .success []

/-- UNMAP (22 R368). -/
def State.unmapCmd (s : State) (h : CmdHead) (va len : Nat) : State :=
  let ans (s : State) (st : Status) : State := s.answer h 0x03#8 st []
  let inside := s.pages.filter fun p => p.inside va len
  if len = 0 ∨ va % 2 ^ 16 ≠ 0 ∨ len % 2 ^ 16 ≠ 0 ∨ 2 ^ 48 < va + len then ans s .invalidOperand
  else if s.pages.any fun p => p.meets va len && !p.inside va len then ans s .invalidOperand
  else if inside.isEmpty then ans s .notFound
  else s.edit (.unmap h va len) va len inside fun s ps n => s.unmapPages h va len ps n

/-- UNMAP, or an UNMAP in line that is taken up. -/
def execUnmap (h : CmdHead) (va len : Nat) (s : State) : Out :=
  match s.heldEdit (.unmap h va len) with
  | some e => .next (s.finishEdit e va len fun s ps n => s.unmapPages h va len ps n)
  | none => s.serve (.unmap h va len) h 0x03#8 fun s => s.unmapCmd h va len

/-! ### COPY -/

/-- Whether an id names a launch or a copy admitted since reset (22 R350). -/
def State.admittedId (s : State) (id : Nat) : Bool := (s.launch? id).isSome || s.copies.any fun c => c.id == id

/-- A COPY admitted (22 R353), or refused for its length, its predecessors or their number. -/
def State.copyCmd (s : State) (h : CmdHead) (form : CopyForm) (va len limit : Nat) (preds : List Nat) : State :=
  if limit < len ∨ 4 < preds.length then s.answer h 0x0A#8 .invalidOperand []
  else if !preds.all s.admittedId then s.answer h 0x0A#8 .notFound []
  else
    { s with
      nextId := s.nextId + 1
      copies := s.copies ++
        [{ id := s.nextId, form := form, va := va, len := len, preds := preds, session := h.session, tag := h.tag, done := none
           got := [], moved := 0 }] }

/-- COPY, form PUT (22 R353). -/
def execCopyPut (h : CmdHead) (va : Nat) (data : List Byte) (preds : List Nat) (s : State) : Out :=
  s.serve (.copyPut h va data preds) h 0x0A#8 fun s => s.copyCmd h (.put data) va data.length 65472 preds

/-- COPY, form GET. -/
def execCopyGet (h : CmdHead) (va len : Nat) (preds : List Nat) (s : State) : Out :=
  s.serve (.copyGet h va len preds) h 0x0A#8 fun s => s.copyCmd h .get va len 65472 preds

/-- COPY, form XFER: out of this device, or into it. -/
def execCopyXfer (h : CmdHead) (out : Bool) (peer : BitVec 48) (va peerVa len : Nat) (preds : List Nat) (s : State) : Out :=
  s.serve (.copyXfer h out peer va peerVa len preds) h 0x0A#8 fun s => s.copyCmd h (.xfer out peer peerVa) va len (2 ^ 40) preds

/-- A COPY answered: its id is over, and the waits for it end. -/
def State.endCopy (s : State) (c : Copy) (st : Status) (body : List Byte) : State :=
  let s := { s with copies := s.copies.map fun (d : Copy) => if d.id == c.id then { d with done := some st } else d }
  (s.respond c.session c.tag 0x0A#8 st (leBytes 8 c.id ++ body)).answerWaits c.id st (leBytes 2 st.code)

/-- What a transfer into device memory ends with. -/
def State.endPut (s : State) (c : Copy) (bs : List Byte) : State :=
  let r := s.putBytes c.va bs [] c.moved
  match r.2 with
  | none => r.1.endCopy c .success []
  | some a => r.1.endCopy c .copyFault (leBytes 8 a)

/-- Whether a byte of a copy's source has been read. -/
def Copy.has (c : Copy) (a : Nat) : Bool := c.got.any fun e => e.1 == a

/-- The bytes of a copy's source: those read before, the others as they are. -/
def State.sourceBytes (s : State) (c : Copy) : List Byte :=
  (List.range c.len).map fun i => ((c.got.find? fun e => e.1 == c.va + i).map Prod.snd).getD (s.mem.read (c.va + i))

/-- The first byte of a copy's source, of those not read yet, that may not be read. -/
def State.sourceBad (s : State) (c : Copy) : Option Nat :=
  ((List.range c.len).map fun i => c.va + i).find? fun a => !c.has a && !s.mayRead (a : Int) 1

/-- The granules of a copy's source that have not been read met (10 R193). -/
def State.meetSource (s : State) (c : Copy) : State :=
  ((granParts c.va c.len).filter fun p => !c.has p.1).foldl (fun s p => s.meet p.1 p.2) s

/-- What a transfer out of device memory ends with: `fault` is the address at which the other end faults. Of the two ends the one whose
granule comes first decides; `other` is the other end's address of the first byte. -/
def State.endGet (s : State) (c : Copy) (other : Nat) (fault : Option Nat) (body : List Byte → List Byte) : State :=
  match s.sourceBad c, fault with
  | none, none => (s.meetSource c).endCopy c .success (body (s.sourceBytes c))
  | some a, none => s.endCopy c .copyFault (leBytes 8 a)
  | none, some b => s.endCopy c .copyFault (leBytes 8 b)
  | some a, some b => s.endCopy c .copyFault (leBytes 8 (if b - other < a - c.va then b else a))

/-- What a transfer in from a peer whose end faults at an address ends with: the destination granules below the one that takes the
faulting byte are written. -/
def State.endPart (s : State) (c : Copy) (peerVa a : Nat) (data : List Byte) : State :=
  let r := s.putBytes c.va (data.take ((c.va + (a - peerVa)) / 64 * 64 - c.va)) [] c.moved
  r.1.endCopy c .copyFault (leBytes 8 (r.2.getD a))

/-- A copy under way whose predecessors have succeeded. -/
def State.copyNow (s : State) (id : Nat) : Option Copy :=
  s.copies.find? fun c => c.id == id && c.done.isNone && s.predsDone c.preds

/-- A copy written back. -/
def State.setCopy (s : State) (c : Copy) : State := { s with copies := s.copies.map fun d => if d.id == c.id then c else d }

/-- A granule of a copy's source read before the rest (22 R353, 24 R367): each is read at a point of its own. -/
def State.microCopyRead (s : State) (id k : Nat) : State :=
  match s.copyNow id with
  | none => s
  | some c =>
    let out := match c.form with
      | .get | .xfer true _ _ => true
      | _ => false
    match if out then (granParts c.va c.len)[k]? else none with
    | none => s
    | some p =>
      if c.has p.1 || (s.firstBad false p.1 p.2).isSome then s
      else (s.meet p.1 p.2).setCopy
        { c with got := c.got ++ (List.range p.2).map fun i => (p.1 + i, s.mem.read (p.1 + i)) }

/-- The next granule of a copy's destination written before the rest (22 R353): `bs` is what a peer sends for it. -/
def State.microCopyWrite (s : State) (id : Nat) (bs : List Byte) : State :=
  match s.copyNow id with
  | none => s
  | some c =>
    let put (va : Nat) (data : List Byte) (p : Nat × Nat) : State :=
      let r := s.putGran va data [] p
      if r.2.isSome then s else r.1.setCopy { c with moved := c.moved + 1 }
    match c.form, (granParts c.va c.len)[c.moved]? with
    | .put data, some p => put c.va data p
    | .xfer false _ _, some p => if bs.length = p.2 then put p.1 bs p else s
    | _, _ => s

/-- The end of a COPY: `peer` says what the peer's end of an XFER comes to; bytes that are not all there are no end. -/
def State.finishCopy (s : State) (c : Copy) (peer : Option PeerEnd) : State :=
  if s.predFailed c.preds then s.endCopy c .dependenceFailed []
  else if !s.predsDone c.preds then s
  else
    match c.form, peer with
    | .put data, _ => s.endPut c data
    | .get, _ => s.endGet c 0 none id
    | .xfer _ _ _, none => s
    | .xfer _ _ _, some .refuses => s.endCopy c .peerRefused []
    | .xfer true _ pva, some (.faults a _) => s.endGet c pva (some a) fun _ => []
    | .xfer true _ pva, some (.takes _) => s.endGet c pva none fun _ => []
    | .xfer false _ pva, some (.faults a data) => if (a - pva) ≤ data.length then s.endPart c pva a data else s
    | .xfer false _ _, some (.takes data) => if data.length = c.len then s.endPut c data else s

/-- COPY_COMPLETION (22 R353). -/
def execCopyCompletion (id : Nat) (peer : Option PeerEnd) (s : State) : Out :=
  match s.copies.find? fun c => c.id == id && c.done.isNone with
  | some c => .next (s.finishCopy c peer)
  | none => .next s

/-- Whether every page of a range allows a peer (22 R348, R353). -/
def State.peerAllowed (s : State) (peer : BitVec 48) (va len : Nat) : Bool :=
  (List.range len).all fun i => (s.page? (va + i)).any fun p => p.peers.contains peer

/-- A peer's XFER as it comes in. -/
def PeerXfer.fresh (peer : BitVec 48) (put : Bool) (va len : Nat) (data : List Byte) : PeerXfer :=
  { peer := peer, put := put, va := va, len := len, data := data, got := [], moved := 0 }

/-- Whether a transfer under way is the one of a request. -/
def PeerXfer.of (x : PeerXfer) (peer : BitVec 48) (put : Bool) (va len : Nat) (data : List Byte) : Bool :=
  x.peer == peer && x.put == put && x.va == va && x.len == len && x.data == data

/-- Whether every page that a peer's XFER touches allows the peer. -/
def State.xferAllowed (s : State) (peer : BitVec 48) (put : Bool) (va len : Nat) (data : List Byte) : Bool :=
  s.peerAllowed peer va (if put then data.length else len)

/-- A peer's XFER begun that is not served at once, where its peer is allowed (22 R353, 24 R367). -/
def State.microPeer (s : State) (peer : BitVec 48) (put : Bool) (va len : Nat) (data : List Byte) : State :=
  if s.xferAllowed peer put va len data && !s.xfers.any fun x => x.of peer put va len data then
    { s with xfers := s.xfers ++ [PeerXfer.fresh peer put va len data] }
  else s

/-- A granule of a peer's XFER read, or its next one written, at a point of its own (22 R353, 24 R367). -/
def State.microPeerGran (s : State) (i k : Nat) : State :=
  match s.xfers[i]? with
  | none => s
  | some x =>
    if x.put then
      match (granParts x.va x.data.length)[x.moved]? with
      | none => s
      | some p =>
        let r := s.putGran x.va x.data [] p
        if r.2.isSome then s else { r.1 with xfers := s.xfers.set i { x with moved := x.moved + 1 } }
    else
      match (granParts x.va x.len)[k]? with
      | none => s
      | some p =>
        if x.got.any (fun e => e.1 == p.1) || (s.firstBad false p.1 p.2).isSome then s
        else
          let s := s.meet p.1 p.2
          { s with xfers := s.xfers.set i { x with got := x.got ++ (List.range p.2).map fun j => (p.1 + j, s.mem.read (p.1 + j)) } }

/-- A byte of a peer's source: as it was read, or as it is. -/
def State.xferByte (s : State) (x : PeerXfer) (a : Nat) : Byte := ((x.got.find? fun e => e.1 == a).map Prod.snd).getD (s.mem.read a)

/-- The first byte of a peer's source, of those not read yet, that may not be read. -/
def State.xferBad (s : State) (x : PeerXfer) : Option Nat :=
  ((List.range x.len).map fun i => x.va + i).find? fun a => !(x.got.any fun e => e.1 == a) && !s.mayRead (a : Int) 1

/-- The first n bytes of a peer's source met, those that have not been read (10 R193), and what they are. -/
def State.xferRead (s : State) (x : PeerXfer) (n : Nat) : State × List Byte :=
  let s := ((granParts x.va n).filter fun p => !(x.got.any fun e => e.1 == p.1)).foldl (fun s p => s.meet p.1 p.2) s
  (s, (List.range n).map fun i => s.xferByte x (x.va + i))

/-- PEER_XFER_REQUEST (22 R353): what is left of the transfer is made. The answer goes to the peer, as session 0; of a read that faults it
gives the lowest faulting address and the bytes before it, which the peer's granules below the faulting one take. -/
def execPeerXferRequest (peer : BitVec 48) (put : Bool) (va len : Nat) (data : List Byte) (s : State) : Out :=
  let begun := s.xfers.find? fun x => x.of peer put va len data
  if begun.isNone && !s.xferAllowed peer put va len data then .next (s.respond 0 0 0x0A#8 .peerRefused [])
  else
    let x := begun.getD (PeerXfer.fresh peer put va len data)
    let s := { s with xfers := s.xfers.filter fun y => !y.of peer put va len data }
    if put then
      let r := s.putBytes va data [] x.moved
      .next (match r.2 with
        | none => r.1.respond 0 0 0x0A#8 .success []
        | some a => r.1.respond 0 0 0x0A#8 .copyFault (leBytes 8 a))
    else
      match s.xferBad x with
      | none => let r := s.xferRead x len; .next (r.1.respond 0 0 0x0A#8 .success r.2)
      | some a => let r := s.xferRead x (a - va); .next (r.1.respond 0 0 0x0A#8 .copyFault (leBytes 8 a ++ r.2))

end Sys2Proof.Machine
end

