-- ==== Sys2Proof/Machine/HostLaunch.lean ====
section
/-!
DEFINITION. Host commands on launches (22 R350 to R352): LAUNCH and LAUNCHX with their admission, WAIT, and CANCEL.
-/
namespace Sys2Proof.Machine

/-! ### Admission -/

/-- The budget of a launch (20 R323): the Chart's, or the command's. -/
def budgetOf (c : Chart) (n : Nat) : Nat := if c.budget = 0 then n else c.budget

/-- The dies that a mask names (22 R350). -/
def diesOf (m : Nat) : List Nat := (List.range 4).filter fun d => m / 2 ^ d % 2 == 1

/-- The die sets from which the service chooses: the fewest dies first, then the lowest indices (22 R350). -/
def dieSets : List Nat := [1, 2, 4, 8, 3, 5, 9, 6, 10, 12, 7, 11, 13, 14, 15]

/-- Whether the die regions of a launch find a place in the export of every core of a die set: beside those of the launches that live on a
die, each from a multiple of 1 KiB on, at most 1 MiB (10 R177, R183). -/
def State.exportFits (s : State) (dies : List Nat) (dsize : Nat) : Bool :=
  dies.all fun d => decide (s.exportUsed d + (dsize + 1023) / 1024 * 1024 ≤ 2 ^ 20)

/-- The die set of a launch: the one named, or the first whose free cores can honour the budget; `none` where the budget cannot be
honoured, or the regions find no place (notes/assumptions/54.md, DEDUCED). The estimate is the service's own (22 R350), an open value
for each set at each moment (notes/assumptions/2.md). -/
def State.chooseDies (s : State) (mask dsize : Nat) : Option Nat :=
  (if mask ≠ 0 then [mask] else dieSets).find? fun m => s.exportFits (diesOf m) dsize && Config.budgetFits (s.fresh + m)

/-- The estimates used up. -/
def State.estimated (s : State) : State := { s with fresh := s.fresh + 16 }

/-- Whether LAUNCH refuses an operand (22 R350). -/
def LaunchOps.bad (o : LaunchOps) (c : Chart) : Bool :=
  decide (256 < o.args.length) || decide (16 ≤ o.dies.toNat) || o.dsize % 64 != 0 || decide (2 ^ 20 < o.dsize) ||
  decide (64 < o.nc) || decide (4 < o.preds.length) || budgetOf c o.budget == 0 ||
  ((o.load.isSome || o.save.isSome) && (o.nc == 0 || o.dsize == 0))

/-- Whether the region images lie in pages with the rights that they need (22 R350), for a die set of d dies. -/
def State.imagesOk (s : State) (o : LaunchOps) (d : Nat) : Bool :=
  (match o.load with
   | none => true
   | some va => s.mayRead (va : Int) (o.nc * o.dsize)) &&
  (match o.save with
   | none => true
   | some va => s.mayWrite (va : Int) (d * o.nc * o.dsize))

/-- The launch that a command admits: its time since the command's arrival was queueing (22 R354). -/
def LaunchOps.launch (o : LaunchOps) (s : State) (h : CmdHead) (c : Chart) (mask : Nat) (script : List (Nat × List Nat)) : Launch :=
  { Launch.fresh s.nextId o.image o.chart with
    args := o.args, budget := budgetOf c o.budget, stamp := s.arrival, acct := [0, 0, 0, 0, s.cycle - s.arrival], dies := diesOf mask, dsize := o.dsize, nc := o.nc
    load := o.load, save := o.save, preds := o.preds, session := h.session, tag := h.tag, script := script }

/-- The grace of a pre-emption class in reference cycles; `none` for the class that is not pre-empted (20 R316). -/
def graceOf (pclass : Nat) : Option Nat :=
  match pclass with
  | 0 => some 0
  | 1 => some 16000
  | 2 => some 160000
  | _ => none

/-- Whether a resident group gives way to a launch of a priority class (20 R316), and from when. -/
def State.yields (s : State) (prio : Nat) (g : Group) : Option Nat :=
  match s.groupChart? g.gid, s.launch? g.launch with
  | some (_, c), some l => if s.prioOf l < prio then (graceOf c.pclass).map (s.cycle + ·) else none
  | _, _ => none

/-- The groups of a die's lowest core that would take a group of the launch once they were gone, where no core takes one as things
stand: those that the admission pre-empts (20 R316; which core, the service's choice: notes/assumptions/18.md). -/
def State.victims (s : State) (c : Chart) (probe : Group) (die : Nat) : List Group :=
  if (List.range 64).any fun k => (s.plan probe c die k).isSome then []
  else
    ((List.range 64).findSome? fun k =>
      let gs := (s.residents die k).filter fun g => (g.status == .running || g.status == .loading) && (s.yields c.prio g).isSome
      let s' := { s with groups := s.groups.map fun (x : Group) => if gs.any fun g => g.gid == x.gid then { x with status := .share } else x }
      if !gs.isEmpty && (s'.plan probe c die k).isSome then some gs else none).getD []

/-- The graces begun by an admission (20 R316). -/
def State.beginGrace (s : State) (l : Launch) (c : Chart) : State :=
  let probe := { Group.fresh 0 l.id l.chart with ext := [c.vmaxEff, 1, 1, 1] }
  let hit := l.dies.flatMap fun d => s.victims c probe d
  { s with groups := s.groups.map fun (g : Group) =>
      if hit.any fun x => x.gid == g.gid then { g with grace := g.grace <|> s.yields c.prio g } else g }

/-- A launch admitted: its id in the answer. -/
def State.admitLaunch (s : State) (h : CmdHead) (cmd : BitVec 8) (l : Launch) (c : Chart) : State :=
  let s := { s with launches := s.launches ++ [l], nextId := s.nextId + 1 }
  (s.beginGrace l c).answer h cmd .admitted (leBytes 8 l.id)

/-- LAUNCH and LAUNCHX without a continuation (22 R350): the first check that fails gives the answer. -/
def State.launchCmd (s : State) (h : CmdHead) (cmd : BitVec 8) (o : LaunchOps) (bkpt : BitVec 16) (sample : Nat) : State :=
  match s.image? o.image with
  | none => s.answer h cmd .notFound []
  | some im =>
    match im.charts[o.chart]? with
    | none => s.answer h cmd .invalidOperand []
    | some c =>
      if !s.launchChartsOk im c then s.answer h cmd .invalidChart []
      else if LaunchOps.bad o c then s.answer h cmd .invalidOperand []
      else if !o.preds.all s.admittedId then s.answer h cmd .notFound []
      else
        match s.chooseDies o.dies.toNat o.dsize with
        | none => s.estimated.answer h cmd .budgetRefused []
        | some mask =>
          let s := s.estimated
          if !s.imagesOk o (diesOf mask).length then s.answer h cmd .invalidOperand []
          else
            let l := LaunchOps.launch o s h c mask ((s.scriptOf im c).map Prod.fst)
            s.admitLaunch h cmd { l with bkpt := bkpt, sample := sample } c

/-- LAUNCH (22 R350). -/
def execLaunch (h : CmdHead) (o : LaunchOps) (s : State) : Out := s.serve (.launch h o) h 0x06#8 fun s => s.launchCmd h 0x06#8 o 0#16 0

/-! ### Continuations -/

/-- The launch that resumes a continuation (20 R325): image, Chart, arguments, die set and all that the continuation holds. Until the dies
report anew, none of their keys is taken to lie above the frontier (12 R232). The time since the command's arrival was queueing
(22 R354). -/
def Launch.resumed (l : Launch) (id session : Nat) (tag : BitVec 64) (budget arrival now : Nat) : Launch :=
  { l with
    id := id, budget := budget, stamp := arrival, session := session, tag := tag, cont := 0, status := .pending, saved := false, savedTo := 0
    phase := if l.shape.isEmpty then .admitted else .dispatching
    reports := List.replicate 4 (l.front.foldl minKey Key.none), acct := [0, 0, 0, 0, now - arrival], missing := 0
    exchanged := List.replicate 4 now, reported := List.replicate 4 now, sampled := List.replicate 4 now
    inbox := [], replies := [], steals := List.replicate 4 none, transit := [] }

/-- A packet of a launch that was stopped, as its continuation's launch takes it over: a measurement goes on to the Sextant, and a
frontier to its die; counts, reports and what moved groups are over (20 R325). -/
def Packet.carried (old new : Nat) (p : Packet) : Option Packet :=
  if p.what.launch = old then (match p.what with
    | .measure _ m v => some { p with what := .measure new m v }
    | .frontier _ k => some { p with what := .frontier new k }
    | _ => none)
  else some p

/-- LAUNCHX with a continuation (20 R325, 22 R350): its other operands are ignored, but for reserved bits (00 R6); the sets of its bins
that became ripe while dispatch stood launch (12 R223). In which order its refusals are tested is the model's choice
(notes/assumptions/27.md). -/
def State.resumeCont (s : State) (h : CmdHead) (cont budget dies : Nat) : State :=
  match s.conts.find? fun c => c.1 == cont with
  | none => s.answer h 0x07#8 .notFound []
  | some (_, old) =>
    match s.launch? old with
    | none => s.answer h 0x07#8 .notFound []
    | some l =>
      match s.rootChart l with
      | none => s.answer h 0x07#8 .notFound []
      | some c =>
        if budget = 0 ∨ 16 ≤ dies then s.answer h 0x07#8 .invalidOperand []
        else if l.phase ≠ .complete then s.answer h 0x07#8 .busy []
        else if !s.exportFits l.dies l.dsize || !Config.budgetFits s.fresh then s.estimated.answer h 0x07#8 .budgetRefused []
        else
          let s := s.estimated
          let n := l.resumed s.nextId h.session h.tag budget s.arrival s.cycle
          let own (g : Group) : Group := if g.launch == old && g.status != .done then { g with launch := n.id } else g
          let s := { s with
            groups := s.groups.map own, conts := s.conts.filter fun c => c.1 != cont
            packets := s.packets.filterMap (Packet.carried old n.id) }
          let s := s.setLaunch { l with region := [], rpois := [], bins := [], shares := List.replicate 4 [] }
          n.dies.foldl (fun s d => s.binsFlush n.id d) (s.admitLaunch h 0x07#8 n c)

/-- LAUNCHX (22 R350). -/
def execLaunchx (h : CmdHead) (o : LaunchOps) (x : LaunchXOps) (s : State) : Out :=
  s.serve (.launchx h o x) h 0x07#8 fun s => match x.cont with
    | some k => s.resumeCont h k o.budget o.dies.toNat
    | none => s.launchCmd h 0x07#8 o x.bkpt x.sample

/-! ### WAIT and CANCEL -/

/-- The answer that a finished id gives to a WAIT (22 R351, R353). -/
def State.finalAnswer (s : State) (id : Nat) : Option (Status × List Byte) :=
  (s.finalStatus id).map fun st => (st, match s.launch? id with
    | some l => l.record
    | none => leBytes 2 st.code)

/-- WAIT (22 R348). -/
def execWait (h : CmdHead) (id timeout : Nat) (s : State) : Out :=
  s.serve (.wait h id timeout) h 0x08#8 fun s =>
    if !s.admittedId id then s.answer h 0x08#8 .notFound []
    else match s.finalAnswer id with
    | some (st, body) => s.answer h 0x08#8 st body
    | none =>
      { s with
        nextId := s.nextId + 1
        waits := s.waits ++ [{ id := s.nextId, target := id, deadline := s.cycle + timeout * 800, session := h.session, tag := h.tag }] }

/-- A WAIT whose timeout has come. -/
def State.waitNow (s : State) (id : Nat) : Option Waiting := s.waits.find? fun w => w.id == id && decide (w.deadline ≤ s.cycle)

/-- WAIT_TIMEOUT (22 R348): PENDING. -/
def execWaitTimeout (id : Nat) (s : State) : Out :=
  match s.waitNow id with
  | some w => .next ({ s with waits := s.waits.erase w }.respond w.session w.tag 0x08#8 .pending [])
  | none => .next s

/-- CANCEL in either form (22 R352): a launch whose record is built stands. -/
def State.cancelCmd (s : State) (h : CmdHead) (id : Nat) (f : State → State) : State :=
  match s.launch? id with
  | none => s.answer h 0x09#8 .notFound []
  | some l => (if l.open? then f s else s).answer h 0x09#8 .success []

/-- CANCEL (22 R352). -/
def execCancel (h : CmdHead) (id : Nat) (s : State) : Out :=
  s.serve (.cancel h id) h 0x09#8 fun s => s.cancelCmd h id fun s => s.cancelLaunch id

/-- CANCEL, KEEP form (22 R352): as budget expiry. -/
def execCancelKeep (h : CmdHead) (id : Nat) (s : State) : Out :=
  s.serve (.cancelKeep h id) h 0x09#8 fun s => s.cancelCmd h id fun s => s.stopLaunch id

/-- A command code not in the table (22 R348). -/
def execUnassignedCommand (h : CmdHead) (cmd : BitVec 8) (s : State) : Out :=
  s.serve (.unassignedCommand h cmd) h cmd fun s => s.answer h cmd .invalidCommand []

end Sys2Proof.Machine
end

