-- ==== Sys2Proof/Machine/HostImages.lean ====
section
/-!
DEFINITION. Kernel images (22 R355 to R357, R359, R360; 03 R60): LOAD and UNLOAD.
-/
namespace Sys2Proof.Machine

/-! ### The container -/

/-- An image's sections (22 R355): offset and size, in the order of SECT. -/
def sectAt (b : List Byte) (i : Nat) : Nat × Nat := (leAt b (16 + 8 * i) 4, leAt b (20 + 8 * i) 4)

/-- A section's bytes. -/
def sectBytes (b : List Byte) (i : Nat) : List Byte := let p := sectAt b i; (b.drop p.1).take p.2

/-- Whether the image is signed (22 R355). -/
def isSigned (b : List Byte) : Bool := bitsAt (leAt b 12 4) 0 1 == 1

/-- The header's limits (22 R355). -/
def headerOk (b : List Byte) : Bool :=
  decide (128 ≤ b.length ∧ b.length < 2 ^ 32) && leAt b 0 4 == 0x54464E4C && bitsAt (leAt b 12 4) 1 31 == 0 &&
  ((b.drop 80).take 48).all (· == 0#8) &&
  (List.range 8).all fun i => (sectAt b i).2 == 0 || decide (128 ≤ (sectAt b i).1 ∧ (sectAt b i).1 + (sectAt b i).2 ≤ b.length)

/-- Entries of n bytes of a table. -/
def entriesOf (n : Nat) (b : List Byte) : List (List Byte) := (List.range (b.length / n)).map fun i => (b.drop (n * i)).take n

/-- The tables' limits (22 R355, 03 R58, R60). That LOAD refuses a node entry beyond the limits of 03 R58 is the model's choice
(notes/assumptions/48.md, DEDUCED). -/
def tablesOk (b : List Byte) : Bool :=
  let size (i : Nat) : Nat := (sectAt b i).2
  decide (size 0 % 256 = 0 ∧ size 0 / 256 ≤ 256 ∧ size 1 % 64 = 0 ∧ size 1 / 64 ≤ 65536) &&
  decide (size 2 % 8 = 0 ∧ size 2 / 8 ≤ 16 ∧ size 5 % 16 = 0 ∧ size 5 / 16 ≤ 16) &&
  ((entriesOf 8 (sectBytes b 2)).all fun e =>
    decide (1 ≤ leAt e 0 2 ∧ leAt e 0 2 ≤ 1024 ∧ 1 ≤ leAt e 2 2) && leAt e 4 4 == 0) &&
  ((entriesOf 16 (sectBytes b 5)).all fun e => leAt e 12 4 == 0 && decide (leAt e 4 4 + leAt e 8 4 ≤ b.length)) &&
  (!isSigned b || size 7 == 7219)

/-- Bytes of a block's entry table with its alignment (22 R355). -/
def entryTable (charts : Nat) : Nat := (20 * charts + 15) / 16 * 16

/-- Five entry points for each Chart: ENTRY, HANDLER, SENT1 to SENT3. -/
def entryPoints (charts : Nat) (block : List Byte) : List (List Nat) :=
  (List.range charts).map fun i => (List.range 5).map fun j => leAt block (20 * i + 4 * j) 4

/-- A block's code as words; what LOAD makes of a code whose size is no multiple of 8 bytes the spec does not say: the bytes beyond the
last whole word are left out (notes/assumptions/47.md, DESIGN CHOICE). -/
def codeWords (bs : List Byte) : List DWord := (entriesOf 8 bs).map fun w => dwordOf (leNat w)

/-- The device's level (22 R358). -/
def deviceLevel : Nat := 1

/-- The native block of the highest level that does not exceed the device's (22 R356). -/
def nativeBlock (b : List Byte) : Option (List Byte) :=
  ((entriesOf 16 (sectBytes b 5)).foldl (fun (best : Option (Nat × List Byte)) e =>
    let lv := leAt e 0 4
    if lv ≤ deviceLevel && (best.all fun x => decide (x.1 < lv)) then some (lv, (b.drop (leAt e 4 4)).take (leAt e 8 4)) else best)
    none).map Prod.snd

/-! ### Eceel -/

/-- Whether an operand field of a record is one that R357 reads. -/
def eceelOperand (v : Nat) : Bool :=
  let k := bitsAt v 21 3
  decide (k ≤ 2) || (k == 3 && bitsAt v 8 13 == 0) || v == 2 ^ 24 - 1

/-- The name that a virtual operand stands for in the native twin of a record: register n of its kind. -/
def eceelName (v n : Nat) : Option RegName :=
  match bitsAt v 21 3 with
  | 0 => some (.v n)
  | 1 => some (.s n)
  | 2 => some (.p n)
  | _ => none

/-- The native field of an operand: register n for a virtual one, the value of a fixed one, 0 for none. -/
def eceelField (v n : Nat) : BitVec 8 :=
  match bitsAt v 21 3 with
  | 3 => BitVec.ofNat 8 v
  | 7 => 0#8
  | _ => BitVec.ofNat 8 n

/-- A base record with its extension, or an extension of zeros, by operand fields: D, A, B, C and G. -/
structure EceelRec where
  base : Nat
  ext  : Option Nat
  deriving DecidableEq, Repr

/-- Whether an opcode's instruction has a source B that may be an immediate (02 R27, R40). -/
def takesImm (c : BitVec 10) : Bool :=
  (IntOpc.ofCode c).isSome || (FltOpc.ofCode c).any FltOpc.readsB || (CvtOpc.ofCode c).isSome || (SclOpc.ofCode c).isSome ||
  (XOpc.ofCode c).isSome || (AtomOpc.ofCode c).isSome ||
  [0x0B1, 0x0B2, 0x0B3, 0x120, 0x160, 0x170, 0x172, 0x180, 0x181, 0x190, 0x1C8, 0x1C9, 0x208, 0x20A, 0x20B].contains c.toNat

/-- Whether source B of a record is an immediate (02 R27). -/
def EceelRec.imm (r : EceelRec) : Bool := decide (2 ≤ bitsAt r.base 116 2) && takesImm (BitVec.ofNat 10 (bitsAt r.base 118 10))

/-- The operands of a record that name registers, each with the register that its twin names: B apart where it is an immediate. -/
def EceelRec.operands (r : EceelRec) : List (Nat × Nat) :=
  [(bitsAt r.base 48 24, 8), (bitsAt r.base 24 24, 16)] ++ (if r.imm then [] else [(bitsAt r.base 0 24, 24)]) ++
  (match r.ext with
   | none => []
   | some e => [(bitsAt e 72 24, 32), (bitsAt e 48 24, 40)])

/-- The native base word of a record, of a form, with the longest STALL, which no latency passes (01 R18). `fld` gives the native field
of an operand, from the operand and its place in the record. -/
def EceelRec.word (r : EceelRec) (fld : Nat → Nat → BitVec 8) (form : BitVec 2) : DWord :=
  let c := (r.ext.map fun e => bitsAt e 72 24).getD 0
  let g := (r.ext.map fun e => bitsAt e 48 24).getD (2 ^ 24 - 1)
  ({ opc := BitVec.ofNat 10 (bitsAt r.base 118 10), stall := 15#4, form := form, neg := BitVec.ofNat 1 (bitsAt r.base 107 1)
     pred := if g = 2 ^ 24 - 1 then 63#6 else (fld g 40).setWidth 6
     dst := fld (bitsAt r.base 48 24) 8, a := fld (bitsAt r.base 24 24) 16
     b := if r.imm then BitVec.ofNat 8 r.base else fld (bitsAt r.base 0 24) 24
     c := if r.ext.isSome then fld c 32 else 0#8
     kind := BitVec.ofNat 2 (bitsAt r.base 116 2), mod := BitVec.ofNat 7 (bitsAt r.base 109 7) } : Raw).pack

/-- EXF and IMM of a record. -/
def EceelRec.exf (r : EceelRec) : BitVec 30 := BitVec.ofNat 30 ((r.ext.map fun e => bitsAt e 96 30).getD 0)
def EceelRec.immediate (r : EceelRec) : Word := BitVec.ofNat 32 ((r.ext.map fun e => bitsAt e 0 32).getD 0)

/-- The native instruction that a record names, and whether it takes an extension word: `none` where a field is reserved (22 R357,
02 R24 to R36). -/
def EceelRec.read (r : EceelRec) (fld : Nat → Nat → BitVec 8) : Option (Instr × Bool) :=
  let plain := if r.exf == 0#30 && r.immediate == 0#32 then (decodeWords (r.word fld 0#2) 0#64 false).toOption else none
  (plain.map fun i => (i, false)) <|>
  ((decodeWords (r.word fld 1#2) (extWord r.exf r.immediate) false).toOption.map fun i => (i, true))

/-- The instruction by which a record is judged, its virtual registers put at fixed places. -/
def EceelRec.twin (r : EceelRec) : Option Instr := (r.read eceelField).map Prod.fst

/-- Whether an instruction has REUSE set (17 R290). -/
def reuses : Instr → Bool
  | .mma o | .mmas o _ _ => o.reuse
  | _ => false

/-- The registers that an instruction may name, the runs of the matrix class in their widest form (17 R283). -/
def widest (i : Instr) : List RegName :=
  i.uses.all ++ mayWrite i ++ (match i with
    | .mma o | .mmas o _ _ => vRun o.a.toNat 9
    | _ => [])

/-- Whether a record is well formed (22 R357): reserved bits 0, PNEG 0 without an extension, an imm8 or imm32 alone in its field,
operands readable, the fields those of a native instruction without REUSE, each virtual register of the kind that its field takes. -/
def EceelRec.ok (r : EceelRec) : Bool :=
  bitsAt r.base 72 35 == 0 && (r.ext.isSome || bitsAt r.base 107 1 == 0) &&
  (!r.imm || bitsAt r.base (if bitsAt r.base 116 2 = 2 then 8 else 0) (if bitsAt r.base 116 2 = 2 then 16 else 24) == 0) &&
  (r.ext.all fun e => bitsAt e 126 2 == 3 && bitsAt e 32 16 == 0) &&
  r.operands.all (fun p => eceelOperand p.1) &&
  (match r.twin with
   | none => false
   | some (.unassignedOpcode _) => true
   | some i => !reuses i && r.operands.all fun p => (eceelName p.1 p.2).all fun n =>
       (widest i).contains n)

/-- Records with their places, in 16-byte records: each base record with X takes the extension that follows (22 R357). -/
def eceelRecords (k : Nat) : List Nat → Option (List (Nat × EceelRec))
  | [] => some []
  | [r] => if bitsAt r 108 1 = 1 then none else some [(k, { base := r, ext := none })]
  | r :: e :: rest =>
    if bitsAt r 108 1 = 1 then (eceelRecords (k + 2) rest).map ((k, { base := r, ext := some e }) :: ·)
    else (eceelRecords (k + 1) (e :: rest)).map ((k, { base := r, ext := none }) :: ·)

/-- The control target of an instruction (05 R99, 07 R132), in the units of its code. -/
def targetOf : Instr → Option Int
  | .bra _ t | .brc _ _ _ t | .call _ t | .ifOp _ _ t | .elseOp _ t | .loop _ t | .breakOp _ _ t | .cont _ _ t | .endloop _ _ t =>
    some t.toInt
  | _ => none

/-- The open structured records after one more (07 R132): `none` where it matches none. -/
def nest (open_ : List MaskKind) : Instr → Option (List MaskKind)
  | .ifOp _ _ _ => some (.ifK :: open_)
  | .elseOp _ _ => match open_ with
    | .ifK :: r => some (.elseK :: r)
    | _ => none
  | .endif _ => match open_ with
    | .ifK :: r | .elseK :: r => some r
    | _ => none
  | .loop _ _ => some (.loopK :: open_)
  | .endloop _ _ _ => match open_ with
    | .loopK :: r => some r
    | _ => none
  | .breakOp _ _ _ | .cont _ _ _ => if open_.contains .loopK then some open_ else none
  | _ => some open_

/-- Whether an Eceel code may be translated as far as 22 R357 states it: its records well formed, its control targets base records, its
structured records matched. -/
def eceelOk (code : List Nat) : Bool :=
  match eceelRecords 0 code with
  | none => false
  | some rs =>
    let twins := rs.filterMap fun r => r.2.twin.map fun i => (r.1, i)
    (rs.all fun r => r.2.ok) &&
    (twins.all fun t => (targetOf t.2).all fun d => rs.any fun r => (r.1 : Int) == (t.1 : Int) + d) &&
    twins.foldl (fun (acc : Option (List MaskKind)) t => acc.bind fun o => nest o t.2) (some []) == some []

/-- Where virtual registers are put: vvN, vsN and vpN in the native register of their kind that is N beyond the first one. -/
structure Homes where
  v : Nat
  s : Nat
  p : Nat
  deriving DecidableEq, Repr

/-- The native register of a virtual operand. -/
def Homes.name (m : Homes) (o : Nat) : Option RegName :=
  let n := bitsAt o 0 21
  match bitsAt o 21 3 with
  | 0 => some (.v (m.v + n))
  | 1 => some (.s (m.s + n))
  | 2 => some (.p (m.p + n))
  | _ => none

/-- The native field of an operand: the number of its register, the value of a fixed one, 0 for none. -/
def Homes.field (m : Homes) (o _place : Nat) : BitVec 8 :=
  match m.name o with
  | some (.v n) | some (.s n) | some (.p n) => BitVec.ofNat 8 n
  | none => if bitsAt o 21 3 = 3 then BitVec.ofNat 8 o else 0#8

/-! ### The registers that a record names -/

/-- The place of a virtual operand in one of the two twins by which a record's registers are read: each run has room for the longest (02
R29), and the two twins put no virtual register in the same place. -/
def farPlace (second : Bool) (o n : Nat) : Nat := match bitsAt o 21 3 with
  | 0 => 64 * (n / 8 - 1) + if second then 32 else 0
  | 1 => 16 * (n / 8 - 1) + if second then 8 else 0
  | _ => 8 * (n / 8 - 1) + if second then 4 else 0

/-- The registers that a twin of a record names. -/
def EceelRec.names (r : EceelRec) (second : Bool) : List RegName :=
  let fld (o n : Nat) : BitVec 8 := match bitsAt o 21 3 with
    | 3 => BitVec.ofNat 8 o
    | 7 => 0#8
    | _ => BitVec.ofNat 8 (farPlace second o n)
  ((r.read fld).map fun q => widest q.1).getD []

/-- The registers that the fixed operands of a record name, with their runs: those that both twins name. -/
def EceelRec.fixed (r : EceelRec) : List RegName := let b := r.names true; (r.names false).filter b.contains

/-- The virtual register that an operand names, numbered from `virtualBase` on. -/
def virtualName (o : Nat) : Option RegName :=
  let n := virtualBase + bitsAt o 0 21
  match bitsAt o 21 3 with
  | 0 => some (.v n)
  | 1 => some (.s n)
  | 2 => some (.p n)
  | _ => none

/-- The run of virtual registers that an operand names: its first, and its length. -/
def EceelRec.runOf (r : EceelRec) (o n : Nat) : Option (RegName × Nat) :=
  (virtualName o).map fun v =>
    let len (second : Bool) : Nat :=
      ((List.range 32).takeWhile fun i => (r.names second).contains (v.like (farPlace second o n + i))).length
    (v, max 1 (min (len false) (len true)))

/-- The runs of virtual registers that a record names, each once, a destination's last. -/
def EceelRec.runs (r : EceelRec) : List (RegName × Nat) := ((r.operands.reverse).filterMap fun p => r.runOf p.1 p.2).eraseDups

/-- Homes beyond every register that a fixed operand names, and beyond the record fields of a node's Chart (12 R223); a multiple of 16 for
vector registers, so that aligned runs stay aligned. -/
def eceelHomes (rs : List EceelRec) (records : Bool) : Homes :=
  (rs.flatMap EceelRec.fixed).foldl (fun m n => match n with
    | .v k => { m with v := max m.v ((k + 16) / 16 * 16) }
    | .s k => if k < 32 then { m with s := max m.s ((k + 2) / 2 * 2) } else m
    | .p k => { m with p := max m.p (k + 1) }) { v := if records then 16 else 0, s := 0, p := 0 }

/-- Whether a run of virtual registers finds homes among the team's registers that start at 0 (01 R8 to R11). -/
def Homes.holds (m : Homes) (regs : Nat) (q : RegName × Nat) : Bool :=
  match q.1 with
  | .v n => decide (m.v + (n - virtualBase) + q.2 ≤ regs)
  | .s n => decide (m.s + (n - virtualBase) + q.2 ≤ 32)
  | .p n => decide (m.p + (n - virtualBase) + q.2 ≤ 48)

/-- The word of nop (03 R53). -/
def nopWord : DWord := 0x34007E0000000000#64

/-- The two words of a record in the translated code, `fld` giving the native field of each operand: IMM of a control target counts in
words (05 R98). -/
def EceelRec.native (r : EceelRec) (fld : Nat → Nat → BitVec 8) : Option (List DWord) :=
  (r.read fld).map fun q =>
    let imm := if (targetOf q.1).isSome then 2#32 * r.immediate else r.immediate
    if q.2 then [r.word fld 1#2, extWord r.exf imm] else [r.word fld 0#2, nopWord]

/-- The nops that stand for an extension record, so that every record keeps its place. -/
def EceelRec.fill (r : EceelRec) : List DWord := if r.ext.isSome then [nopWord, nopWord] else []

/-- The fewest registers of a team of an image's Charts. -/
def leastRegs (charts : List Chart) : Nat := charts.foldl (fun n c => min n c.regs) 256

/-- A translation of a checked code that keeps each record's place, an extension record giving two nops: the records executed one after
another as the native instructions that they name, every STALL sufficient (22 R357). `none` where the virtual registers do not all find
homes within the Charts' REGS (notes/assumptions/56.md, DESIGN CHOICE). -/
def eceelNative (code : List Nat) (charts : List Chart) : Option (List DWord) :=
  (eceelRecords 0 code).bind fun rs =>
    let rs := rs.map Prod.snd
    let m := eceelHomes rs (charts.any Chart.nodeb)
    let regs := leastRegs charts
    (rs.mapM fun (r : EceelRec) =>
      if r.runs.all (m.holds regs) then (r.native m.field).map (· ++ r.fill) else none).map List.flatten

/-! ### Virtual registers above SPILL -/

/-- The first native place at a multiple of `step` for a run of a kind, past registers that are taken. -/
def freePlace (step len : Nat) (n : RegName) (taken : List RegName) : Option Nat :=
  let hi := match n with
    | .v _ => 256
    | .s _ => 64
    | .p _ => 48
  let used := n.fellows taken
  (List.range hi).find? fun a => a % step == 0 && decide (a + len ≤ hi) && (List.range len).all fun i => !used.contains (a + i)

/-- A native place for each run, none meeting another or a register that is taken. -/
def placeRuns (step : Nat) (taken : List RegName) : List (RegName × Nat) → Option (List ((RegName × Nat) × Nat))
  | [] => some []
  | q :: qs =>
    (freePlace step q.2 q.1 taken).bind fun a =>
      (placeRuns step (taken ++ (List.range q.2).map fun i => q.1.like (a + i)) qs).map ((q, a) :: ·)

/-- The binding that the places of runs make: each native register with the virtual one that it stands for. -/
def bindsOf (ps : List ((RegName × Nat) × Nat)) : List (RegName × RegName) :=
  ps.flatMap fun p => (List.range p.1.2).map fun i => (p.1.1.like (p.2 + i), p.1.1.like (p.1.1.number + i))

/-- The native field of an operand whose run has its place. -/
def EceelRec.boundField (r : EceelRec) (ps : List ((RegName × Nat) × Nat)) (o n : Nat) : BitVec 8 :=
  match (r.runOf o n).bind fun q => (ps.find? fun p => p.1 == q).map Prod.snd with
  | some a => BitVec.ofNat 8 a
  | none => if bitsAt o 21 3 = 3 then BitVec.ofNat 8 o else 0#8

/-- A record's words and binding, each run in a place of its own apart from the registers that the record's fixed operands name: the first
alignment of the runs that its instruction takes. -/
def EceelRec.spilled (r : EceelRec) : Option (List DWord × List (RegName × RegName)) :=
  [1, 2, 4, 8, 16].findSome? fun step =>
    (placeRuns step r.fixed r.runs).bind fun ps => (r.native (r.boundField ps)).map fun ws => (ws, bindsOf ps)

/-- Bytes per lane of the virtual registers of a block that are kept above SPILL: of each kind those beyond the registers that no fixed
operand names, `free`, four bytes to a vector register or a predicate and eight to a scalar, in multiples of 16
(notes/assumptions/56.md, DESIGN CHOICE). -/
def keptBytes (rs : List EceelRec) (records : Bool) (regs : Nat) : Nat :=
  let names := (rs.flatMap fun r => r.runs.flatMap fun q => (List.range q.2).map fun i => q.1.like (q.1.number + i)).eraseDups
  let fixed := (rs.flatMap EceelRec.fixed).eraseDups
  let beyond (n : RegName) (lo hi : Nat) : Nat :=
    (n.fellows names).length - ((List.range hi).filter fun k => decide (lo ≤ k) && !(n.fellows fixed).contains k).length
  let n := 4 * beyond (.v 0) (if records then 16 else 0) regs + 8 * beyond (.s 0) 0 32 + 4 * beyond (.p 0) 0 48
  (n + 15) / 16 * 16

/-- A translation of a checked code whose virtual registers do not all fit: each record finds them in native registers lent to it while it
executes (22 R357). The words, the bindings by word, and the bytes per lane kept above SPILL; `none` where these and the SPILL of a
Chart pass 4,096. -/
def eceelSpilled (code : List Nat) (charts : List Chart) : Option (List DWord × List (Nat × List (RegName × RegName)) × Nat) :=
  (eceelRecords 0 code).bind fun rs =>
    let kept := keptBytes (rs.map Prod.snd) (charts.any Chart.nodeb) (leastRegs charts)
    if charts.any fun c => decide (4096 < c.spill + kept) then none
    else
      (rs.mapM fun (r : Nat × EceelRec) => r.2.spilled.map fun q => (q.1 ++ r.2.fill, (2 * r.1, q.2))).map fun qs =>
        (qs.flatMap Prod.fst, (qs.map Prod.snd).filter fun b => !b.2.isEmpty, kept)

/-- The code that LOAD runs: words, bindings of virtual registers, bytes kept above SPILL, and entry points. -/
structure Chosen where
  text  : List DWord
  binds : List (Nat × List (RegName × RegName))
  kept  : Nat
  es    : List (List Nat)
  deriving DecidableEq, Repr

/-- The code that LOAD runs, or the refusal (22 R356). The Eceel block is looked at only where it is translated
(notes/assumptions/28.md). -/
def chooseCode (b : List Byte) (charts : List Chart) : Except Status Chosen :=
  let n := charts.length
  match nativeBlock b with
  | some k =>
    if k.length < entryTable n then .error .imageFormat
    else .ok { text := codeWords (k.drop (entryTable n)), binds := [], kept := 0, es := entryPoints n k }
  | none =>
    let k := sectBytes b 4
    let code := k.drop (entryTable n)
    if k.isEmpty || decide (k.length < entryTable n) || code.length % 16 != 0 || !eceelOk ((entriesOf 16 code).map leNat) then
      .error .imageFormat
    else
      let es := entryPoints n k
      match eceelNative ((entriesOf 16 code).map leNat) charts, eceelSpilled ((entriesOf 16 code).map leNat) charts with
      | some text, _ => .ok { text := text, binds := [], kept := 0, es := es }
      | none, none => .error .translateLimit
      | none, some q => .ok { text := q.1, binds := q.2.1, kept := q.2.2, es := es }

/-- A Chart with a block's entry points, and what the translation keeps above SPILL (22 R356, R357). -/
def Chart.withEntries (c : Chart) (kept : Nat) (es : List Nat) : Chart :=
  { c with kept := kept, entry := nth es 0, handler := nth es 1, sent := [nth es 2, nth es 3, nth es 4] }

/-! ### LOAD -/

/-- Whether a signature lets an image load (22 R359). -/
def signatureOk (b : List Byte) (reqsig : Bool) (digest : List Byte) : Bool :=
  if isSigned b then
    let sig := sectBytes b 7
    let pk := sig.take 2592
    Config.mldsaVerify pk (Config.sha3 (b.take (sectAt b 7).1)) (sig.drop 2592) && (!reqsig || Config.sha3 pk == digest)
  else !reqsig

/-- A place for n bytes of data from an address on, past the pages that stand in the way. -/
def State.placeFrom (s : State) (n : Nat) : Nat → Nat → Option Nat
  | 0, _ => none
  | k + 1, va =>
    if 2 ^ 48 < va + n then none
    else match s.pages.find? fun p => p.meets va n with
      | none => some va
      | some p => s.placeFrom n k ((p.va + p.size + 65535) / 65536 * 65536)

/-- A place for n bytes of data (03 R60): from the service's choice on, or from the bottom of the address space. -/
def State.findPlace (s : State) (n va : Nat) : Option Nat :=
  s.placeFrom n (s.pages.length + 1) va <|> s.placeFrom n (s.pages.length + 1) 0

/-- Where an image's records stand: memory of the service's own, above every virtual address. -/
def recordsAt (id : Nat) : Nat := 2 ^ 48 + id * 2 ^ 22

/-- A record of the image as the loader writes it: a base that counts from the data section resolved, one with the window bit set left
as it is (03 R60). A sum that passes 2^48 wraps in the field of 48 bits (notes/assumptions/78.md, DESIGN CHOICE). -/
def loadedRecord (b : List Byte) (data k : Nat) (r : List Byte) : List Byte :=
  if Config.dataRelative b k && bitsAt (leNat r) 63 1 == 0 then leBytes 64 ((leNat r / 2 ^ 48) * 2 ^ 48 + (leNat r + data) % 2 ^ 48) else r

/-- The data section placed in pages of the service's making, and its bytes written (03 R60); `none` where no place is left. An
image without data has its base at 0 (notes/assumptions/63.md, DESIGN CHOICE). -/
def State.placeData (s : State) (data : List Byte) : Option (State × Nat) :=
  let n := (data.length + 65535) / 65536 * 65536
  if n = 0 then some (s, 0)
  else
    match s.findPlace n (Config.placement s.fresh % 2 ^ 32 * 65536) with
    | none => none
    | some va =>
      match (List.range 4).find? fun d => decide (s.stackUsed d + n ≤ stackBytes) with
      | none => none
      | some home =>
        let s := ((s.addPages va n 65536 home true true []).logEdit .map 65536 va n 0).bump
        some ({ s with mem := s.mem.writeN va data }, va)

/-- An entry of the measurement log (22 R360). -/
def State.measure (s : State) (kind : Nat) (digest : List Byte) : State :=
  { s with measlog := s.measlog.push { kind := kind, at_ := nsOf s.cycle, digest := digest } }

/-- The image put in place: its records, data, Charts and measurements. Its launches share its one record table
(notes/assumptions/79.md, DESIGN CHOICE). -/
def State.installImage (s : State) (b : List Byte) (data : Nat) (charts : List Chart) (q : Chosen) : State × Nat :=
  let id := s.nextId
  let recs := entriesOf 64 (sectBytes b 1)
  let bytes := (List.range recs.length).flatMap fun k => loadedRecord b data k ((recs[k]?).getD [])
  let im : Image :=
    { id := id, charts := charts, recs := recordsAt id, nrecs := recs.length
      nodes := (entriesOf 8 (sectBytes b 2)).map fun e => (leAt e 0 2, leAt e 2 2)
      data := data, dsize := (sectAt b 3).2, text := q.text, binds := q.binds, digest := Config.sha3 b }
  let s := { s with images := s.images ++ [im], nextId := id + 1, mem := s.mem.writeN (recordsAt id) bytes }
  let s := s.measure 3 (Config.sha3 b)
  (if isSigned b then s.measure 4 (Config.sha3 ((sectBytes b 7).take 2592)) else s, id)

/-- LOAD of an image's bytes (22 R355, R356, R359). -/
def State.loadBytes (s : State) (b : List Byte) (reqsig : Bool) (digest : List Byte) : Except Status (State × Nat) :=
  if !headerOk b || !tablesOk b then .error .imageFormat
  else if deviceLevel < leAt b 8 4 then .error .imageLevel
  else if !signatureOk b reqsig digest then .error .signature
  else
    let charts := (entriesOf 256 (sectBytes b 0)).map Chart.ofBytes
    match chooseCode b charts with
    | .error e => .error e
    | .ok q =>
      match s.placeData (sectBytes b 3) with
      | none => .error .noSpace
      | some (s, data) =>
        .ok (s.installImage b data
          ((List.range charts.length).zip charts |>.map fun c => c.2.withEntries q.kept ((q.es[c.1]?).getD [])) q)

/-- LOAD (22 R348, R356): an image that cannot be read is refused for its operands. -/
def execLoad (h : CmdHead) (va size : Nat) (reqsig : Bool) (digest : List Byte) (s : State) : Out :=
  s.serve (.load h va size reqsig digest) h 0x04#8 fun s =>
    if size = 0 ∨ 2 ^ 32 ≤ size ∨ !s.mayRead (va : Int) size then s.answer h 0x04#8 .invalidOperand []
    else match (s.meet va size).loadBytes (s.mem.readN va size) reqsig digest with
    | .error e => (s.meet va size).answer h 0x04#8 e []
    | .ok (s, id) => s.answer h 0x04#8 .success (leBytes 8 id)

/-- UNLOAD (22 R348): BUSY while a launch of the image is unfinished. -/
def execUnload (h : CmdHead) (image : Nat) (s : State) : Out :=
  s.serve (.unload h image) h 0x05#8 fun s =>
    match s.image? image with
    | none => s.answer h 0x05#8 .notFound []
    | some im =>
      if s.launches.any fun l => l.image == image && l.live then s.answer h 0x05#8 .busy []
      else ({ s with images := s.images.filter fun i => i.id != image }.measure 5 im.digest).answer h 0x05#8 .success []

end Sys2Proof.Machine
end

