-- ==== Sys2Proof/Machine/HostService.lean ====
section
/-!
DEFINITION. The remaining host commands: QUERY, LOG and ATTEST (22 R348, R358, R360, R361), and ISLAND (21 R342, R343). Where the spec
gives a body's contents and no layout, the layout is the model's (notes/assumptions/10.md).
-/
namespace Sys2Proof.Machine

/-- QUERY (22 R348): the feature values, port pairing, free memory per die, launches in progress. -/
def execQuery (h : CmdHead) (s : State) : Out :=
  s.serve (.query h) h 0x01#8 fun s =>
    s.answer h 0x01#8 .success
      (((List.range 14).flatMap fun n => leBytes 8 (featValue n)) ++ leBytes 1 (if Config.paired then 1 else 0) ++
       ((List.range 4).flatMap fun d => leBytes 8 (stackBytes - s.stackUsed d)) ++
       leBytes 8 (s.launches.filter Launch.live).length)

/-! ### Logs -/

/-- Kinds as codes. -/
def ErrKind.code : ErrKind → Nat
  | .corrected => 1 | .uncorrectable => 2 | .poison => 3 | .coreRemoved => 4 | .coreReset => 5 | .dropped => 6

def EditKind.code : EditKind → Nat
  | .map => 1 | .unmap => 2 | .narrow => 3 | .shootDown => 4

/-- Bytes of an entry of the error log. -/
def ErrEntry.bytes (e : ErrEntry) : List Byte :=
  leBytes 1 e.kind.code ++ leBytes 1 e.die ++ leBytes 1 e.core ++ leBytes 1 e.keys.length ++ leBytes 8 e.ofs ++ leBytes 8 (nsOf e.at_) ++
  e.keys.flatMap fun k => bytesBv 16 k

/-- The page-size code of an entry. -/
def sizeCode (n : Nat) : Nat := if n = 2 ^ 16 then 0 else if n = 2 ^ 21 then 1 else 2

/-- The 40 bytes of an entry of the page-table log (22 R361); the issuing system core is the service's own: 0. -/
def EditEntry.bytes (e : EditEntry) : List Byte :=
  leBytes 8 (nsOf e.at_) ++ leBytes 1 0 ++ leBytes 1 e.kind.code ++ leBytes 1 (sizeCode e.size) ++ leBytes 5 0 ++ leBytes 8 e.va ++
  leBytes 8 e.len ++ leBytes 8 e.stalled

/-- An entry of the breakpoint and sample log (20 R315, 22 R361): the mask's 132 bytes are its 128 and four of its summary, one bit for
each word that is not 0. -/
def BkptEntry.bytes (e : BkptEntry) : List Byte :=
  leBytes 8 e.launch ++ bytesBv 16 e.key ++ leBytes 4 e.team ++ bytesBv 8 e.pc ++ leBytes 4 e.depth ++ bytesBv 128 e.mask ++
  leBytes 4 ((passWords 1024 e.mask).foldl (fun n i => n + 2 ^ i) 0) ++
  leBytes 1 ((if e.spec then 1 else 0) + (if e.sample then 2 else 0))

/-- The 80 bytes of an entry of the measurement log (22 R360). -/
def MeasEntry.bytes (e : MeasEntry) (seq : Nat) : List Byte :=
  leBytes 4 e.kind ++ leBytes 4 seq ++ leBytes 8 e.at_ ++ (e.digest ++ List.replicate 64 0#8).take 64

/-- Up to n entries of a log from a sequence number on, with their numbers. -/
def Log.range {α : Type} (l : Log α) (start n : Nat) : List (Nat × α) :=
  let first := max start l.first
  (((List.range l.entries.length).zip l.entries).map fun e => (l.first + e.1, e.2)).filter fun e =>
    decide (first ≤ e.1 ∧ e.1 < first + n)

/-- As many encoded entries as a body holds (22 R346). -/
def fitBody (es : List (List Byte)) : List Byte :=
  es.foldl (fun acc e => if acc.length + e.length ≤ 65504 then acc ++ e else acc) []

/-- LOG (22 R361). -/
def execLog (h : CmdHead) (sel start count : Nat) (s : State) : Out :=
  s.serve (.log h sel start count) h 0x0C#8 fun s =>
    let ok (es : List (List Byte)) : State := s.answer h 0x0C#8 .success (fitBody es)
    match sel with
    | 0 => ok ((s.errlog.range start count).map fun e => e.2.bytes)
    | 1 => ok ((s.pagelog.range start count).map fun e => e.2.bytes)
    | 2 => ok ((s.bkptlog.range start count).map fun e => e.2.bytes)
    | 3 => ok ((s.measlog.range start count).map fun e => e.2.bytes e.1)
    | _ => s.answer h 0x0C#8 .invalidOperand []

/-- The whole measurement log (22 R360). -/
def State.measBytes (s : State) : List Byte := (s.measlog.range 0 s.measlog.next).flatMap fun e => e.2.bytes e.1

/-- ATTEST (22 R360): the log, the certificate chain, and the signature over SHA3-512(nonce ∥ log). A nonce of another length is
refused for its value. -/
def execAttest (h : CmdHead) (nonce : List Byte) (s : State) : Out :=
  s.serve (.attest h nonce) h 0x0B#8 fun s =>
    if nonce.length ≠ 32 then s.answer h 0x0B#8 .invalidOperand []
    else
      s.answer h 0x0B#8 .success (s.measBytes ++ Config.certChain ++ Config.mldsaSign (Config.sha3 (nonce ++ s.measBytes)))

/-! ### Islands -/

/-- The body that ISLAND answers (21 R342, 22 R348): point, cap and temperature of every slot island, and the state of the forty others. -/
def State.islandBody (s : State) : List Byte :=
  ((List.range 1024).flatMap fun i =>
      let x := s.slotOf i
      leBytes 1 x.point.code ++ leBytes 1 x.cap.code ++ leBytes 2 x.temp) ++
   (List.range 40).flatMap fun i => leBytes 1 (if s.retain.contains (1024 + i) then 1 else 0)

/-- ISLAND, read. -/
def execIslandRead (h : CmdHead) (s : State) : Out :=
  s.serve (.islandRead h) h 0x0D#8 fun s => s.answer h 0x0D#8 .success s.islandBody

/-- A point from its code. -/
def Point.ofCode (n : Nat) : Point :=
  match n with
  | 0 => .f0
  | 1 => .f1
  | 2 => .f2
  | _ => .off

/-- A cap set (21 R342): an island above it steps down to it at once. -/
def State.setCap (s : State) (i : Nat) (p : Point) : State :=
  let s := s.setSlot i { s.slotOf i with cap := p }
  if (s.slotOf i).point.code < p.code then s.toPoint i p else s

/-- The caps in force, for the measurement log (22 R360): the islands that are not at F0, ascending. -/
def State.caps (s : State) : List (Nat × Nat) :=
  (List.range 1024).filterMap fun i => let c := (s.slotOf i).cap.code; if c = 0 then none else some (i, c)

/-- ISLAND, set (21 R342, R343; 22 R348, R360). -/
def execIslandSet (h : CmdHead) (limit : Option Nat) (caps : List (Nat × Nat)) (s : State) : Out :=
  s.serve (.islandSet h limit caps) h 0x0D#8 fun s =>
    if (limit.any fun w => decide (w < 1000 ∨ 2800 < w)) || caps.any fun c => decide (1024 ≤ c.1 ∨ 4 ≤ c.2) then
      s.answer h 0x0D#8 .invalidOperand []
    else
      let s := { s with limit := limit.getD s.limit }
      let s := caps.foldl (fun s c => s.setCap c.1 (Point.ofCode c.2)) s
      let s := s.measure 2 (Config.configDigest Config.paired s.limit s.caps)
      s.answer h 0x0D#8 .success s.islandBody

end Sys2Proof.Machine
end

