-- ==== Sys2Proof/Machine/Pairs.lean ====
section
/-!
DEFINITION. Paired issue (02 R37, R38).
-/
namespace Sys2Proof.Machine

/-- The lane's part of an integer operation. -/
def laneInt (op : IntOpc) (o : VInt) (x : Ctx) : Nat → LaneResult :=
  match op with
  | .iadd => laneIadd o x | .isub => laneIsub o x | .imul => laneImul o x | .imulh => laneImulh o x
  | .imad => laneImad o x | .iadd64 => laneIadd64 o x | .isub64 => laneIsub64 o x | .imin => laneImin o x
  | .imax => laneImax o x | .iabs => laneIabs o x | .ineg => laneIneg o x | .iaddsat => laneIaddsat o x
  | .isubsat => laneIsubsat o x | .and => laneAnd o x | .or => laneOr o x | .xor => laneXor o x | .not => laneNot o x
  | .andn => laneAndn o x | .shl => laneShl o x | .shr => laneShr o x | .sar => laneSar o x | .rol => laneRol o x
  | .bfx => laneBfx o x | .bfi => laneBfi o x | .popc => lanePopc o x | .clz => laneClz o x | .ctz => laneCtz o x
  | .brev => laneBrev o x | .sel => laneSel o x | .icmp => laneIcmp o x | .clamp => laneClamp o x
  | .idot4 => laneIdot4 o x | .idot8 => laneIdot8 o x | .srshr => laneSrshr o x

/-- The lane's part of a floating-point operation. -/
def laneFlt (op : FltOpc) (o : VFlt) (x : Ctx) : Nat → LaneResult :=
  match op with
  | .fadd => laneFadd o x | .fsub => laneFsub o x | .fmul => laneFmul o x | .ffma => laneFfma o x
  | .fmin => laneFmin o x | .fmax => laneFmax o x | .fabs => laneFabs o x | .fneg => laneFneg o x
  | .fcmp => laneFcmp o x | .fclass => laneFclass o x | .hadd2 => laneHadd2 o x | .hmul2 => laneHmul2 o x
  | .hfma2 => laneHfma2 o x | .frcp => laneFrcp o x | .frsq => laneFrsq o x | .fsqrt => laneFsqrt o x
  | .fexp2 => laneFexp2 o x | .flog2 => laneFlog2 o x | .fsin => laneFsin o x | .fcos => laneFcos o x
  | .ftanh => laneFtanh o x | .pchk => lanePchk o x

end Sys2Proof.Machine

namespace Sys2Proof

/-- The lane guard of an operation of a pair: none for smov. -/
def PairHalf.head : PairHalf → Option Head
  | .int _ o => some o.h
  | .flt _ o => some o.h
  | .smov _ => none
  | .vbcast o => some o.h

end Sys2Proof

namespace Sys2Proof.Machine

namespace Ctx

/-- Lanes that an operation of a pair selects. -/
def halfLanes (x : Ctx) (p : PairHalf) : List Nat := (p.head.map x.sel).getD []

/-- Faults of an operation's guard (02 R32). -/
def halfFaults (x : Ctx) (p : PairHalf) : List LaneFault := (p.head.map x.guardFaults).getD []

/-- Results of lanes put out at a latency. -/
def emitLanes (y : Ctx) (lat : Nat) (lanes : List Nat) (f : Nat → LaneResult) : Ctx :=
  let rs := lanes.map fun l => (l, f l)
  (y.emit lat (rs.flatMap fun r => r.2.1)).emitFlags lat (rs.map fun r => (r.1, r.2.2))

/-- One operation's results, its sources read from before the pair (02 R38), each ready at its own L (01 R18). -/
def emitHalf (y x : Ctx) (p : PairHalf) (lanes : List Nat) : Ctx :=
  match p with
  | .int op o => y.emitLanes 4 lanes (laneInt op o x)
  | .flt op o => y.emitLanes 6 lanes (laneFlt op o x)
  | .vbcast o => y.emitLanes 4 lanes (laneVbcast o x)
  | .smov o => let b := smovVal o x; y.setS o.d b.val b.poi

end Ctx

/-- A pair (02 R38): neither operation acts in a lane where either faults. -/
def execPairedIssue (a b : PairHalf) (s : State) : Out :=
  s.run fun x =>
    let faults := x.halfFaults a ++ x.halfFaults b
    let good (p : PairHalf) : List Nat := (x.halfLanes p).filter fun l => faults.all fun f => f.1 != l
    let y := (x.emitHalf x a (good a)).emitHalf x b (good b)
    if a.head.isNone && b.head.isNone then (y.retire 16 a.stall).done
    else y.finish 16 a.stall (good a ++ good b).eraseDups faults

end Sys2Proof.Machine
end

