-- ==== Sys2Proof/Machine/Structured.lean ====
section
/-!
DEFINITION. The mask stack and the structured instructions (07 R130 to R134), and yield (07 R144).
-/
namespace Sys2Proof.Machine

/-- The position from the top of the nearest LOOP entry above the call base (07 R134). -/
def Team.loopAt (t : Team) : Option Nat :=
  (t.mstack.take (t.mstack.length - t.callBase)).findIdx? fun e => e.kind == .loopK

/-- Lanes taken out of the entries above a position. -/
def dropAbove (x : LaneSet) : Nat → List MaskEntry → List MaskEntry
  | 0, st => st
  | _, [] => []
  | n + 1, e :: r => { e with a := e.a &&& ~~~x, b := e.b &&& ~~~x } :: dropAbove x n r

/-- Lanes put into the B set of the entry at a position (cont, 07 R134). -/
def addToB (x : LaneSet) : Nat → List MaskEntry → List MaskEntry
  | _, [] => []
  | 0, e :: r => { e with b := e.b ||| x } :: r
  | n + 1, e :: r => e :: addToB x n r

namespace Ctx

/-- The lanes of a set where the condition's predicate carries poison. -/
def condPoison (x : Ctx) (c : Cond) (m : LaneSet) : List Nat :=
  (lanesOf x.w m).filter fun l => (x.t.readP x.t.t0 l c.p.toNat).poi

/-- The lanes of a set where the condition holds (07 R132). -/
def condLanes (x : Ctx) (c : Cond) (m : LaneSet) : LaneSet :=
  laneSet ((lanesOf x.w m).filter fun l => (x.t.readP x.t.t0 l c.p.toNat).val != c.neg)

/-- The mask and the mask stack set, and the team gone on at an address after its passes. -/
def remask (x : Ctx) (m : LaneSet) (st : List MaskEntry) (passes : Nat) (stall : BitVec 4) (pc : DWord) : Out :=
  (({ x with t := { x.t with mask := m, mstack := st } } : Ctx).issued passes stall.toNat |>.goto pc).done

/-- The checks of 07 R133, in order: pending results, a poisoned condition over the lanes read, the stack. -/
def structured (x : Ctx) (c : Option Cond) (m : LaneSet) (stackOk : Bool) (f : Out) : Out :=
  let bad := match c with
    | none => []
    | some c => x.condPoison c m
  if x.t.pending x.t.t0 then x.block .result
  else if !bad.isEmpty then x.trap Cause.poisonUse (laneSet bad) 0#64
  else if !stackOk then x.trap0 Cause.divergenceDepth
  else f

end Ctx

/-- if (07 R134). -/
def execIfOp (stall : BitVec 4) (c : Cond) (imm : Word) (s : State) : Out :=
  s.run fun x =>
    let m := x.t.mask
    x.structured (some c) m (decide (x.t.mstack.length < 32))
      (let k := x.condLanes c m
       x.remask k ({ kind := .ifK, a := m, b := m &&& ~~~k } :: x.t.mstack) x.passes stall
         (if k = noLanes then x.target imm else x.after 16))

/-- else (07 R134). -/
def execElseOp (stall : BitVec 4) (imm : Word) (s : State) : Out :=
  s.run fun x =>
    match x.t.top with
    | some e =>
      x.structured none noLanes (e.kind == .ifK)
        (x.remask e.b ({ kind := .elseK, a := e.a, b := noLanes } :: x.t.mstack.drop 1) 1 stall
          (if e.b = noLanes then x.target imm else x.after 16))
    | none => x.structured none noLanes false x.done

/-- endif (07 R134). -/
def execEndif (stall : BitVec 4) (s : State) : Out :=
  s.run fun x =>
    match x.t.top with
    | some e => x.structured none noLanes (e.kind != .loopK) (x.remask e.a (x.t.mstack.drop 1) 1 stall (x.after 8))
    | none => x.structured none noLanes false x.done

/-- loop (07 R134). -/
def execLoop (stall : BitVec 4) (imm : Word) (s : State) : Out :=
  s.run fun x =>
    let m := x.t.mask
    x.structured none noLanes (decide (x.t.mstack.length < 32))
      (x.remask m ({ kind := .loopK, a := m, b := noLanes } :: x.t.mstack) 1 stall
        (if m = noLanes then x.target imm else x.after 16))

/-- break and cont (07 R134): `keep` puts the lanes into the loop's B set. -/
def Ctx.leaveLoop (x : Ctx) (stall : BitVec 4) (c : Cond) (imm : Word) (keep : Bool) : Out :=
  let m := x.t.mask
  match x.t.loopAt with
  | some p =>
    x.structured (some c) m true
      (let gone := x.condLanes c m
       let st := dropAbove gone p x.t.mstack
       let st := if keep then addToB gone p st else st
       let m' := m &&& ~~~gone
       x.remask m' st x.passes stall (if m' = noLanes ∧ p = 0 then x.target imm else x.after 16))
  | none => x.structured (some c) m false x.done

/-- break (07 R134). -/
def execBreakOp (stall : BitVec 4) (c : Cond) (imm : Word) (s : State) : Out := s.run fun x => x.leaveLoop stall c imm false

/-- cont (07 R134). -/
def execCont (stall : BitVec 4) (c : Cond) (imm : Word) (s : State) : Out := s.run fun x => x.leaveLoop stall c imm true

/-- endloop (07 R134): its passes are those of the lanes it reads (R129). With no LOOP on top, the lanes read are the mask. -/
def execEndloop (stall : BitVec 4) (c : Cond) (imm : Word) (s : State) : Out :=
  s.run fun x =>
    match x.t.top with
    | some e =>
      let act := x.t.loopReads
      x.structured (some c) act (e.kind == .loopK)
        (let k := x.condLanes c act
         let n := passCount x.w act
         if k = noLanes then x.remask e.a (x.t.mstack.drop 1) n stall (x.after 16)
         else x.remask k ({ e with b := noLanes } :: x.t.mstack.drop 1) n stall (x.target imm))
    | none => x.structured (some c) x.t.mask false x.done

/-- The teams of the slot that are ready when yield issues (07 R144, R143). -/
def Ctx.readyOthers (x : Ctx) : List (Nat × Nat) :=
  (x.s.residents x.g.die x.g.core).flatMap fun g =>
    (g.teams.filter fun t =>
      t.slot == x.t.slot && !(g.gid == x.g.gid && t.idx == x.t.idx) && t.phase == .running && t.held.isNone && t.yielding.isNone &&
      t.readySince.any fun r => decide (r ≤ x.t.t0)).map fun t => (g.gid, t.idx)

/-- yield (07 R144): its 64 cycles count on the slot's clock from its issue, and the promotion count runs on while it waits. -/
def execYield (stall : BitVec 4) (s : State) : Out :=
  s.run fun x =>
    let others := x.readyOthers
    let y := x.retire 8 stall
    let t := { y.t with yielding := some { since := x.t.t0, teams := others } }
    ({ y with t := t } : Ctx).done

end Sys2Proof.Machine
end

