-- ==== Sys2Proof/Machine/Sync.lean ====
section
/-!
DEFINITION. Barriers and queues (08 R165 to R172).
-/
namespace Sys2Proof.Machine

namespace Ctx

/-- A barrier of the group. -/
def barrier (x : Ctx) (b : BitVec 3) : Barrier := (x.g.bars[b.toNat]?).getD { members := [], arrived := [], gen := false }

/-- The team's arrival, its commit made (08 R166): the barrier turns with the last one, which clears the committers (11 R200). -/
def arrive (x : Ctx) (b : BitVec 3) : Ctx × Bool :=
  let v := x.barrier b
  let r := ({ v with arrived := NSet.add v.arrived x.t.idx } : Barrier).turn
  ({ x with g := { x.g with
      bars := x.g.bars.set b.toNat r.1, committers := if r.2 then [] else x.g.committers } }, r.2)

/-- The checks of an arrival, and the arrival (08 R166). -/
def arriving (x : Ctx) (b : BitVec 3) (f : Ctx × Bool → Out) : Out :=
  if x.t.pending x.t.t0 then x.block .result
  else if !(x.barrier b).members.contains x.t.idx then x.trap0 Cause.queue
  else if (x.barrier b).arrived.contains x.t.idx then x.block (.barArrive b.toNat)
  else x.committing 8 fun y => f (y.arrive b)

/-- The PHASE bit set (20 R320). -/
def setPhase (x : Ctx) (p : Bool) : Ctx := { x with t := { x.t with phaseBit := p } }

/-- Wait (08 R166). -/
def barWaiting (x : Ctx) (b : BitVec 3) (stall : BitVec 4) : Out :=
  if (x.barrier b).arrived.contains x.t.idx then x.block (.barWait b.toNat) else ((x.setPhase false).retire 8 stall).done

end Ctx

/-- bar (08 R166): PHASE says that the arrival has been made. -/
def execBar (stall : BitVec 4) (b : BitVec 3) (s : State) : Out :=
  s.run fun x =>
    if x.t.phaseBit then x.barWaiting b stall
    else x.arriving b fun r =>
      if r.2 then (r.1.retire 8 stall).done else (r.1.setPhase true).block (.barWait b.toNat)

/-- bara (08 R166). -/
def execBara (stall : BitVec 4) (b : BitVec 3) (s : State) : Out :=
  s.run fun x => x.arriving b fun r => (r.1.retire 8 stall).done

/-- barw (08 R166): a team that has not arrived completes at once. -/
def execBarw (stall : BitVec 4) (b : BitVec 3) (s : State) : Out :=
  s.run fun x => if x.t.pending x.t.t0 then x.block .result else x.barWaiting b stall

/-! ### Queues -/

namespace Ctx

/-- A queue of the group. -/
def queue (x : Ctx) (q : BitVec 4) : Queue := (x.g.queues[q.toNat]?).getD { entries := [], allow := 0 }

/-- A queue written back. -/
def setQueue (x : Ctx) (q : BitVec 4) (v : Queue) : Ctx := { x with g := { x.g with queues := x.g.queues.set q.toNat v } }

/-- The check of a queue number (08 R170). -/
def onQueue (x : Ctx) (q : BitVec 4) (f : Out) : Out := if x.c.qcount ≤ q.toNat then x.trap0 Cause.queue else f

/-- An entry pushed, the team commit made. -/
def push (x : Ctx) (q : BitVec 4) (v : DWord) : Ctx :=
  let k := x.queue q
  x.setQueue q { entries := k.entries ++ [v], allow := k.allow - 1 }

/-- The oldest entry removed. -/
def pop (x : Ctx) (q : BitVec 4) : Ctx :=
  let k := x.queue q
  x.setQueue q { entries := k.entries.drop 1, allow := k.allow + 1 }

end Ctx

/-- qpush (08 R170). -/
def execQpush (stall : BitVec 4) (q : BitVec 4) (b : SrcB) (s : State) : Out :=
  s.run fun x => x.onQueue q
    (let v := x.sB b
     if v.poi then x.trap0 Cause.poisonUse
     else if (x.queue q).allow = 0 then x.block (.qpush q.toNat)
     else x.committing 8 fun y => ((y.push q v.val).retire 8 stall).done)

/-- qpop (08 R170). -/
def execQpop (stall : BitVec 4) (d : BitVec 6) (q : BitVec 4) (s : State) : Out :=
  s.run fun x => x.onQueue q
    (match (x.queue q).entries with
     | [] => x.block (.qpop q.toNat)
     | v :: _ => (((x.pop q).setS d v false).retire 8 stall).done)

/-- qtry.pop (08 R170): where sD and sF name one scalar, which the spec does not exclude, it reads sF's 1
(notes/assumptions/44.md, DESIGN CHOICE). -/
def execQtryPop (stall : BitVec 4) (d f : BitVec 6) (q : BitVec 4) (s : State) : Out :=
  s.run fun x => x.onQueue q
    (match (x.queue q).entries with
     | [] => ((x.setS f 0#64 false).retire 8 stall).done
     | v :: _ => ((((x.pop q).setS d v false).setS f 1#64 false).retire 8 stall).done)

/-- qtry.push (08 R170). -/
def execQtryPush (stall : BitVec 4) (f : BitVec 6) (q : BitVec 4) (b : SrcB) (s : State) : Out :=
  s.run fun x => x.onQueue q
    (let v := x.sB b
     if v.poi then x.trap0 Cause.poisonUse
     else if (x.queue q).allow = 0 then ((x.setS f 0#64 false).retire 8 stall).done
     else x.committing 8 fun y => (((y.push q v.val).setS f 1#64 false).retire 8 stall).done)

end Sys2Proof.Machine
end

