-- ==== Sys2Proof/Machine/Tasks.lean ====
section
/-!
DEFINITION. spawn (12 R219, R221, R222) and gpark (12 R234, R235).
-/
namespace Sys2Proof.Machine

namespace Ctx

/-- A lane's timestamp of a spawn: the pair vT (12 R222). -/
def spawnTs (x : Ctx) (t : BitVec 8) (lane : Nat) : SReg := x.v64 lane t.toNat

/-- The words of a lane's record, and whether one carries poison. -/
def spawnWords (x : Ctx) (a : BitVec 8) (len lane : Nat) : List Word × Bool :=
  let vs := (List.range (len + 1)).map fun j => x.v lane (a.toNat + j)
  (vs.map VReg.val ++ List.replicate (15 - len) 0#32, vs.any VReg.poi)

/-- The checks of 12 R222 in a lane: the fault, or the record. -/
def spawnLane (x : Ctx) (a t : BitVec 8) (node len : Nat) (lane : Nat) : Except LaneFault Rec :=
  let ts := x.spawnTs t lane
  let ws := x.spawnWords a len lane
  if ts.poi || ws.2 then .error (lane, Cause.poisonUse, 0#64)
  else if (x.im.nodeChart node).isNone then .error (lane, Cause.bound, dwordOf node)
  else if ts.val.toNat ≤ x.g.ts.toNat then .error (lane, Cause.tsOrder, ts.val)
  else .ok
    { words := ws.1, ts := ts.val, key := recKey ts.val x.g.key (spawnIndex x.t.idx x.t.spawns lane), parent := x.g.gid }

end Ctx

/-- spawn (12 R221, R222): the records of the lanes that pass enter their bin, in ascending lane order; a 257th spawn raises BOUND
(R219). -/
def execSpawn (h : Head) (a t : BitVec 8) (node len : BitVec 4) (s : State) : Out :=
  s.run fun x =>
    if 256 ≤ x.t.spawns then x.trap Cause.bound noLanes 256#64
    else
      let rs := (x.sel h).map fun l => x.spawnLane a t node.toNat len.toNat l
      let good := rs.filterMap fun r => match r with
        | .ok r => some r
        | .error _ => none
      let faults := x.guardFaults h ++ rs.filterMap fun r => match r with
        | .ok _ => none
        | .error e => some e
      let y := { x with t := { x.t with spawns := x.t.spawns + 1 } }
      let y := if good.isEmpty then y
               else y.sync fun s => good.foldl (fun s r => s.binEnter x.l.id x.c.ordered x.g.die node.toNat r) s
      y.finish 8 h.stall (x.sel h) faults

/-! ### gpark -/

/-- A team's gpark as it stands: its event and LIVE, and the address of .signal (12 R235). -/
def Ctx.parkOf (x : Ctx) (t : Team) : Option (ParkOn × Nat × DWord) :=
  match ({ x with t := t } : Ctx).fetch with
  | .ok (.gpark _ on live) =>
    some (on, live.toNat, match on with
      | .signal r _ => ((t.lend x.w (x.im.bindsAt t.pc)).fileS r.toNat).val
      | _ => 0#64)
  | _ => none

/-- The teams at their gpark. -/
def Ctx.parkers (x : Ctx) : List Team := x.g.teams.filter fun t => t.phase != .ended

/-- A team as the continuation keeps it (12 R235): at rest, v0 to v(LIVE−1) kept, after its gpark, with the reference cycle from which its next
instruction may issue (01 R18). -/
def Team.parkedAt (t : Team) (live ready : Nat) : Team :=
  { t.atRest with v := t.atRest.v.filter fun e => decide (e.1 % 256 < live), pc := t.pc + 16#64, earliest := ready }

/-- The reference cycle from which a team that parks may issue again: its gpark completes now, and its STALL follows (01 R18). -/
def Ctx.parkReady (x : Ctx) (t : Team) : Nat :=
  let sl := x.s.slotOf (slotKey x.g.die x.g.core t.slot)
  sl.refOf (sl.clock x.s.cycle + 1 + (wordStall (x.im.word t.pc)).toNat)

/-- A trap raised in every waiting team (12 R235), the arriving team's issue used and that of every other one at its gpark: handlers
entered, or the group ended at the lowest team without one. -/
def Ctx.raiseAll (z : Ctx) (cause : Cause) : Out :=
  let y := z.trapping
  let x := { y with g := y.g.setTeam y.t }
  match x.parkers.find? fun t => !x.c.hndl || t.inhandler with
  | some t => .next (x.save.endGroup x.g.gid cause (BitVec.ofNat 32 t.idx) t.pc 0#64)
  | none =>
    .next (x.parkers.foldl (fun s t => s.raiseIn x.g.gid t.idx fun q =>
      ((if t.idx = x.t.idx then q else q.atIssue.trapping).trapEntry cause noLanes 0#64 false).done) x.save)

/-- The group parked, its group commit made: its core released, the continuation waiting for its event. -/
def Ctx.park (x : Ctx) (on : ParkOn) (addr : DWord) : Out :=
  let y := (x.issued 1 0).sync fun s => (s.quiesce x.g.gid).groupCommit x.g.gid false
  let teams := y.g.teams.map fun t => if t.phase == .ended then t else t.parkedAt (((x.parkOf t).map fun p => p.2.1).getD 0) (y.parkReady t)
  let g := { y.g.atRest with teams := teams, status := .parked, freed := true, parked := some { on := on, addr := addr, since := y.s.cycle } }
  .next (y.s.setGroup g)

/-- The last arrival of a group at gpark (12 R235): every team waits, and the group commits and parks, or waits on for its commit. -/
def Ctx.parkJoin (x : Ctx) (wait : Out) : Out :=
  if !x.parkers.all (fun t => t.idx == x.t.idx || t.wait == some .park) then wait
  else
    match x.parkers.map x.parkOf with
    | [] => wait
    | p :: ps =>
      if ps.any fun q => (q.map fun r => (r.1, r.2.2)) != p.map fun r => (r.1, r.2.2) then x.raiseAll Cause.queue
      else if x.spec || !x.save.commitReady x.g.gid false || !x.save.quiet x.g.gid then wait
      else match p with
        | none => wait
        | some r => x.park r.1 r.2.2

/-- Whether .signal's scalar carries poison. -/
def Ctx.parkPoison (x : Ctx) : ParkOn → Bool
  | .signal r _ => (x.sc r.toNat).poi
  | _ => false

/-- Whether .qne names an empty queue. -/
def Ctx.parkEmpty (x : Ctx) : ParkOn → Bool
  | .qne q => (x.g.queues[q.toNat]?).all fun q => q.entries.isEmpty
  | _ => false

/-- gpark (12 R235): a team that has arrived waits and its checks are not made again. -/
def execGpark (_stall : BitVec 4) (on : ParkOn) (_live : BitVec 9) (s : State) : Out :=
  s.run fun x =>
    if x.t.wait = some .park then x.parkJoin (x.block .park)
    else if x.c.ordered && !x.g.gcommitted then x.trap0 Cause.tsOrder
    else if x.parkPoison on then x.trap0 Cause.poisonUse
    else if x.parkEmpty on then x.trap0 Cause.queue
    else x.committing 16 fun y =>
      let z := { y with t := { y.t with wait := some .park } }
      let g := z.g.setTeam z.t
      ({ z with g := g } : Ctx).parkJoin (z.block .park)

end Sys2Proof.Machine
end

