-- ==== Sys2Proof/Machine/Dispatch.lean ====
section
/-!
DEFINITION. One arm for each constructor of Instr: the instruction's meaning.
-/
namespace Sys2Proof.Machine

def exec (i : Instr) (s : State) : Host.Outcome State Fault Refusal :=
  match i with
  | .iadd o => Sys2Proof.Machine.execIadd o s
  | .isub o => Sys2Proof.Machine.execIsub o s
  | .imul o => Sys2Proof.Machine.execImul o s
  | .imulh o => Sys2Proof.Machine.execImulh o s
  | .imad o => Sys2Proof.Machine.execImad o s
  | .iadd64 o => Sys2Proof.Machine.execIadd64 o s
  | .isub64 o => Sys2Proof.Machine.execIsub64 o s
  | .imin o => Sys2Proof.Machine.execImin o s
  | .imax o => Sys2Proof.Machine.execImax o s
  | .iabs o => Sys2Proof.Machine.execIabs o s
  | .ineg o => Sys2Proof.Machine.execIneg o s
  | .iaddsat o => Sys2Proof.Machine.execIaddsat o s
  | .isubsat o => Sys2Proof.Machine.execIsubsat o s
  | .and o => Sys2Proof.Machine.execAnd o s
  | .or o => Sys2Proof.Machine.execOr o s
  | .xor o => Sys2Proof.Machine.execXor o s
  | .not o => Sys2Proof.Machine.execNot o s
  | .andn o => Sys2Proof.Machine.execAndn o s
  | .shl o => Sys2Proof.Machine.execShl o s
  | .shr o => Sys2Proof.Machine.execShr o s
  | .sar o => Sys2Proof.Machine.execSar o s
  | .rol o => Sys2Proof.Machine.execRol o s
  | .bfx o => Sys2Proof.Machine.execBfx o s
  | .bfi o => Sys2Proof.Machine.execBfi o s
  | .popc o => Sys2Proof.Machine.execPopc o s
  | .clz o => Sys2Proof.Machine.execClz o s
  | .ctz o => Sys2Proof.Machine.execCtz o s
  | .brev o => Sys2Proof.Machine.execBrev o s
  | .sel o => Sys2Proof.Machine.execSel o s
  | .icmp o => Sys2Proof.Machine.execIcmp o s
  | .clamp o => Sys2Proof.Machine.execClamp o s
  | .idot4 o => Sys2Proof.Machine.execIdot4 o s
  | .idot8 o => Sys2Proof.Machine.execIdot8 o s
  | .srshr o => Sys2Proof.Machine.execSrshr o s
  | .fadd o => Sys2Proof.Machine.execFadd o s
  | .fsub o => Sys2Proof.Machine.execFsub o s
  | .fmul o => Sys2Proof.Machine.execFmul o s
  | .ffma o => Sys2Proof.Machine.execFfma o s
  | .fmin o => Sys2Proof.Machine.execFmin o s
  | .fmax o => Sys2Proof.Machine.execFmax o s
  | .fabs o => Sys2Proof.Machine.execFabs o s
  | .fneg o => Sys2Proof.Machine.execFneg o s
  | .fcmp o => Sys2Proof.Machine.execFcmp o s
  | .fclass o => Sys2Proof.Machine.execFclass o s
  | .hadd2 o => Sys2Proof.Machine.execHadd2 o s
  | .hmul2 o => Sys2Proof.Machine.execHmul2 o s
  | .hfma2 o => Sys2Proof.Machine.execHfma2 o s
  | .frcp o => Sys2Proof.Machine.execFrcp o s
  | .frsq o => Sys2Proof.Machine.execFrsq o s
  | .fsqrt o => Sys2Proof.Machine.execFsqrt o s
  | .fexp2 o => Sys2Proof.Machine.execFexp2 o s
  | .flog2 o => Sys2Proof.Machine.execFlog2 o s
  | .fsin o => Sys2Proof.Machine.execFsin o s
  | .fcos o => Sys2Proof.Machine.execFcos o s
  | .ftanh o => Sys2Proof.Machine.execFtanh o s
  | .pchk o => Sys2Proof.Machine.execPchk o s
  | .cvt o => Sys2Proof.Machine.execCvt o s
  | .qpack4 o => Sys2Proof.Machine.execQpack4 o s
  | .qunpack4 o => Sys2Proof.Machine.execQunpack4 o s
  | .scalepick o => Sys2Proof.Machine.execScalepick o s
  | .cvt8x4 o => Sys2Proof.Machine.execCvt8x4 o s
  | .cvtq o => Sys2Proof.Machine.execCvtq o s
  | .sadd o => Sys2Proof.Machine.execSadd o s
  | .ssub o => Sys2Proof.Machine.execSsub o s
  | .smul o => Sys2Proof.Machine.execSmul o s
  | .smad o => Sys2Proof.Machine.execSmad o s
  | .sand o => Sys2Proof.Machine.execSand o s
  | .sor o => Sys2Proof.Machine.execSor o s
  | .sxor o => Sys2Proof.Machine.execSxor o s
  | .sshl o => Sys2Proof.Machine.execSshl o s
  | .sshr o => Sys2Proof.Machine.execSshr o s
  | .ssar o => Sys2Proof.Machine.execSsar o s
  | .smin o => Sys2Proof.Machine.execSmin o s
  | .smax o => Sys2Proof.Machine.execSmax o s
  | .scmp o => Sys2Proof.Machine.execScmp o s
  | .smov o => Sys2Proof.Machine.execSmov o s
  | .sli stall sub d imm => Sys2Proof.Machine.execSli stall sub d imm s
  | .sget stall d sel => Sys2Proof.Machine.execSget stall d sel s
  | .sset stall sel b => Sys2Proof.Machine.execSset stall sel b s
  | .vbcast o => Sys2Proof.Machine.execVbcast o s
  | .vlane stall sx d a b => Sys2Proof.Machine.execVlane stall sx d a b s
  | .bra stall imm => Sys2Proof.Machine.execBra stall imm s
  | .brc stall cond x imm => Sys2Proof.Machine.execBrc stall cond x imm s
  | .call stall imm => Sys2Proof.Machine.execCall stall imm s
  | .ret stall => Sys2Proof.Machine.execRet stall s
  | .exit stall => Sys2Proof.Machine.execExit stall s
  | .nop stall => Sys2Proof.Machine.execNop stall s
  | .ifOp stall c imm => Sys2Proof.Machine.execIfOp stall c imm s
  | .elseOp stall imm => Sys2Proof.Machine.execElseOp stall imm s
  | .endif stall => Sys2Proof.Machine.execEndif stall s
  | .loop stall imm => Sys2Proof.Machine.execLoop stall imm s
  | .breakOp stall c imm => Sys2Proof.Machine.execBreakOp stall c imm s
  | .cont stall c imm => Sys2Proof.Machine.execCont stall c imm s
  | .endloop stall c imm => Sys2Proof.Machine.execEndloop stall c imm s
  | .yield stall => Sys2Proof.Machine.execYield stall s
  | .shfl o => Sys2Proof.Machine.execShfl o s
  | .ballot o => Sys2Proof.Machine.execBallot o s
  | .vote o => Sys2Proof.Machine.execVote o s
  | .popm o => Sys2Proof.Machine.execPopm o s
  | .scan o => Sys2Proof.Machine.execScan o s
  | .reduce o => Sys2Proof.Machine.execReduce o s
  | .matchOp o => Sys2Proof.Machine.execMatchOp o s
  | .elect o => Sys2Proof.Machine.execElect o s
  | .lmask o => Sys2Proof.Machine.execLmask o s
  | .ldl o => Sys2Proof.Machine.execLdl o s
  | .stl o => Sys2Proof.Machine.execStl o s
  | .lds o => Sys2Proof.Machine.execLds o s
  | .sts o => Sys2Proof.Machine.execSts o s
  | .ldd o => Sys2Proof.Machine.execLdd o s
  | .std o => Sys2Proof.Machine.execStd o s
  | .waitp stall path b => Sys2Proof.Machine.execWaitp stall path b s
  | .atom o => Sys2Proof.Machine.execAtom o s
  | .atomf o => Sys2Proof.Machine.execAtomf o s
  | .red o => Sys2Proof.Machine.execRed o s
  | .redf o => Sys2Proof.Machine.execRedf o s
  | .tcommit stall => Sys2Proof.Machine.execTcommit stall s
  | .tcommitCk stall b => Sys2Proof.Machine.execTcommitCk stall b s
  | .tabort stall => Sys2Proof.Machine.execTabort stall s
  | .gcommit stall => Sys2Proof.Machine.execGcommit stall s
  | .gabort stall => Sys2Proof.Machine.execGabort stall s
  | .fence h scope => Sys2Proof.Machine.execFence h scope s
  | .xfence stall hdl => Sys2Proof.Machine.execXfence stall hdl s
  | .spawn h a t node len => Sys2Proof.Machine.execSpawn h a t node len s
  | .gpark stall on live => Sys2Proof.Machine.execGpark stall on live s
  | .bar stall b => Sys2Proof.Machine.execBar stall b s
  | .bara stall b => Sys2Proof.Machine.execBara stall b s
  | .barw stall b => Sys2Proof.Machine.execBarw stall b s
  | .qpush stall q b => Sys2Proof.Machine.execQpush stall q b s
  | .qpop stall d q => Sys2Proof.Machine.execQpop stall d q s
  | .qtryPop stall d f q => Sys2Proof.Machine.execQtryPop stall d f q s
  | .qtryPush stall f q b => Sys2Proof.Machine.execQtryPush stall f q b s
  | .cpin stall hdl rec b => Sys2Proof.Machine.execCpin stall hdl rec b s
  | .cpout stall rop hdl rec b => Sys2Proof.Machine.execCpout stall rop hdl rec b s
  | .gather h hdl rec v => Sys2Proof.Machine.execGather h hdl rec v s
  | .scatter h hdl rec v => Sys2Proof.Machine.execScatter h hdl rec v s
  | .hwait stall hdl smask => Sys2Proof.Machine.execHwait stall hdl smask s
  | .hrel stall hdl => Sys2Proof.Machine.execHrel stall hdl s
  | .hstatSt stall d hdl => Sys2Proof.Machine.execHstatSt stall d hdl s
  | .hstatTag stall d hdl => Sys2Proof.Machine.execHstatTag stall d hdl s
  | .lrset stall sr b => Sys2Proof.Machine.execLrset stall sr b s
  | .lfence stall => Sys2Proof.Machine.execLfence stall s
  | .mma o => Sys2Proof.Machine.execMma o s
  | .mmas o vm sm => Sys2Proof.Machine.execMmas o vm sm s
  | .mzero h tile anchor => Sys2Proof.Machine.execMzero h tile anchor s
  | .mload h tile vs g anchor => Sys2Proof.Machine.execMload h tile vs g anchor s
  | .mread h d tile cv g => Sys2Proof.Machine.execMread h d tile cv g s
  | .mstore h a off tile cv g => Sys2Proof.Machine.execMstore h a off tile cv g s
  | .mburst stall b => Sys2Proof.Machine.execMburst stall b s
  | .mstepGet stall d => Sys2Proof.Machine.execMstepGet stall d s
  | .mstepSet stall b => Sys2Proof.Machine.execMstepSet stall b s
  | .trap stall n => Sys2Proof.Machine.execTrap stall n s
  | .tretAfter stall => Sys2Proof.Machine.execTretAfter stall s
  | .tretRetry stall => Sys2Proof.Machine.execTretRetry stall s
  | .cycle stall d => Sys2Proof.Machine.execCycle stall d s
  | .chkset stall n => Sys2Proof.Machine.execChkset stall n s
  | .vgrow stall b => Sys2Proof.Machine.execVgrow stall b s
  | .vshrink stall b => Sys2Proof.Machine.execVshrink stall b s
  | .featq stall d b => Sys2Proof.Machine.execFeatq stall d b s
  | .bkpt stall n => Sys2Proof.Machine.execBkpt stall n s
  | .pairedIssue x y => Sys2Proof.Machine.execPairedIssue x y s
  | .resultReady g t => Sys2Proof.Machine.execResultReady g t s
  | .loadReturn g t path lanes => Sys2Proof.Machine.execLoadReturn g t path lanes s
  | .atomicReturn g t => Sys2Proof.Machine.execAtomicReturn g t s
  | .deferredTrapDelivery g t => Sys2Proof.Machine.execDeferredTrapDelivery g t s
  | .deadlockDetect g => Sys2Proof.Machine.execDeadlockDetect g s
  | .teamPromotion g t => Sys2Proof.Machine.execTeamPromotion g t s
  | .yieldExpiry g t => Sys2Proof.Machine.execYieldExpiry g t s
  | .vgrowGrant g t => Sys2Proof.Machine.execVgrowGrant g t s
  | .bandForm l => Sys2Proof.Machine.execBandForm l s
  | .recut l => Sys2Proof.Machine.execRecut l s
  | .sextantForward l die => Sys2Proof.Machine.execSextantForward l die s
  | .shareDraw l die core => Sys2Proof.Machine.execShareDraw l die core s
  | .localListReturn l die core => Sys2Proof.Machine.execLocalListReturn l die core s
  | .shareCountExchange l die => Sys2Proof.Machine.execShareCountExchange l die s
  | .stealRequest l die => Sys2Proof.Machine.execStealRequest l die s
  | .stealServe l die => Sys2Proof.Machine.execStealServe l die s
  | .stealReply l die => Sys2Proof.Machine.execStealReply l die s
  | .groupDispatch die core => Sys2Proof.Machine.execGroupDispatch die core s
  | .preloadComplete g => Sys2Proof.Machine.execPreloadComplete g s
  | .preloadFault g => Sys2Proof.Machine.execPreloadFault g s
  | .postloadCheckDone g => Sys2Proof.Machine.execPostloadCheckDone g s
  | .groupCommit g => Sys2Proof.Machine.execGroupCommit g s
  | .binTimerExpiry l die node ts => Sys2Proof.Machine.execBinTimerExpiry l die node ts s
  | .frontierReport l die => Sys2Proof.Machine.execFrontierReport l die s
  | .frontierUpdate l => Sys2Proof.Machine.execFrontierUpdate l s
  | .gparkTimerExpiry g => Sys2Proof.Machine.execGparkTimerExpiry g s
  | .continuationResume g => Sys2Proof.Machine.execContinuationResume g s
  | .copyAccept g t => Sys2Proof.Machine.execCopyAccept g t s
  | .publish g hdl => Sys2Proof.Machine.execPublish g hdl s
  | .fillFault g hdl => Sys2Proof.Machine.execFillFault g hdl s
  | .drainCheckDone g hdl => Sys2Proof.Machine.execDrainCheckDone g hdl s
  | .drainCheckFault g hdl => Sys2Proof.Machine.execDrainCheckFault g hdl s
  | .drainWriteDone g hdl => Sys2Proof.Machine.execDrainWriteDone g hdl s
  | .operandPrefetch g t k => Sys2Proof.Machine.execOperandPrefetch g t k s
  | .translationMiss l die core va => Sys2Proof.Machine.execTranslationMiss l die core va s
  | .preempt g => Sys2Proof.Machine.execPreempt g s
  | .preemptGraceExpiry g => Sys2Proof.Machine.execPreemptGraceExpiry g s
  | .groupResume die core => Sys2Proof.Machine.execGroupResume die core s
  | .budgetExpiry l => Sys2Proof.Machine.execBudgetExpiry l s
  | .coreReset die core => Sys2Proof.Machine.execCoreReset die core s
  | .coreResetEnd die core => Sys2Proof.Machine.execCoreResetEnd die core s
  | .scrub die core word double => Sys2Proof.Machine.execScrub die core word double s
  | .packetDelivery id => Sys2Proof.Machine.execPacketDelivery id s
  | .drainPoint => Sys2Proof.Machine.execDrainPoint s
  | .drainPhaseEnd => Sys2Proof.Machine.execDrainPhaseEnd s
  | .routerPowerDown die core => Sys2Proof.Machine.execRouterPowerDown die core s
  | .routerWake die core => Sys2Proof.Machine.execRouterWake die core s
  | .islandControlTick watts temps => Sys2Proof.Machine.execIslandControlTick watts temps s
  | .islandPointChangeDone slot => Sys2Proof.Machine.execIslandPointChangeDone slot s
  | .retainWake island => Sys2Proof.Machine.execRetainWake island s
  | .matrixRampIdle slot => Sys2Proof.Machine.execMatrixRampIdle slot s
  | .mburstHoldExpiry g t => Sys2Proof.Machine.execMburstHoldExpiry g t s
  | .sampleTick l die pick => Sys2Proof.Machine.execSampleTick l die pick s
  | .moduleReset => Sys2Proof.Machine.execModuleReset s
  | .unsupportedPacket port => Sys2Proof.Machine.execUnsupportedPacket port s
  | .launchDispatchStart l => Sys2Proof.Machine.execLaunchDispatchStart l s
  | .regionImageSave l => Sys2Proof.Machine.execRegionImageSave l s
  | .launchComplete l => Sys2Proof.Machine.execLaunchComplete l s
  | .query h => Sys2Proof.Machine.execQuery h s
  | .map h o => Sys2Proof.Machine.execMap h o s
  | .unmap h va len => Sys2Proof.Machine.execUnmap h va len s
  | .load h va size reqsig digest => Sys2Proof.Machine.execLoad h va size reqsig digest s
  | .unload h image => Sys2Proof.Machine.execUnload h image s
  | .launch h o => Sys2Proof.Machine.execLaunch h o s
  | .launchx h o x => Sys2Proof.Machine.execLaunchx h o x s
  | .wait h id timeout => Sys2Proof.Machine.execWait h id timeout s
  | .cancel h id => Sys2Proof.Machine.execCancel h id s
  | .cancelKeep h id => Sys2Proof.Machine.execCancelKeep h id s
  | .copyPut h va data preds => Sys2Proof.Machine.execCopyPut h va data preds s
  | .copyGet h va len preds => Sys2Proof.Machine.execCopyGet h va len preds s
  | .copyXfer h out peer va peerVa len preds => Sys2Proof.Machine.execCopyXfer h out peer va peerVa len preds s
  | .attest h nonce => Sys2Proof.Machine.execAttest h nonce s
  | .log h sel start count => Sys2Proof.Machine.execLog h sel start count s
  | .islandRead h => Sys2Proof.Machine.execIslandRead h s
  | .islandSet h limit caps => Sys2Proof.Machine.execIslandSet h limit caps s
  | .unassignedOpcode w => Sys2Proof.Machine.execUnassignedOpcode w s
  | .unassignedCommand h cmd => Sys2Proof.Machine.execUnassignedCommand h cmd s
  | .waitTimeout id => Sys2Proof.Machine.execWaitTimeout id s
  | .copyCompletion id peer => Sys2Proof.Machine.execCopyCompletion id peer s
  | .peerXferRequest peer put va len data => Sys2Proof.Machine.execPeerXferRequest peer put va len data s
  | .retainEntry island => Sys2Proof.Machine.execRetainEntry island s

end Sys2Proof.Machine
end

