-- ==== Sys2Proof/Machine/Fuse.lean ====
section
/-!
DEFINITION. Fusible sequences (06 R125): adjacent instructions that the front end issues as one operation. Fusion changes no value; a
step makes the whole sequence, so that nothing falls inside it.
-/
namespace Sys2Proof

/-- Whether two instructions share PRED and PNEG, and the earlier one's STALL is at least n (01 R19). -/
def Head.leads (h k : Head) (n : Nat) : Bool := h.pred == k.pred && h.neg == k.neg && decide (n ≤ h.stall.toNat)

/-- Whether a source B names a vector register. -/
def SrcB.isReg (b : SrcB) (d : BitVec 8) : Bool := b == .vec d

/-- Whether two floating-point instructions of FORM 00 may fuse as far as their fields go: L = 6 (01 R18). -/
def VFlt.leads (p q : VFlt) : Bool := p.h.leads q.h 5 && p.ty == q.ty && p.rnd == q.rnd && p.b.size == 8 && q.b.size == 8

/-- Whether two integer instructions of FORM 00 may fuse as far as their fields go: L = 4. -/
def VInt.leads (p q : VInt) : Bool := p.h.leads q.h 3 && p.ty == q.ty && p.sat == q.sat && p.b.size == 8 && q.b.size == 8

/-- A later floating-point member reads the earlier one's destination as source A or B, or as source C. -/
def VFlt.intoAB (p q : VFlt) : Bool := p.leads q && (q.a == p.d || q.b.isReg p.d)
def VFlt.intoC (p q : VFlt) : Bool := p.leads q && q.c == p.d

/-- The same of integers, as source A, and as source A or B. -/
def VInt.intoA (p q : VInt) : Bool := p.leads q && q.a == p.d
def VInt.intoAB (p q : VInt) : Bool := p.leads q && (q.a == p.d || q.b.isReg p.d)

/-- Whether two adjacent instructions stand in the table of 06 R125. -/
def fusesTwo : Instr → Instr → Bool
  | .fmul p, .fadd q | .fmul p, .fsub q => p.intoAB q
  | .fmul p, .ffma q | .ffma p, .ffma q => p.intoC q
  | .iadd p, .shl q => p.intoA q
  | .shl p, .iadd q => p.intoAB q
  | _, _ => false

/-- Whether three do. -/
def fusesThree : Instr → Instr → Instr → Bool
  | .fmul p, .fadd q, .fadd r => p.intoAB q && q.intoAB r
  | .iadd p, .shl q, .iadd r => p.intoA q && q.intoAB r
  | _, _, _ => false

end Sys2Proof
end

