-- ==== Sys2Proof/Machine/Schedule.lean ====
section
/-!
DEFINITION. What moves when the agenda is empty: the schedule that the model takes by default (notes/assumptions/1.md). A step of the
device that is due, in the order of `State.events`; otherwise the team that issues next; otherwise time.
-/
namespace Sys2Proof.Machine

/-- Whether a step of the device is due; false of every instruction, and of what the outside brings about. -/
def State.due (s : State) : Instr → Bool
  | .resultReady g t => s.resultDue g t
  | .loadReturn g t path _ => s.loadDue g t path
  | .atomicReturn g t => s.atomicDue g t
  | .deferredTrapDelivery g t => s.heldDue g t
  | .deadlockDetect g => s.deadlocked g
  | .teamPromotion g t => s.promotionDue g t
  | .yieldExpiry g t => s.yieldDue g t
  | .vgrowGrant g t => (s.grant g t).isSome
  | .bandForm l => s.bandDue l
  | .recut l => s.recutDue l
  | .sextantForward l d => s.forwardDue l d
  | .shareDraw l d c => (s.draw l d c).isSome
  | .localListReturn l d c => s.localDue l d c
  | .shareCountExchange l d => s.exchangeDue l d
  | .stealRequest l d => (s.stealFrom l d).isSome
  | .stealServe l d => s.serveDue l d
  | .stealReply l d => s.replyDue l d
  | .groupDispatch d c => (s.nextStart d c).any fun x => !x.g.saved
  | .groupResume d c => (s.nextStart d c).any fun x => x.g.saved
  | .preloadComplete g => (s.preloadDone g).isSome
  | .preloadFault g => (s.preFaultNow g).isSome
  | .postloadCheckDone g => s.postDue g
  | .groupCommit g => s.finalDue g
  | .binTimerExpiry l d n ts => (s.timerNow l d n ts).isSome
  | .frontierReport l d => s.reportDue l d
  | .frontierUpdate l => s.frontierDue l
  | .gparkTimerExpiry g => s.parkTimerDue g
  | .continuationResume g => s.parkDue g
  | .copyAccept g t => s.acceptDue g t
  | .publish g h => (s.fillNow g h.toNat).any fun e => e.f.bad.isNone
  | .fillFault g h => (s.fillNow g h.toNat).any fun e => e.f.bad.isSome
  | .drainCheckDone g h => match s.drainNow g h.toNat with
    | some (_, _, none) => true
    | _ => false
  | .drainCheckFault g h => match s.drainNow g h.toNat with
    | some (_, _, some _) => true
    | _ => false
  | .drainWriteDone g h => s.drainWritten g h.toNat
  | .preemptGraceExpiry g => s.graceDue g
  | .budgetExpiry l => s.budgetDue l
  | .coreResetEnd d c => s.resetOn d c
  | .packetDelivery p => (s.deliverable p).any fun k => !s.held k
  | .drainPoint => s.drainDue
  | .drainPhaseEnd => s.drainEnded
  | .routerPowerDown d c => s.sleepy d c
  | .routerWake d c => s.wakeDue d c
  | .islandPointChangeDone i => s.pointDue i
  | .retainWake i => s.retainWakeDue i
  | .matrixRampIdle i => s.rampDue i
  | .mburstHoldExpiry g t => s.burstDue g t
  | .sampleTick l d _ => s.sampleDue l d
  | .launchDispatchStart l => s.startDue l
  | .regionImageSave l => s.saveDue l
  | .launchComplete l => s.completeDue l
  | .waitTimeout w => (s.waitNow w).isSome
  | .copyCompletion c none => s.copies.any fun k => k.id == c && k.done.isNone && (s.predFailed k.preds || (s.predsDone k.preds &&
      (match k.form with
       | .xfer _ _ _ => false
       | _ => true)))
  | .peerXferRequest p w va n d => s.xfers.any fun x => x.of p w va n d
  | _ => false

/-- The steps that may be due on a team. -/
def teamEvents (g t : Nat) : List Instr :=
  [.resultReady g t, .loadReturn g t .loc (BitVec.allOnes 1024), .loadReturn g t .spill (BitVec.allOnes 1024),
   .loadReturn g t .die (BitVec.allOnes 1024), .atomicReturn g t, .deferredTrapDelivery g t, .yieldExpiry g t, .teamPromotion g t,
   .vgrowGrant g t, .copyAccept g t, .mburstHoldExpiry g t]

/-- The steps that may be due on a handle of a group. -/
def handleEvents (g : Nat) (h : BitVec 5) : List Instr :=
  [.publish g h, .fillFault g h, .drainCheckDone g h, .drainCheckFault g h]

/-- The steps that may be due on a group. -/
def Group.events (g : Group) : List Instr :=
  ((List.range g.teams.length).flatMap fun t => teamEvents g.gid t) ++
  ((List.range g.handles.length).flatMap fun h => handleEvents g.gid (BitVec.ofNat 5 h)) ++
  (g.written.map fun k => .drainWriteDone g.gid (BitVec.ofNat 5 k.hdl)) ++
  [.preemptGraceExpiry g.gid, .deadlockDetect g.gid, .preloadFault g.gid, .preloadComplete g.gid, .postloadCheckDone g.gid,
   .groupCommit g.gid, .gparkTimerExpiry g.gid, .continuationResume g.gid]

/-- The steps that may be due on a launch. -/
def Launch.events (l : Launch) : List Instr :=
  [.budgetExpiry l.id, .launchDispatchStart l.id] ++
  (l.dies.flatMap fun d => (List.range 64).flatMap fun c => [.localListReturn l.id d c, .shareDraw l.id d c]) ++
  (l.dies.flatMap fun d => [.stealServe l.id d, .stealReply l.id d, .frontierReport l.id d, .sextantForward l.id d]) ++
  [.frontierUpdate l.id, .recut l.id, .bandForm l.id] ++
  (l.bins.flatMap fun b => b.timers.map fun t => .binTimerExpiry l.id b.die b.node (t.1.getD 0#64)) ++
  (l.dies.flatMap fun d => [.shareCountExchange l.id d, .stealRequest l.id d, .sampleTick l.id d 0]) ++
  [.regionImageSave l.id, .launchComplete l.id]

/-- The steps that may be due now, in the order in which the default schedule takes them. -/
def State.events (s : State) : List Instr :=
  (s.groups.flatMap Group.events) ++
  [.drainPhaseEnd, .drainPoint] ++ ((s.routers.map Prod.fst).map fun r => .routerWake (r / 64) (r % 64)) ++
  (s.packets.map fun p => .packetDelivery p.id) ++ (s.launches.flatMap Launch.events) ++
  ((s.cores.map Prod.fst).flatMap fun k =>
    [.groupDispatch (k / 64) (k % 64), .groupResume (k / 64) (k % 64), .coreResetEnd (k / 64) (k % 64)]) ++
  ((s.slots.map Prod.fst).flatMap fun i => [.islandPointChangeDone i, .matrixRampIdle i]) ++
  (s.retain.map fun i => .retainWake i) ++ (s.waits.map fun w => .waitTimeout w.id) ++
  (s.copies.map fun c => .copyCompletion c.id none) ++ (s.xfers.map fun x => .peerXferRequest x.peer x.put x.va x.len x.data) ++
  (List.range 256).map fun r => .routerPowerDown (r / 64) (r % 64)

/-- The step of the device that is due by default; `none` when no step is. -/
def State.nextEvent (s : State) : Option Instr := s.events.find? s.due

/-- The step that may wait no longer: a router or an island is woken at its signal or request (21 R339, R342), a packet is delivered
within its bound (R337, R338), a drain phase ends and a drain point comes at its cycle (R337), and a core's reset (R340) and a change of
point (R342) end at theirs, and a team's promotion and the end of a yield come at theirs (07 R143, R144). -/
def State.forced (s : State) : Option Instr :=
  let passed (t : Option Nat) : Bool := t.any fun c => decide (c ≤ s.cycle)
  (((s.routers.map Prod.fst).find? fun r => s.wakeDue (r / 64) (r % 64)).map fun r => .routerWake (r / 64) (r % 64)) <|>
  ((s.retain.find? s.retainWakeDue).map Instr.retainWake) <|>
  (s.packets.findSome? fun p => if s.overdue p then s.urge p else none) <|>
  (if s.drainEnded then some .drainPhaseEnd else none) <|>
  (if s.drainDue then some .drainPoint else none) <|>
  ((s.cores.find? fun k => passed k.2.reset).map fun k => .coreResetEnd (k.1 / 64) (k.1 % 64)) <|>
  ((s.slots.find? fun k => passed k.2.changing).map fun k => .islandPointChangeDone k.1) <|>
  (s.groups.findSome? fun g => g.teams.findSome? fun t =>
    if s.yieldDue g.gid t.idx then some (.yieldExpiry g.gid t.idx)
    else if s.promotionDue g.gid t.idx then some (.teamPromotion g.gid t.idx) else none)

/-- The cycles at which a step may come to wait no longer. -/
def State.bounds (s : State) : List Nat :=
  [s.nextDrain - 16, s.nextDrain] ++ s.drain.toList ++ s.packets.map (fun p => p.at_ + 65536) ++
  s.cores.filterMap (fun k => k.2.reset) ++ s.slots.filterMap fun k => k.2.changing

/-- The cycles at which a running team is promoted, or its yield ends (07 R143, R144): a slot's choice for one of them, or for a later
cycle, is made with it. -/
def State.turns (s : State) : List Nat :=
  (s.groups.filter fun g => g.status == .running).flatMap fun g =>
    (g.teams.filter fun t => t.phase == .running).flatMap fun t =>
      let sl := s.slotOf (slotKey g.die g.core t.slot)
      ((if t.promoted.isNone then t.readySince.toList.map (· + 4096) else []) ++ t.yielding.toList.map fun (y : Yielding) => y.since + 64).map sl.refOf

/-- Whether a team's issue passes over none of them. -/
def State.inBounds (s : State) (gi ti : Nat) : Bool :=
  match s.team? gi ti with
  | none => true
  | some (g, t) =>
    let c := (s.slotOf (slotKey g.die g.core t.slot)).refOf (issueAt s g t)
    (s.bounds.all fun d => decide (d ≤ s.cycle) || decide (c ≤ d)) && s.turns.all fun d => decide (d ≤ s.cycle) || decide (c < d)

/-- What moves next: a step that may wait no longer; the head of the agenda; otherwise an access that is outstanding, a command in line
whose turn has come, a step of the device that is due, or the team that issues next. Nothing moves, and time goes on, where a team's issue
would pass over a bound. -/
def State.pick (s : State) : Option Pick :=
  match s.forced, s.agenda with
  | some i, _ => some (.ev i)
  | none, .team g t :: _ => if s.inBounds g t then some (.team g t) else none
  | none, p :: _ => some p
  | none, [] =>
    if !s.lrq.isEmpty then some (.micro (.lrset 0))
    else if let some p := s.matOpen then some (.micro (.mat p.1 p.2))
    else if let some k := s.nextLine then some (.micro (.serve k))
    else match s.nextEvent with
    | some i => some (.ev i)
    | none => s.nextTeam.bind fun p => if s.inBounds p.1 p.2 then some (.team p.1 p.2) else none

/-- The state once something is picked: the head of the agenda is taken, where it is what moves. -/
def State.picked (s : State) : State := if s.forced.isSome then s else { s with agenda := s.agenda.drop 1 }

end Sys2Proof.Machine
end

