-- ==== Sys2Proof/Machine/Run.lean ====
section
/-!
DEFINITION. Running what has been picked: the issue of an instruction (02 R41) with the members that fuse with it (06 R125), the accesses
performed apart from their instructions, and the readiness of the teams that wait (07 R143).
-/
namespace Sys2Proof.Machine

/-! ### One instruction -/

/-- The executing team's instruction: fetched, decoded, checked, executed (02 R41). -/
def runFetched (s : State) : Out :=
  match s.ctx? with
  | none => .next s
  | some x =>
    match x.fetch with
    | .error r => x.trap0 r.cause
    | .ok i =>
      match x.precheck i with
      | some o => o
      | none => exec i s

/-- The executing team's instruction, a record of a translated Eceel block among its virtual registers (22 R357). -/
def runBound (s : State) : Out := s.withBinds runFetched

/-! ### Fused sequences -/

/-- Whether a team has gone on to an address: no trap, no wait, in the same handler or none. -/
def State.wentOn (s : State) (gi ti : Nat) (pc : DWord) (inside : Bool) : Bool :=
  (s.team? gi ti).any fun q =>
    q.1.status == .running && q.2.phase == .running && q.2.pc == pc && q.2.wait.isNone && q.2.held.isNone && q.2.inhandler == inside

/-- The team about to issue its next instruction within the step: its ready results written at that issue's cycle. -/
def State.follow (s : State) (gi ti : Nat) : State :=
  s.onTeam gi ti fun g t => let t0 := issueAt s g t; { t.settle t0 with t0 := t0 }

/-- The next n members of a sequence whose executed member left the state: `none` where one would trap or wait. -/
def State.members (s : State) (gi ti : Nat) (pc : DWord) (inside : Bool) : Nat → Option State
  | 0 => some s
  | n + 1 =>
    match runBound (s.follow gi ti) with
    | .next u => if u.wentOn gi ti (pc + 8#64) inside then u.members gi ti (pc + 8#64) inside n else none
    | _ => none

/-- The instructions that follow one of FORM 00 in address order. -/
def Ctx.nextTwo (x : Ctx) : List Instr :=
  let at_ (k : Nat) : Option Instr := match ({ x with t := { x.t with pc := x.t.pc + dwordOf (8 * k) } } : Ctx).fetch with
    | .ok i => some i
    | .error _ => none
  match at_ 1, at_ 2 with
  | some i, some j => [i, j]
  | some i, none => [i]
  | none, _ => []

/-- The rest of a sequence that the executing team's instruction begins, made as one operation with it (06 R125): three members where
none of them would trap, two otherwise, and the instruction alone where they would not fuse. `s` is the state of the issue, `u` the
one that the instruction left. -/
def State.fuse (s u : State) (gi ti : Nat) : State :=
  match s.ctx? with
  | none => u
  | some x =>
    match x.fetch, x.nextTwo with
    | .ok i, j :: rest =>
      if fusesTwo i j && u.wentOn gi ti (x.t.pc + 8#64) x.t.inhandler then
        let go (n : Nat) : Option State := u.members gi ti (x.t.pc + 8#64) x.t.inhandler n
        let three := rest.any (fusesThree i j)
        ((if three then go 2 else none) <|> go 1).getD u
      else u
    | _, _ => u

/-! ### The issue -/

/-- A team issues its next instruction, where its slot chooses it (07 R143). -/
def issue (s : State) (gi ti : Nat) : Out :=
  if s.canIssue gi ti && s.contends gi ti then
    let a := s.atIssue gi ti
    mapNext (fun u => (a.fuse u gi ti).afterIssue gi ti) (runBound a)
  else .next s

/-! ### Readiness -/

/-- What a team's instruction would wait for if it were issued next: nothing, where it would issue; `none` where the team cannot issue
now. -/
def State.attempt (s : State) (gi ti : Nat) : Option (Option WaitOn) :=
  if s.canIssue gi ti then
    match runBound (s.atIssue gi ti) with
    | .next u => some (((u.group? gi).bind fun g => g.team? ti).bind Team.wait)
    | _ => none
  else none

/-- The readiness of a team as it stands (07 R143): where its instruction would issue, since when; where it would block, the team is not
ready, and it is tried again unless it already waits for just that. A team that cannot issue now keeps its standing, but one that waits
is not ready, and none of a group that a pre-emption has stopped. -/
def State.markTeam (s : State) (g : Group) (t : Team) : Team :=
  if g.stop then { t with readySince := none }
  else match s.attempt g.gid t.idx with
  | some none => if t.wait.isNone then t else { t with readySince := some (t.readySince.getD (max (s.clockOf g t) t.earliest)) }
  | some (some w) => { t with readySince := none, wait := if t.wait = some w then t.wait else some .again }
  | none => if t.wait.isNone then t else { t with readySince := none }

/-- The readiness of the teams, as it stands after a step. -/
def State.mark (s : State) : State :=
  { s with groups := s.groups.map fun g => { g with teams := g.teams.map (s.markTeam g) } }

/-! ### What moves -/

/-- An access performed apart from its instruction (10 R188, 13 R243, 16 R267, R271; 24 R365 to R367). -/
def State.micro (s : State) : Micro → State
  | .load g t k => s.microLoad g t k
  | .atom g t ea => s.microAtom g t ea
  | .lrset k => s.microLrset k
  | .fill g h k => s.microFill g h k
  | .pre g p k => s.microPre g p k
  | .steps g t n => s.microSteps g t n
  | .late g t => s.microLate g t
  | .fetch g t n => s.microFetch g t n
  | .matB g t k gran => s.microMatB g t k gran
  | .mat g t => s.microMat g t
  | .copyRead c k => s.microCopyRead c k
  | .copyWrite c bs => s.microCopyWrite c bs
  | .peer p w va n d => s.microPeer p w va n d
  | .peerGran i k => s.microPeerGran i k
  | .image l k => s.microImage l k
  | .saveGran l => s.microSave l
  | .serve _ => s

/-- A command in line taken up (22 R348). -/
def State.takeUp (s : State) (k : Nat) : Out :=
  match if s.lineReady k then s.lines[k]? else none with
  | some q => mapNext (fun u => { u with takenUp := none }) (exec q.2 { s with cur := none, takenUp := some q.1 })
  | none => .next s

/-- What has been picked, made. -/
def State.make (s : State) : Pick → Out
  | .team gi ti => mapNext State.mark (issue s gi ti)
  | .ev i => mapNext (fun u => u.afterEvent.mark) (exec i { s with cur := none })
  | .micro (.serve k) => mapNext (fun u => u.afterEvent.mark) (s.takeUp k)
  | .micro m => .next (s.micro m).mark

/-- Time goes on by a reference cycle. -/
def State.pass (s : State) : State := (s.advance (s.cycle + 1)).mark

end Sys2Proof.Machine
end

