-- ==== Sys2Proof/Safety.lean ====
section
/-!
DEFINITION. What counts as a safe run, and the words in which claims are stated: what of the state only the service changes, what
a team reads of its registers at a cycle, and what an instruction leaves of the state.
-/
namespace Sys2Proof.Machine

/-- A state from which the next step is a state. -/
def State.Steps (s : State) : Prop := ∃ s', step s = .next s'

/-- A run of k steps that meets no fault and no refusal. -/
def SafeRun (k : Nat) (s : State) : Prop := ∃ s', Sys2Proof.core.run k s = .next s'

/-- What belongs to the resident service and to time: the page table, the images, the copies, the transfers for peers, the waits, edits and
commands under way, the command taken up, the continuations, the module limit, the responses sent, the page-table log, the measurement
log, the schedule, and the cycle. -/
def State.service (s : State) :=
  (s.pages, s.images, s.copies, s.xfers, s.waits, s.edits, s.queued, s.takenUp, s.conts, s.limit, s.responses, s.pagelog, s.measlog, s.agenda, s.cycle)

/-- What reads of the engines may leave besides what they fetch: pages in the cores' translation caches, their time charged to a launch
(10 R192), and the errors that they have met in main memory, poisoned and logged (10 R193). -/
structure State.Engined (s t : State) : Prop where
  rest : t = { s with
    cores := t.cores, launches := t.launches, fresh := t.fresh, mpois := t.mpois, mbad := t.mbad, errlog := t.errlog }
  core : ∀ d c, t.core d c = { s.core d c with tcache := (t.core d c).tcache }
  launch : ∀ i, t.launch? i = (s.launch? i).map fun l => { l with missing := ((t.launch? i).map Launch.missing).getD l.missing }
  poison : ∀ w, (w ∈ s.mpois → w ∈ t.mpois) ∧ (w ∈ t.mpois → w ∈ s.mpois ∨ w ∈ s.mbad) ∧ (w ∈ t.mbad → w ∈ s.mbad)

/-- Nothing that a save of a group waits for is outstanding in it: no load, no atomic, no result that is not ready, no STALL that has not
elapsed (01 R18, R21, 13 R244). -/
def State.Calm (s : State) (g : Group) : Prop :=
  ∀ t, t ∈ g.teams → t.loads = [] ∧ t.atoms = [] ∧ t.pending (s.clockOf g t) = false ∧
    (t.earliest ≤ s.clockOf g t ∨ (t.wait ≠ none ∧ t.held = none))

/-- A write of a register that the machine has: of none of those of a translated Eceel block that no native register holds
(notes/assumptions/56.md). -/
def RegWrite.Native : RegWrite → Prop
  | .v _ r _ | .p _ r _ | .s r _ => r < virtualBase
  | .flags _ => True

/-- The registers beyond the machine's own stand. -/
def Team.SameVirtual (t u : Team) : Prop := u.vx = t.vx ∧ u.px = t.px ∧ u.sx = t.sx

/-- The sticky flags of a team with the results written that are ready by a cycle (06 R120). -/
def Team.flagsAt (t : Team) (cyc : Nat) : Word :=
  t.pend.foldl (fun acc e => match e.w with
    | .flags f => if e.ready ≤ cyc then acc ||| f else acc
    | _ => acc) t.flags

/-- What a team reads after an instruction: its registers and flags at every cycle, the new results from the cycle on at which
they are ready (01 R18 to R20). `v` and `p` give the new value of a vector register and of a predicate, by lane and number, with the
cycle it is ready at; `s` that of a scalar; `f` the flags set, each with its cycle. Whatever has no new value reads as before. -/
structure Reads (a b : Team) (v : Nat → Nat → Option (Nat × VReg)) (p : Nat → Nat → Option (Nat × PReg))
    (s : Nat → Option (Nat × SReg)) (f : List (Nat × Word)) : Prop where
  vec : ∀ cyc lane r, b.readV cyc lane r = match v lane r with
    | some (c, y) => if c ≤ cyc then y else a.readV cyc lane r
    | none => a.readV cyc lane r
  pred : ∀ cyc lane r, r < 48 → b.readP cyc lane r = match p lane r with
    | some (c, y) => if c ≤ cyc then y else a.readP cyc lane r
    | none => a.readP cyc lane r
  scl : ∀ cyc r, b.readS cyc r = match s r with
    | some (c, y) => if c ≤ cyc then y else a.readS cyc r
    | none => a.readS cyc r
  flag : ∀ cyc, b.flagsAt cyc = f.foldl (fun m e => if e.1 ≤ cyc then m ||| e.2 else m) (a.flagsAt cyc)

/-- Every register and flag reads as before at every cycle. -/
def Reads.same (a b : Team) : Prop := Reads a b (fun _ _ => none) (fun _ _ => none) (fun _ => none) []

namespace Ctx

/-- What an instruction of a team leaves when it touches nothing beyond its team, its group's record and its slot's record: the
group becomes `g` with the team's record `u`; memory, every other group, every launch, every other slot, and all else stands. -/
structure Only (x : Ctx) (t : State) (g : Group) (u : Team) : Prop where
  rest : t = { x.s with groups := t.groups, launches := t.launches, slots := t.slots }
  group : t.group? x.g.gid = some (g.setTeam u)
  groups : ∀ k, k ≠ x.g.gid → t.group? k = x.s.group? k
  launch : ∀ k, t.launch? k = x.s.launch? k
  slot : t.slotOf x.slot = { x.s.slotOf x.slot with nextFree := (t.slotOf x.slot).nextFree, last := (x.s.slotOf x.slot).last.set x.tier x.t.pos }
  slots : ∀ k, k ≠ x.slot → t.slotOf k = x.s.slotOf k

/-- The team's record after an instruction has issued for a number of passes and gone on at an address, the results apart. -/
def passed (x : Ctx) (passes stall : Nat) (pc : DWord) (pend : List Pending) : Team :=
  { x.t with
    pend := pend, pc := pc, busy := x.t.t0 + passes, earliest := x.t.t0 + passes + stall
    readySince := some (x.t.t0 + passes + stall), wait := none, promoted := none, yielding := none, retry := none
    quota := none, late := false, qturn := none }

/-- The group after a lane-guarded instruction: its measures count the lanes selected and the passes (08 R157). -/
def measured (x : Ctx) (n : Nat) : Group :=
  { x.g with meas := { x.g.meas with lanes := x.g.meas.lanes + n, passes := x.g.meas.passes + x.passes } }

/-- No active lane's guard predicate is poisoned (02 R32). -/
def Guarded (x : Ctx) (h : Head) : Prop := ∀ l, l ∈ x.lanes → (x.guardP h l).poi = false

/-- Lane l is one that the guard selects (02 R30). -/
def On (x : Ctx) (h : Head) (l : Nat) : Bool := x.lanes.contains l && (x.guardP h l).val != h.neg

end Ctx

/-- A lane-guarded instruction completes (02 R30, 07 R129): in each lane that the guard selects, `v` and `p` give the registers
that it writes and `fs` the flags that it sets, lane by lane, ready `lat` cycles after the issue of the lane's pass; no other
register, flag, memory byte or part of the state changes, the measures and the team's issue apart. -/
def LanesDone (i : Instr) (x : Ctx) (h : Head) (size lat : Nat) (v : Nat → Nat → Option VReg) (p : Nat → Nat → Option PReg)
    (fs : List (Nat × Word)) : Prop :=
  ∃ t u, exec i x.s = .next t ∧ x.Only t (x.measured (x.sel h).length) u ∧
    u = x.passed x.passes h.stall.toNat (x.t.pc + dwordOf size) u.pend ∧
    Reads x.t u
      (fun l r => if x.On h l then (v l r).map fun y => (x.at_ l + lat, y) else none)
      (fun l r => if x.On h l then (p l r).map fun y => (x.at_ l + lat, y) else none)
      (fun _ => none)
      (fs.map fun f => (x.at_ f.1 + lat, f.2))

/-- A lane-guarded instruction completes whose flags are, in each selected lane, those of `f`. -/
def LaneDone (i : Instr) (x : Ctx) (h : Head) (size lat : Nat) (v : Nat → Nat → Option VReg) (p : Nat → Nat → Option PReg)
    (f : Nat → Word) : Prop := LanesDone i x h size lat v p ((x.sel h).map fun l => (l, f l))

/-- A vector register's new value, and no other's. -/
def oneV (d : BitVec 8) (y : VReg) : Nat → Option VReg := fun r => if r = d.toNat then some y else none

/-- A register pair's new value: the halves, with one poison (02 R29). -/
def pairV (d : BitVec 8) (y : SReg) : Nat → Option VReg := fun r =>
  if r = d.toNat then some { val := y.val.setWidth 32, poi := y.poi }
  else if r = d.toNat + 1 then some { val := y.val.extractLsb' 32 32, poi := y.poi } else none

/-- A predicate's new value; pT takes none (01 R8). -/
def oneP (d : BitVec 8) (y : PReg) : Nat → Option PReg := fun r => if r = d.toNat ∧ r < 48 then some y else none

/-- A run of vector registers' new values with one poison. -/
def runV (d : BitVec 8) (poi : Bool) (ws : List Word) : Nat → Option VReg := fun r =>
  if d.toNat ≤ r then (ws[r - d.toNat]?).map fun w => { val := w, poi := poi } else none

/-- No vector register. -/
def noV : Nat → Nat → Option VReg := fun _ _ => none

/-- No predicate. -/
def noP : Nat → Nat → Option PReg := fun _ _ => none

/-- The register or pair that an integer result goes to (02 R29, 05 R87). -/
def intV (o : VInt) (y : SReg) : Nat → Option VReg :=
  if o.ty.wide then pairV o.d y else oneV o.d { val := y.val.setWidth 32, poi := y.poi }

/-- An integer vector instruction whose exact result in a lane is `r`, brought to the TYPE and saturated where `sat` says so
(05 R87, R88), with the poison `poi` and the flags `fl`. -/
def IntDone (i : Instr) (x : Ctx) (o : VInt) (size lat : Nat) (sat : Bool) (r : Nat → Int) (poi : Nat → Bool) (fl : Nat → Word) : Prop :=
  LaneDone i x o.h size lat (fun l => intV o { val := o.ty.deliver sat (r l), poi := poi l }) noP fl

/-- A floating-point instruction whose result in a lane is the pattern and the flags `r` (06 R113), with the poison `poi`. -/
def FltDone (i : Instr) (x : Ctx) (o : VFlt) (size lat : Nat) (r : Nat → Nat × Word) (poi : Nat → Bool) : Prop :=
  LaneDone i x o.h size lat (fun l => oneV o.d { val := BitVec.ofNat 32 (r l).1, poi := poi l }) noP fun l => (r l).2

/-- A Team-guarded instruction completes (02 R31, 07 R129): one pass, the team going on at `pc`; `s` gives the scalars that it
writes, ready at their cycles, `f` what else of the team's record it changes, and the group becomes `g`; nothing else changes. -/
def TeamDone (i : Instr) (x : Ctx) (stall : BitVec 4) (pc : DWord) (g : Group) (f : Team → Team) (s : Nat → Option (Nat × SReg)) : Prop :=
  ∃ t u, exec i x.s = .next t ∧ x.Only t g u ∧ u = f (x.passed 1 stall.toNat pc u.pend) ∧ Reads x.t u noV' noP' s []
where
  noV' : Nat → Nat → Option (Nat × VReg) := fun _ _ => none
  noP' : Nat → Nat → Option (Nat × PReg) := fun _ _ => none

/-- One scalar's new value, ready two cycles after the issue (01 R18). -/
def oneS (x : Ctx) (d : BitVec 6) (y : SReg) : Nat → Option (Nat × SReg) := fun r =>
  if r = d.toNat then some (x.t.t0 + 2, y) else none

/-- No scalar. -/
def noS : Nat → Option (Nat × SReg) := fun _ => none

/-- A scalar instruction completes with one result (05 R94). -/
def SclDone (i : Instr) (x : Ctx) (o : SOp) (r : DWord) (poi : Bool) : Prop :=
  TeamDone i x o.stall (x.t.pc + dwordOf o.b.size) x.g id (oneS x o.d { val := r, poi := poi })

/-- An instruction completes that changes only what `f` says of the team's record, its issue apart: `passes` passes, and the team
goes on at `pc`. Every register, flag and pending result stands. -/
def GoesOn (i : Instr) (x : Ctx) (passes : Nat) (stall : BitVec 4) (pc : DWord) (f : Team → Team) : Prop :=
  ∃ t, exec i x.s = .next t ∧ x.Only t x.g (f (x.passed passes stall.toNat pc x.t.pend))

/-- The lanes of a list's prefix combination (07 R139): the operand of the last head and of what follows it, combined in order. -/
def prefixOf (x : Ctx) (o : XLane) (ls : List Nat) : VReg :=
  (ls.foldl (fun (acc : Option VReg) l =>
    let a := x.v l o.a.toNat
    match acc with
    | none => some a
    | some v =>
      if (x.headP o l).val then some a
      else some { val := (scanOp (Ctx.scanTy o) o.sub (tctlRm x.t.tctl) v.val a.val).1, poi := v.poi || a.poi }) none).getD
    { val := 0#32, poi := false }

/-- The team commit that an instruction of `size` bytes makes first (11 R200) is made, giving y. -/
def Ctx.CommitsTo (x : Ctx) (size : Nat) (y : Ctx) : Prop := x.teamCommit (some (x.t.pc + dwordOf size)) = .ok y

/-- The team gone on after an instruction of one pass. -/
def Ctx.wentOn (y : Ctx) (size : Nat) (stall : BitVec 4) : State :=
  ({ y with
    s := y.s.setSlot y.slot { y.s.slotOf y.slot with nextFree := y.t.t0 + 1, last := (y.s.slotOf y.slot).last.set y.tier y.t.pos }
    t := y.passed 1 stall.toNat (y.t.pc + dwordOf size) y.t.pend } : Ctx).save

/-- The team left waiting, not ready: nothing of its instruction has happened but what y says (07 R143). A wait for pending results
lasts until they are all ready (01 R18). -/
def Ctx.waiting (y : Ctx) (w : WaitOn) : State :=
  ({ y with t := { y.t with
    wait := some w, readySince := none
    earliest := if w = .result then max y.t.earliest (y.t.pend.foldl (fun m e => max m e.ready) 0) else y.t.earliest } } : Ctx).save

/-- The group after a memory access: its measures, its bank conflicts and its moved bytes. -/
def Ctx.accessed (x : Ctx) (lanes conf bytes : Nat) : Group :=
  { x.measured lanes with bkconf := conf, meas := { (x.measured lanes).meas with bytes := bytes } }

/-- A load completes: it is in flight on the path (01 R22), its registers those of the access, with the lanes `todo` still to be performed
and the values `ws` taken; nothing else of the machine has changed but the measures. -/
def LoadDone (i : Instr) (x : Ctx) (o : MemOp) (path : Path) (todo : List LoadPart) (ws : List RegWrite) : Prop :=
  ∃ t u conf bytes, exec i x.s = .next t ∧ x.Only t (x.accessed (x.sel o.h).length conf bytes) u ∧
    u = { x.passed x.passes o.h.stall.toNat (x.t.pc + dwordOf o.off.size) x.t.pend with
      loads := x.t.loads ++
        [{ path := path, dst := (List.range o.size.regs).map fun j => o.r.toNat + j, todo := todo, ws := ws }] }

/-- A lane's part of a load of n bytes at an address of a storage: the bytes that its team's own buffer holds are taken at the issue
(05 R107; 10 R188, step 1), the others are still to be read. -/
def Ctx.pending (x : Ctx) (o : MemOp) (sp : Space) (lane a : Nat) : LoadPart :=
  { lane := lane, r := o.r.toNat, sx := o.sx, sp := sp, a := a
    own := (List.range o.size.bytes).map fun i => x.t.bufByte sp (a + i) }

/-- None of a team's atomics that are still to be served lies, one of .g in the lane itself, one of .t in any lane, on the bytes of a window
access: a list of lanes, each with its address and its number of bytes (05 R107, 24 R365). -/
def Ctx.Clear (x : Ctx) (sp : Space) (acc : List (Nat × Nat × Nat)) : Prop :=
  ∀ q, q ∈ x.t.atoms → ∀ l, l ∈ q.todo → ∀ p, p ∈ acc → (q.scope = .t ∨ p.1 = l.lane) → ∀ i, i < p.2.2 →
    x.atomHit q.scope l.ea sp (p.2.1 + i) = false

/-- No .t atomic of the team that is still to be served lies on the bytes of a window store (05 R107). -/
def Ctx.ClearStore (x : Ctx) (sp : Space) (acc : List (Nat × Nat × Nat)) : Prop :=
  ∀ q, q ∈ x.t.atoms → q.scope = .t → ∀ l, l ∈ q.todo → ∀ p, p ∈ acc → ∀ i, i < p.2.2 → x.atomHit q.scope l.ea sp (p.2.1 + i) = false

/-- A store completes: the team's buffer is `buf`, and nothing else of the machine has changed but the measures. -/
def StoreDone (i : Instr) (x : Ctx) (o : MemOp) (buf : List Entry) : Prop :=
  ∃ t conf bytes, exec i x.s = .next t ∧ x.Only t (x.accessed (x.sel o.h).length conf bytes)
    { x.passed x.passes o.h.stall.toNat (x.t.pc + dwordOf o.off.size) x.t.pend with buf := buf }

/-- What a byte of a storage reads as after stores of z bytes in ascending lane order (11 R197): the data of the last lane that covers
it. -/
def storedByte (lanes : List Nat) (z : Nat) (addr : Nat → Nat) (data : Nat → List Byte) (before : Nat → Option Byte) (a : Nat) : Option Byte :=
  lanes.foldl (fun v l => if addr l ≤ a ∧ a < addr l + z then (data l)[a - addr l]? else v) (before a)

/-- No command of a command's session stands in line (22 R348, Order). -/
def State.idle (s : State) (h : CmdHead) : Prop :=
  (∀ j, j ∈ s.queued → sessionOf j.cmd ≠ h.session) ∧ ∀ e, e ∈ s.edits → sessionOf e.cmd ≠ h.session

/-- A host command that arrives, whose turn has come, and that its header and the limits let through (22 R346, R348). -/
def State.takes (s : State) (h : CmdHead) : Prop :=
  h.rsv = 0 ∧ h.status = 0 ∧ h.len.toNat ≤ 65504 ∧ s.tooMany h = false ∧ s.takenUp = none ∧ s.idle h

/-- The response to a command (22 R346). -/
def resp (h : CmdHead) (cmd : BitVec 8) (st : Status) (body : List Byte) : Response :=
  { session := h.session, tag := h.tag, cmd := cmd, status := st, body := body }

/-- A command is answered and does nothing else (22 R346, R347). -/
def Answered (i : Instr) (s : State) (h : CmdHead) (cmd : BitVec 8) (st : Status) : Prop :=
  exec i s = .next { s with responses := s.responses ++ [resp h cmd st []] }

/-- What a team reads after writes of its registers have been delivered (01 R20, R22): a register that they write reads the value
at every cycle, any other as before. -/
def Delivered (t u : Team) (ws : List RegWrite) : Prop :=
  (∀ l r y, RegWrite.v l r y ∈ ws → r < 256 → (∀ z, RegWrite.v l r z ∈ ws → z = y) → ∀ cyc, u.readV cyc l r = y) ∧
  ∀ l r, r < 256 → (∀ y, RegWrite.v l r y ∉ ws) → ∀ cyc, u.readV cyc l r = t.readV cyc l r

end Sys2Proof.Machine
end

