-- ==== Sys2Proof/Certificates/Slice0/Obligations.lean ====
section
/-!
DEFINITION. The statements for the provers.
-/
open Sys2Proof Sys2Proof.Machine

/-! ### Lane-guarded instructions: results, completion and frame -/

/-- The arithmetic of the integer vector class (05 R87, R88): every instruction completes in every state in which the guard predicate of
no active lane is poisoned, each selected lane's result being the exact one brought to the TYPE, ready 4 or 6 cycles after its pass (01
R18); LaneDone says what else stands. -/
def Obligations.IntegerArithmetic : Prop :=
  ∀ (x : Ctx) (o : VInt), x.s.ctx? = some x → x.Guarded o.h →
    let a := fun l => x.vAt l o.ty.wide o.a
    let b := fun l => x.bAt l o.ty.wide o.b
    let c := fun l => x.vAt l o.ty.wide o.c
    let A := fun l => o.ty.int (a l).val
    let B := fun l => o.ty.int (b l).val
    let C := fun l => o.ty.int (c l).val
    let S := fun l => o.ty.sint (b l).val
    let one := fun i r => IntDone i x o 8 4 o.sat r (fun l => (a l).poi) fun _ => 0#32
    let two := fun i lat sat r => IntDone i x o o.b.size lat sat r (fun l => (a l).poi || (b l).poi) fun _ => 0#32
    two (.iadd o) 4 o.sat (fun l => A l + B l) ∧
    two (.isub o) 4 o.sat (fun l => A l - B l) ∧
    two (.imul o) 6 o.sat (fun l => A l * B l) ∧
    two (.imulh o) 6 o.sat (fun l => A l * B l / 2 ^ o.ty.width) ∧
    two (.iadd64 o) 4 o.sat (fun l => A l + B l) ∧
    two (.isub64 o) 4 o.sat (fun l => A l - B l) ∧
    two (.imin o) 4 o.sat (fun l => min (A l) (B l)) ∧
    two (.imax o) 4 o.sat (fun l => max (A l) (B l)) ∧
    one (.iabs o) (fun l => max (A l) (-A l)) ∧
    one (.ineg o) (fun l => -A l) ∧
    two (.iaddsat o) 4 true (fun l => A l + S l) ∧
    two (.isubsat o) 4 true (fun l => A l - S l) ∧
    IntDone (.imad o) x o o.b.size 6 o.sat (fun l => A l * B l + C l) (fun l => (a l).poi || (b l).poi || (c l).poi) fun _ => 0#32

/-- The bitwise instructions, the shifts and the bit fields (05 R88 to R90): a shift's count and a field's control are one 32-bit value,
even where the TYPE is 64 bits wide. -/
def Obligations.IntegerLogic : Prop :=
  ∀ (x : Ctx) (o : VInt), x.s.ctx? = some x → x.Guarded o.h →
    let a := fun l => x.vAt l o.ty.wide o.a
    let b := fun l => x.bAt l o.ty.wide o.b
    let c := fun l => x.vAt l o.ty.wide o.c
    let k := fun l => (x.b32 l o.b).val.toNat
    let P := fun l => o.ty.pat (a l).val
    let w := o.ty.width
    let two := fun i r => IntDone i x o o.b.size 4 o.sat r (fun l => (a l).poi || (b l).poi) fun _ => 0#32
    let cnt := fun i r => IntDone i x o o.b.size 4 o.sat r (fun l => (a l).poi || (x.b32 l o.b).poi) fun _ => 0#32
    two (.and o) (fun l => ((a l).val &&& (b l).val).toInt) ∧
    two (.or o) (fun l => ((a l).val ||| (b l).val).toInt) ∧
    two (.xor o) (fun l => ((a l).val ^^^ (b l).val).toInt) ∧
    two (.andn o) (fun l => ((a l).val &&& ~~~(b l).val).toInt) ∧
    IntDone (.not o) x o 8 4 o.sat (fun l => (~~~(a l).val).toInt) (fun l => (a l).poi) (fun _ => 0#32) ∧
    cnt (.shl o) (fun l => if o.sat then o.ty.int (a l).val * 2 ^ min (k l) 64 else if w ≤ k l then 0 else (P l * 2 ^ k l % 2 ^ w : Nat)) ∧
    cnt (.shr o) (fun l => if w ≤ k l then 0 else (P l / 2 ^ k l : Nat)) ∧
    cnt (.sar o) (fun l => sInt w (P l) / 2 ^ min (k l) w) ∧
    cnt (.rol o) (fun l => (P l * 2 ^ (k l % w) % 2 ^ w + P l / 2 ^ (w - k l % w) : Nat)) ∧
    cnt (.bfx o) (fun l => bfxPat w o.ty.signed (P l) (k l)) ∧
    IntDone (.bfi o) x o o.b.size 4 o.sat (fun l => bfiPat w (P l) (b l).val.toNat (o.ty.pat (c l).val))
      (fun l => (a l).poi || (b l).poi || (c l).poi) fun _ => 0#32

/-- The counts, the selections, the comparisons and the dot products of the integer vector class (05 R88, R91 to R93): idot8 alone sets a
flag, NRC for a reserved code (04 R69); icmp writes a predicate; sel's predicate poisons its result. -/
def Obligations.IntegerSelect : Prop :=
  ∀ (x : Ctx) (o : VInt), x.s.ctx? = some x → x.Guarded o.h →
    let a := fun l => x.vAt l o.ty.wide o.a
    let b := fun l => x.bAt l o.ty.wide o.b
    let c := fun l => x.vAt l o.ty.wide o.c
    let p := fun l => x.p l o.c.toNat
    let A := fun l => o.ty.int (a l).val
    let B := fun l => o.ty.int (b l).val
    let C := fun l => o.ty.int (c l).val
    let P := fun l => o.ty.pat (a l).val
    let w := o.ty.width
    let ab := fun l => (a l).poi || (b l).poi
    let abc := fun l => (a l).poi || (b l).poi || (c l).poi
    let one := fun i (r : Nat → Nat) => IntDone i x o 8 4 o.sat (fun l => r l) (fun l => (a l).poi) fun _ => 0#32
    one (.popc o) (fun l => popN w (P l)) ∧
    one (.clz o) (fun l => w - bitLen (P l)) ∧
    one (.ctz o) (fun l => ctzN w (P l)) ∧
    one (.brev o) (fun l => revN w (P l)) ∧
    IntDone (.sel o) x o o.b.size 4 false (fun l => if (p l).val then (a l).val.toInt else (b l).val.toInt)
      (fun l => ab l || (p l).poi) (fun _ => 0#32) ∧
    LaneDone (.icmp o) x o.h o.b.size 4 noV (fun l => oneP o.d { val := icmpHolds o.sub (A l) (B l), poi := ab l }) (fun _ => 0#32) ∧
    (o.sub = 1#3 → IntDone (.clamp o) x o o.b.size 4 o.sat (fun l => min (max (A l) (-B l)) (B l)) ab fun _ => 0#32) ∧
    (o.sub ≠ 1#3 → IntDone (.clamp o) x o o.b.size 4 o.sat (fun l => min (max (A l) (B l)) (C l)) abc fun _ => 0#32) ∧
    IntDone (.idot4 o) x o o.b.size 6 o.sat (fun l => C l + idot4Sum o.sub (a l).val (b l).val) abc (fun _ => 0#32) ∧
    IntDone (.idot8 o) x o o.b.size 6 o.sat (fun l => C l + idot8Sum (a l).val (b l).val) abc
      (fun l => if idot8Nrc (a l).val (b l).val then 0x100#32 else 0#32) ∧
    IntDone (.srshr o) x o o.b.size 4 o.sat
      (fun l => srshrInt (if o.ty.signed then ITy.s32.int (a l).val else ITy.n32.int (a l).val) ((b l).val.toNat % 64)) ab fun _ => 0#32

/-- The floating-point instructions (06 R113 to R119): each completes, its result and its flags in a lane being those of the format's
operation on the patterns of the TYPE, under the instruction's rounding mode or RM; the special functions, on the f32 pattern, are ready
12 cycles after their pass; of the five approximated ones (fexp2, flog2, fsin, fcos, ftanh) and of frsq it says which function of the
operand is delivered, whatever the device's own choice (Config.approx, notes/assumptions/2.md) is, and no more of its value. -/
def Obligations.FloatArithmetic : Prop :=
  ∀ (x : Ctx) (o : VFlt), x.s.ctx? = some x → x.Guarded o.h →
    let f := o.ty.ff
    let m := x.mode o.rnd
    let a := fun l => x.v l o.a.toNat
    let b := fun l => x.bFlt l o.ty false o.b
    let q := fun l => x.bFlt l o.ty true o.b
    let c := fun l => x.v l o.c.toNat
    let A := fun l => o.ty.pat (a l).val
    let B := fun l => o.ty.pat (b l).val
    let ab := fun l => (a l).poi || (b l).poi
    let aq := fun l => (a l).poi || (q l).poi
    let two := fun i (r : Nat → Nat × Word) => FltDone i x o o.b.size 6 r ab
    let one := fun i (r : Nat → Nat × Word) => FltDone i x o 8 6 r fun l => (a l).poi
    let special := fun i (r : Nat → Nat × Word) => FltDone i x o 8 12 (fun l => r (A l)) fun l => (a l).poi
    let pack := fun i (r : Nat → Nat → Nat × Word) poi =>
      LaneDone i x o.h o.b.size 6 (fun l => oneV o.d { val := BitVec.ofNat 32 ((r l 0).1 + (r l 1).1 * 65536), poi := poi l }) noP
        fun l => (r l 0).2 ||| (r l 1).2
    two (.fadd o) (fun l => f.add m (A l) (B l)) ∧
    two (.fsub o) (fun l => f.sub m (A l) (B l)) ∧
    two (.fmul o) (fun l => f.mul m (A l) (B l)) ∧
    FltDone (.ffma o) x o o.b.size 6 (fun l => f.fma m (A l) (B l) (o.ty.pat (c l).val)) (fun l => ab l || (c l).poi) ∧
    two (.fmin o) (fun l => f.minmax true (A l) (B l)) ∧
    two (.fmax o) (fun l => f.minmax false (A l) (B l)) ∧
    one (.fabs o) (fun l => (A l % f.signBit, 0#32)) ∧
    one (.fneg o) (fun l => (A l ^^^ f.signBit, 0#32)) ∧
    one (.fclass o) (fun l => (f.classify (A l), 0#32)) ∧
    special (.frcp o) (frcpBits m) ∧ special (.fsqrt o) (fsqrtBits m) ∧ special (.frsq o) frsqBits ∧
    special (.fexp2 o) fexp2Bits ∧ special (.flog2 o) flog2Bits ∧ special (.fsin o) (ftrigBits false) ∧
    special (.fcos o) (ftrigBits true) ∧ special (.ftanh o) ftanhBits ∧
    LaneDone (.fcmp o) x o.h o.b.size 6 noV (fun l => oneP o.d { val := (f.cmp o.sub (A l) (B l)).1, poi := ab l })
      (fun l => (f.cmp o.sub (A l) (B l)).2) ∧
    pack (.hadd2 o) (fun l j => f.add m (half j (a l).val) (half j (q l).val)) aq ∧
    pack (.hmul2 o) (fun l j => f.mul m (half j (a l).val) (half j (q l).val)) aq ∧
    pack (.hfma2 o) (fun l j => f.fma m (half j (a l).val) (half j (q l).val) (half j (c l).val)) (fun l => aq l || (c l).poi) ∧
    LaneDone (.pchk o) x o.h 8 4 noV
      (fun l => oneP o.d
        { val := if o.sub = 0#2 then (a l).poi else if o.sub = 1#2 then (x.p l o.a.toNat).poi else (x.scAt l (o.a.toNat % 64)).poi
          poi := false }) fun _ => 0#32

/-- The conversions and the packed forms of q4 and of bytes (06 R121 to R124): each completes, writing the register or the run that its
form names; a run of sources poisons every result. -/
def Obligations.Conversions : Prop :=
  ∀ (x : Ctx) (o : VCvt), x.s.ctx? = some x → x.Guarded o.h →
    let run := fun n l => (List.range n).map fun j => x.v l (o.a.toNat + j)
    let bad := fun n l => (run n l).any VReg.poi
    let a := fun l => x.v l o.a.toNat
    let b := fun l => x.b32 l o.b
    let pack := fun bits (vs : List Nat) => BitVec.ofNat 32 ((List.range vs.length).foldl (fun n j => n + (vs[j]?).getD 0 * 2 ^ (bits * j)) 0)
    let all := fun (fs : List Word) => fs.foldl (· ||| ·) 0#32
    (∀ src, o.src = some src →
      let v := fun l => x.vAt l src.wide o.a
      let r := fun l => convertVal src o.fmt (x.mode o.rnd) (v l).val
      let y := fun l => ({ val := (r l).1, poi := (v l).poi } : SReg)
      LaneDone (.cvt o) x o.h 8 6
        (fun l => if o.fmt.wide then pairV o.d (y l) else oneV o.d { val := (y l).val.setWidth 32, poi := (y l).poi }) noP
        (fun l => (r l).2)) ∧
    (let r := fun l => (run 8 l).map fun v => q4Quant ((b l).val.toNat % 256 / 64) ((b l).val.toNat % 256 % 64) v.val.toNat
     LaneDone (.qpack4 o) x o.h 8 6 (fun l => oneV o.d { val := pack 4 ((r l).map Prod.fst), poi := bad 8 l || (b l).poi }) noP
       fun l => all ((r l).map Prod.snd)) ∧
    (let r := fun l => (List.range 8).map fun j => q4Unpack ((b l).val.toNat % 256) ((a l).val.toNat / 2 ^ (4 * j) % 16)
     LaneDone (.qunpack4 o) x o.h 8 6 (fun l => runV o.d ((a l).poi || (b l).poi) ((r l).map fun q => BitVec.ofNat 32 q.1)) noP
       fun l => all ((r l).map Prod.snd)) ∧
    (let r := fun l => scalePick (o.c.toNat % 4) ((run 32 l).map fun v => v.val.toNat)
     LaneDone (.scalepick o) x o.h 8 6 (fun l => oneV o.d { val := BitVec.ofNat 32 (r l).1, poi := bad 32 l }) noP fun l => (r l).2) ∧
    (∀ src, o.src = some src →
      let r := fun l => (run 4 l).map fun v => convertVal src o.fmt .rna (v.val.setWidth 64)
      LaneDone (.cvt8x4 o) x o.h 8 6
        (fun l => oneV o.d { val := pack 8 ((r l).map fun q => q.1.toNat % 256), poi := bad 4 l }) noP fun l => all ((r l).map Prod.snd)) ∧
    (∀ src, o.src = some src →
      let r := fun l => (List.range 4).map fun j => convertVal src o.fmt .rne (BitVec.ofNat 64 ((a l).val.toNat / 2 ^ (8 * j) % 256))
      LaneDone (.cvtq o) x o.h 8 6 (fun l => runV o.d (a l).poi ((r l).map fun q => q.1.setWidth 32)) noP
        fun l => all ((r l).map Prod.snd))

/-- The cross-lane instructions but scan and reduce (07 R136 to R138): each completes where no operand that R136 names is poisoned, every
selected lane's result being taken from the selected lanes of its segment. Two points are the model's choice: the lanes whose poison
reaches the result of match.lead (the whole segment's) and of match.mask (those of the lane's word), notes/assumptions/11.md, and that
shfl reads register a of every lane at its first pass, notes/assumptions/39.md. -/
def Obligations.CrossLane : Prop :=
  ∀ (x : Ctx) (o : XLane), x.s.ctx? = some x → x.Guarded o.h →
    let lanes := x.sel o.h
    let seg := fun l => lanes.filter fun k => segLo o.seg.toNat k == segLo o.seg.toNat l
    let a := fun l => x.v l o.a.toNat
    let b := fun l => x.b32 l o.b
    let p := fun l => x.p l o.a.toNat
    let bad := fun (ls : List Nat) => ls.any fun k => (p k).poi
    let vec := fun i (y : Nat → VReg) => LanesDone i x o.h o.b.size 8 (fun l => oneV o.d (y l)) noP (lanes.map fun l => (l, 0#32))
    let pred := fun i (y : Nat → PReg) => LanesDone i x o.h o.b.size 8 noV (fun l => oneP o.d (y l)) (lanes.map fun l => (l, 0#32))
    let word := fun q (ls : List Nat) (f : Nat → Bool) => Ctx.wordWhere q ls f
    ((∀ l, l ∈ lanes → (b l).poi = false) →
      vec (.shfl o) fun l => x.t.readV x.t.t0 (shflLane o.sub o.seg.toNat x.w l (b l).val.toNat) o.a.toNat) ∧
    ((o.sub = 1#3 → ∀ l, l ∈ lanes → (b l).poi = false) →
      let q := fun l => if o.sub = 1#3 then (b l).val.toNat else l / 32
      vec (.ballot o) fun l =>
        if x.w / 32 ≤ q l then { val := 0#32, poi := false }
        else { val := word (q l) lanes fun k => (p k).val, poi := bad (lanes.filter fun k => k / 32 == q l) }) ∧
    pred (.vote o) (fun l =>
      let vs := (seg l).map fun k => (p k).val
      { val := if o.sub = 0#3 then vs.any id else if o.sub = 1#3 then vs.all id else vs.all id || !vs.any id, poi := bad (seg l) }) ∧
    vec (.popm o) (fun l =>
      let ls := (seg l).filter fun k => o.sub != 1#3 || decide (k < l)
      { val := BitVec.ofNat 32 (ls.filter fun k => (p k).val).length, poi := bad ls }) ∧
    (o.sub = 1#3 → pred (.matchOp o) fun l =>
      { val := (seg l).all fun k => !(decide (k < l) && (a k).val == (a l).val), poi := (seg l).any fun k => (a k).poi }) ∧
    (o.sub ≠ 1#3 → vec (.matchOp o) fun l =>
      let ws := (seg l).filter fun k => k / 32 == l / 32
      { val := word (l / 32) ws fun k => (a k).val == (a l).val, poi := (a l).poi || ws.any fun k => (a k).poi }) ∧
    pred (.elect o) (fun l => { val := (seg l).head? == some l, poi := false }) ∧
    vec (.lmask o) (fun l =>
      let n := l % 32
      { val :=
          if o.sub = 0#3 then BitVec.ofNat 32 (2 ^ n - 1)
          else if o.sub = 1#3 then BitVec.ofNat 32 (2 ^ (n + 1) - 1)
          else if o.sub = 2#3 then ~~~(BitVec.ofNat 32 (2 ^ (n + 1) - 1))
          else if o.sub = 3#3 then ~~~(BitVec.ofNat 32 (2 ^ n - 1))
          else if o.sub = 4#3 then BitVec.ofNat 32 (2 ^ n)
          else maskWord x.t.mask (l / 32)
        poi := false })

/-- scan and reduce (07 R139): a lane of scan receives the combination, in ascending lane order, of the selected lanes of its segment from
its run's head up to itself; a lane of reduce that of its whole run; each lane sets the flags of its own combination with the run before
it, none where it begins a run; and, or and xor of TYPE f32 raise RESERVED_FIELD. -/
def Obligations.ScanReduce : Prop :=
  ∀ (x : Ctx) (o : XLane), x.s.ctx? = some x → x.Guarded o.h → (∀ l, l ∈ x.sel o.h → (x.headP o l).poi = false) →
    let seg := fun l => (x.sel o.h).filter fun k => segLo o.seg.toNat k == segLo o.seg.toNat l
    let flag := fun l =>
      let before := (seg l).filter fun k => decide (k < l)
      if before = [] ∨ (x.headP o l).val = true then 0#32
      else (scanOp (Ctx.scanTy o) o.sub (tctlRm x.t.tctl) (prefixOf x o before).val (x.v l o.a.toNat).val).2
    LaneDone (.scan o) x o.h o.b.size 8 (fun l => oneV o.d (prefixOf x o ((seg l).filter fun k => decide (k ≤ l)))) noP flag ∧
    LaneDone (.reduce o) x o.h o.b.size 8
      (fun l => oneV o.d (prefixOf x o ((seg l).filter fun k =>
        (seg l).all fun j => !((x.headP o j).val && decide (l < j) && decide (j ≤ k))))) noP flag ∧
    ∀ (w e : DWord) (odd : Bool), w.extractLsb' 54 10 = 0x0E4#10 ∨ w.extractLsb' 54 10 = 0x0E5#10 → w.extractLsb' 48 2 = 0#2 →
      w.extractLsb' 17 3 = 2#3 → w.extractLsb' 4 3 = 3#3 ∨ w.extractLsb' 4 3 = 4#3 ∨ w.extractLsb' 4 3 = 5#3 →
      decodeWords w e odd = .error .reservedField

/-- The scalar ALU (05 R94, R95): each instruction completes in every state, its result exact modulo 2^64, ready two cycles after the
issue. A count of 64 or more shifts every bit out; ssar with SUB 1 reads the count as signed. sli places IMM as its SUB says (R95): a word
of its opcode is sli where it is of FORM 01 and every field that R95 does not name is 0, SUB below 4, and raises RESERVED_FIELD otherwise.
-/
def Obligations.ScalarArithmetic : Prop :=
  ∀ (x : Ctx) (o : SOp), x.s.ctx? = some x →
    let a := x.sc o.a.toNat
    let b := x.sB o.b
    let c := x.sc o.c.toNat
    let two := fun i r => SclDone i x o r (a.poi || b.poi)
    let k := b.val.toNat
    two (.sadd o) (a.val + b.val) ∧ two (.ssub o) (a.val - b.val) ∧ two (.smul o) (a.val * b.val) ∧
    SclDone (.smad o) x o (a.val * b.val + c.val) (a.poi || b.poi || c.poi) ∧
    two (.sand o) (a.val &&& b.val) ∧ two (.sor o) (a.val ||| b.val) ∧ two (.sxor o) (a.val ^^^ b.val) ∧
    two (.sshl o) (if 64 ≤ k then 0#64 else a.val <<< k) ∧
    two (.sshr o) (if 64 ≤ k then 0#64 else a.val >>> k) ∧
    two (.ssar o) (if o.sub = 1#3 ∧ b.val.toInt < 0 then (if 64 ≤ (-b.val).toNat then 0#64 else a.val <<< (-b.val).toNat)
      else a.val.sshiftRight (min k 63)) ∧
    two (.smin o) (if (if o.sub = 1#3 then a.val.toNat < b.val.toNat else a.val.toInt < b.val.toInt) then a.val else b.val) ∧
    two (.smax o) (if (if o.sub = 1#3 then a.val.toNat < b.val.toNat else a.val.toInt < b.val.toInt) then b.val else a.val) ∧
    two (.scmp o) (if (if o.sub = 0#3 then a.val = b.val else if o.sub = 1#3 then a.val ≠ b.val
        else if o.sub = 2#3 then a.val.toInt < b.val.toInt else if o.sub = 3#3 then b.val.toInt ≤ a.val.toInt
        else if o.sub = 4#3 then a.val.toNat < b.val.toNat else b.val.toNat ≤ a.val.toNat) then 1#64 else 0#64) ∧
    SclDone (.smov o) x o b.val b.poi ∧
    ∀ (stall : BitVec 4) (d : BitVec 6) (imm : Word),
      let old := x.sc d.toNat
      let put := fun sub y => TeamDone (.sli stall sub d imm) x stall (x.t.pc + 16#64) x.g id (oneS x d y)
      put 0#2 { val := (old.val.extractLsb' 32 32) ++ imm, poi := old.poi } ∧
      put 1#2 { val := imm ++ (old.val.extractLsb' 0 32), poi := old.poi } ∧
      put 2#2 { val := imm.signExtend 64, poi := false } ∧ put 3#2 { val := imm.setWidth 64, poi := false } ∧
      ∀ (w e : DWord), w.extractLsb' 54 10 = 0x0AE#10 →
        (∀ odd, w.extractLsb' 48 2 = 0#2 → decodeWords w e odd = .error .reservedField) ∧
        (w.extractLsb' 48 2 = 1#2 → decodeWords w e false =
          if w.extractLsb' 47 1 = 0#1 ∧ w.extractLsb' 41 6 = 63#6 ∧ w.extractLsb' 39 2 = 0#2 ∧ w.extractLsb' 6 27 = 0#27 ∧
              w.extractLsb' 0 4 = 0#4 ∧ e.extractLsb' 32 32 = 0#32 then
            .ok (.sli (w.extractLsb' 50 4) (w.extractLsb' 4 2) (w.extractLsb' 33 6) (e.extractLsb' 0 32))
          else .error .reservedField)

/-- The special registers and the moves between scalars and lanes (05 R96, R97; 01 R12, R13): sget of every selector that 01 R14 lists,
with the value that R14, 08 R152 (the coordinates) and 12 R233 (%cfront) give it; that %cutno reads 0 in a record group is the model's
choice (notes/assumptions/43.md) and is not stated; sset of %flags clears each flag whose bit is 1, GCONF for the whole group, and of
%tctl takes a value with no reserved bit; vbcast and vlane. -/
def Obligations.ScalarMoves : Prop :=
  ∀ (x : Ctx) (stall : BitVec 4), x.s.ctx? = some x →
    let next := x.t.pc + 8#64
    let n64 := fun n : Nat => BitVec.ofNat 64 n
    let digit := fun (l d : Nat) =>
      let q := if x.t.stage = 0 then x.t.idx * x.w + l else l
      let rk := if x.g.isRec = true then 1 else x.c.rank
      let p := ((List.range d).map fun j => nth x.g.ext j 1).foldl (fun a b => a * b) 1
      if rk ≤ d then 0 else if d + 1 = rk then q / p else q / p % nth x.g.ext d 1
    let crd := fun d l => BitVec.ofNat 32 (nth x.g.org d + digit l d)
    let front := if x.c.ordered = true then (x.l.front[x.g.die]?).getD Key.none else BitVec.allOnes 128
    (∀ d : BitVec 8, x.g.isRec = true ∨ 1 ≤ x.c.rank → x.g.ext.length = 4 →
      ∀ r, r ∈ ([(0x00#8, fun l => BitVec.ofNat 32 l), (0x08#8, crd 0), (0x09#8, crd 1), (0x0A#8, crd 2), (0x0B#8, crd 3),
        (0x31#8, fun l => if x.t.frame.lanes.getLsbD l then 1#32 else 0#32)] : List (BitVec 8 × (Nat → Word))) →
      ∃ t u, exec (.sget stall d r.1) x.s = .next t ∧ x.Only t x.g u ∧ u = x.passed 1 stall.toNat next u.pend ∧
        Reads x.t u (fun l k => if l ∈ x.lanes ∧ k = d.toNat then
            some (x.t.t0 + 2, { val := r.2 l, poi := false }) else none) (fun _ _ => none) noS []) ∧
    (∀ d : BitVec 8, ∀ r, r ∈ ([(0x01#8, n64 x.t.idx), (0x02#8, n64 (x.c.pointTeams x.g)), (0x03#8, n64 (32 * (x.c.wid + 1))),
        (0x04#8, n64 x.t.stage),
        (0x0C#8, n64 (nth x.g.org 0)), (0x0D#8, n64 (nth x.g.org 1)), (0x0E#8, n64 (nth x.g.org 2)), (0x0F#8, n64 (nth x.g.org 3)),
        (0x10#8, n64 (nth x.g.ext 0 1)), (0x11#8, n64 (nth x.g.ext 1 1)), (0x12#8, n64 (nth x.g.ext 2 1)), (0x13#8, n64 (nth x.g.ext 3 1)),
        (0x18#8, n64 x.g.vol), (0x1A#8, x.g.ts), (0x20#8, n64 x.g.core), (0x21#8, n64 x.g.die), (0x22#8, n64 x.t.slot),
        (0x23#8, n64 x.s.cycle), (0x28#8, (x.t.flags ||| if x.g.gconf = true then 0x400#32 else 0#32).setWidth 64),
        (0x29#8, x.t.tctl.setWidth 64), (0x2A#8, n64 (min x.g.bkconf (2 ^ 32 - 1))), (0x30#8, x.t.frame.cause.setWidth 64),
        (0x32#8, x.t.frame.addr), (0x33#8, x.t.frame.pc)] ++
        (if x.g.isRec = true then [] else [(0x1C#8, n64 x.g.cutno), (0x14#8, n64 (nth x.c.space 0 1)), (0x15#8, n64 (nth x.c.space 1 1)),
          (0x16#8, n64 (nth x.c.space 2 1)), (0x17#8, n64 (nth x.c.space 3 1))]) : List (BitVec 8 × DWord)) →
      TeamDone (.sget stall d r.1) x stall next x.g id fun k =>
        if k = d.toNat then some (x.t.t0 + 2, { val := r.2, poi := false }) else none) ∧
    (∀ d : BitVec 8, ∀ r, r ∈ [(0x19#8, x.g.key), (0x1B#8, front)] →
      TeamDone (.sget stall d r.1) x stall next x.g id fun k =>
        if k = d.toNat then some (x.t.t0 + 2, { val := r.2.extractLsb' 0 64, poi := false })
        else if k = d.toNat + 1 then some (x.t.t0 + 2, { val := r.2.extractLsb' 64 64, poi := false }) else none) ∧
    (∀ b v, x.sB b = { val := v, poi := false } → (v.setWidth 32) &&& ~~~Flag.all = 0#32 →
      ∃ t u, exec (.sset stall 0x28#8 b) x.s = .next t ∧
        x.Only t { x.g with gconf := x.g.gconf && !(v.getLsbD 10) } u ∧
        u = { x.passed 1 stall.toNat next x.t.pend with flags := x.t.flags &&& ~~~(v.setWidth 32) }) ∧
    (∀ b v, x.sB b = { val := v, poi := false } → (v.setWidth 32 : Word).toNat < 16 → (v.extractLsb' 0 3).toNat ≤ 4 →
      GoesOn (.sset stall 0x29#8 b) x 1 stall next fun u => { u with tctl := v.setWidth 32 }) ∧
    (∀ o : VBcast, x.Guarded o.h →
      LaneDone (.vbcast o) x o.h 8 4
        (fun l => oneV o.d
          { val := (x.sBAt l o.b).val.extractLsb' (if o.hi then 32 else 0) 32, poi := (x.sBAt l o.b).poi }) noP fun _ => 0#32) ∧
    (∀ (sx : Bool) (d : BitVec 6) (a : BitVec 8) (b : SrcB) (v : DWord), x.sB b = { val := v, poi := false } → v.toNat < x.w →
      let y := x.t.readV x.t.t0 v.toNat a.toNat
      TeamDone (.vlane stall sx d a b) x stall next x.g id
        (oneS x d { val := if sx then y.val.signExtend 64 else y.val.setWidth 64, poi := y.poi }))

/-! ### Control -/

/-- Control transfer (05 R98 to R101), nop and yield (07 R144): each goes on at its target, eight times IMM from the instruction's own
address, or behind the instruction; brc over the predicate values of the active lanes, or a scalar, or traps with POISON_USE on a poisoned
condition; call and ret push and pop the return stack, which is empty at a team's start, or trap with DIVERGENCE_DEPTH and change nothing;
nothing else of the team changes. That a trap's lanes or address read 0 where no rule names them is the model's choice
(notes/assumptions/64.md). -/
def Obligations.ControlTransfer : Prop :=
  ∀ (x : Ctx) (stall : BitVec 4), x.s.ctx? = some x →
    let dest := fun imm : Word => x.t.pc + BitVec.ofInt 64 (8 * imm.toInt)
    let act := lanesOf x.w x.t.mask
    let p := fun (r : BitVec 6) l => x.t.readP x.t.t0 l r.toNat
    let go := fun i pc f => GoesOn i x 1 stall pc f
    (∀ imm, go (.bra stall imm) (dest imm) id) ∧
    (∀ r imm, (x.sc r.toNat).poi = false →
      go (.brc stall .snz r imm) (if (x.sc r.toNat).val = 0#64 then x.t.pc + 16#64 else dest imm) id) ∧
    (∀ r imm, (∀ l, l ∈ act → (p r l).poi = false) →
      go (.brc stall .any r imm) (if ∃ l, l ∈ act ∧ (p r l).val = true then dest imm else x.t.pc + 16#64) id ∧
      go (.brc stall .all r imm) (if ∀ l, l ∈ act → (p r l).val = true then dest imm else x.t.pc + 16#64) id ∧
      go (.brc stall .none r imm) (if ∃ l, l ∈ act ∧ (p r l).val = true then x.t.pc + 16#64 else dest imm) id) ∧
    (∀ r imm, (x.sc r.toNat).poi = true → exec (.brc stall .snz r imm) x.s = x.trap 0x07#8 (laneSet act) 0#64) ∧
    (∀ c r imm, c ≠ .snz → (∃ l, l ∈ act ∧ (p r l).poi = true) →
      exec (.brc stall c r imm) x.s = x.trap 0x07#8 (laneSet (act.filter fun l => (p r l).poi)) 0#64) ∧
    (∀ imm, 32 ≤ x.t.rstack.length → exec (.call stall imm) x.s = x.trap 0x0F#8 0#1024 0#64) ∧
    (x.t.rstack = [] → exec (.ret stall) x.s = x.trap 0x0F#8 0#1024 0#64) ∧
    (∀ e r, x.t.rstack = e :: r → e.depth ≠ x.t.mstack.length → exec (.ret stall) x.s = x.trap 0x0F#8 0#1024 0#64) ∧
    (∀ (g : Group) (l : Launch) (c : Chart) core slots pos (u : Team), u ∈ (g.dispatched l c core slots pos).teams → u.rstack = []) ∧
    (∀ imm, x.t.rstack.length < 32 →
      go (.call stall imm) (dest imm) fun u => { u with rstack := { addr := x.t.pc + 16#64, depth := x.t.mstack.length } :: x.t.rstack }) ∧
    (∀ e r, x.t.rstack = e :: r → e.depth = x.t.mstack.length → go (.ret stall) e.addr fun u => { u with rstack := r }) ∧
    go (.nop stall) (x.t.pc + 8#64) id ∧
    go (.yield stall) (x.t.pc + 8#64) fun u => { u with yielding := some { since := x.t.t0, teams := x.readyOthers } }

/-- The mask stack (07 R130 to R134): each structured instruction waits for pending results, traps with POISON_USE for a condition
poisoned over the lanes that it reads and with DIVERGENCE_DEPTH for a stack that does not suit it, and otherwise sets the mask and the
stack as R134 gives, and transfers where no lane is left. That endloop with no entry on the stack reads the active lanes, and that its
POISON_USE comes before DIVERGENCE_DEPTH, is the model's choice (notes/assumptions/26.md), and so are a trap's lanes and address 0 where
no rule names them (64.md). -/
def Obligations.MaskStack : Prop :=
  ∀ (x : Ctx) (stall : BitVec 4), x.s.ctx? = some x →
    let m := x.t.mask
    let st := x.t.mstack
    let dest := fun imm : Word => x.t.pc + BitVec.ofInt 64 (8 * imm.toInt)
    let p := fun (c : Cond) l => x.t.readP x.t.t0 l c.p.toNat
    let held := fun (c : Cond) (ls : LaneSet) => laneSet ((lanesOf x.w ls).filter fun l => (p c l).val != c.neg)
    let bad := fun (c : Cond) (ls : LaneSet) => (lanesOf x.w ls).filter fun l => (p c l).poi
    let clear := fun (c : Cond) (ls : LaneSet) => ∀ l, l ∈ lanesOf x.w ls → (p c l).poi = false
    let go := fun i passes pc mask stack => GoesOn i x passes stall pc fun u => { u with mask := mask, mstack := stack }
    let poison := fun i c ls => exec i x.s = x.trap 0x07#8 (laneSet (bad c ls)) 0#64
    let depth := fun i => exec i x.s = x.trap 0x0F#8 0#1024 0#64
    let act := match x.t.top with
      | some e => m ||| e.b
      | none => m
    (x.t.pending x.t.t0 = true → ∀ c imm i, i ∈ ([.ifOp stall c imm, .elseOp stall imm, .endif stall, .loop stall imm,
        .breakOp stall c imm, .cont stall c imm, .endloop stall c imm] : List Instr) → exec i x.s = x.block .result) ∧
    (x.t.pending x.t.t0 = false →
      (∀ c imm, bad c m ≠ [] →
        poison (.ifOp stall c imm) c m ∧ poison (.breakOp stall c imm) c m ∧ poison (.cont stall c imm) c m) ∧
      (∀ c imm, bad c act ≠ [] → poison (.endloop stall c imm) c act) ∧
      (32 ≤ st.length → ∀ c imm, depth (.loop stall imm) ∧ (clear c m → depth (.ifOp stall c imm))) ∧
      ((∀ e, x.t.top = some e → e.kind ≠ .ifK) → ∀ imm, depth (.elseOp stall imm)) ∧
      ((∀ e, x.t.top = some e → e.kind = .loopK) → depth (.endif stall)) ∧
      ((∀ e, x.t.top = some e → e.kind ≠ .loopK) → ∀ c imm, clear c act → depth (.endloop stall c imm)) ∧
      (x.t.loopAt = none → ∀ c imm, clear c m → depth (.breakOp stall c imm) ∧ depth (.cont stall c imm)) ∧
      (∀ c imm, clear c m → st.length < 32 →
        go (.ifOp stall c imm) x.passes (if held c m = 0#1024 then dest imm else x.t.pc + 16#64) (held c m)
          ({ kind := .ifK, a := m, b := m &&& ~~~held c m } :: st)) ∧
      (∀ imm e, x.t.top = some e → e.kind = .ifK →
        go (.elseOp stall imm) 1 (if e.b = 0#1024 then dest imm else x.t.pc + 16#64) e.b ({ kind := .elseK, a := e.a, b := 0#1024 } :: st.tail)) ∧
      (∀ e, x.t.top = some e → e.kind ≠ .loopK → go (.endif stall) 1 (x.t.pc + 8#64) e.a st.tail) ∧
      (∀ imm, st.length < 32 →
        go (.loop stall imm) 1 (if m = 0#1024 then dest imm else x.t.pc + 16#64) m ({ kind := .loopK, a := m, b := 0#1024 } :: st)) ∧
      (∀ c imm p, clear c m → x.t.loopAt = some p →
        let gone := held c m
        let left := m &&& ~~~gone
        let pc := if left = 0#1024 ∧ p = 0 then dest imm else x.t.pc + 16#64
        go (.breakOp stall c imm) x.passes pc left (dropAbove gone p st) ∧
        go (.cont stall c imm) x.passes pc left (addToB gone p (dropAbove gone p st))) ∧
      (∀ c imm e, x.t.top = some e → e.kind = .loopK → clear c (m ||| e.b) →
        let k := held c (m ||| e.b)
        let n := passCount x.w (m ||| e.b)
        if k = 0#1024 then go (.endloop stall c imm) n (x.t.pc + 16#64) e.a st.tail
        else go (.endloop stall c imm) n (dest imm) k ({ e with b := 0#1024 } :: st.tail)))

/-! ### Commits and the end of a team -/

/-- The team commit (11 R200, 13 R246; 17 R288): with no result pending, no atomic of the team still to be served and room for the die
region's entries of the buffer (each finds room in turn, after those before it), it is made at once, every entry being applied. The buffer
is empty afterwards; every byte that it held reads so in the window, the handle area or the commit area, every other byte there as before;
the one pending reduction that it held on a word combines with the one that the commit area held. GCONF is set where another team
committed a granule of bytes last, and the team is each such granule's committer. The team's loads in flight keep the bytes that they
read, its matrix instructions have read B, and the resume point is the instruction after the commit. That a load in flight keeps the bytes
which the team's buffer held at its issue is DEDUCED (notes/assumptions/4.md). -/
def Obligations.TeamCommit : Prop :=
  ∀ (x : Ctx) (pc : DWord), x.t.pending x.t.t0 = false → (∀ q, q ∈ x.t.atoms → q.todo = []) →
    let dies := x.t.buf.filter fun e => match e.sp with
      | .die _ => true
      | _ => false
    let area := fun k => (dies.take k).foldl Group.areaPut x.g
    (∀ k e, dies[k]? = some e → Ctx.areaTakes { x with g := area k } e = true) →
    let covers := fun (sp : Space) (a : Nat) (b : Nat × Byte) => ∃ e, e ∈ x.t.buf ∧ e.sp = sp ∧ b ∈ e.bytes ∧ e.addr b.1 = a
    let held := fun (d a : Nat) (b : Nat × Byte) =>
      ∃ e, e ∈ x.t.buf ∧ e.sp = .die d ∧ e.gran = a / 64 ∧ b ∈ e.bytes ∧ b.1 = a % 64
    let byte := fun (g : Group) sp a => (findEntry g.carea sp (a / 64)).bind (Entry.byte? · (a % 64))
    let pend := fun (g : Group) sp gran w => (findEntry g.carea sp gran).bind (Entry.red? · w)
    let ops := fun sp gran w => ((dies.filter fun e => e.isAt sp gran).flatMap fun e => e.reds.filter fun r => r.1 == w).map Prod.snd
    let mine := fun (k : GranKey) => ∃ e, e ∈ x.t.buf ∧ e.bytes ≠ [] ∧ k = .loc e.sp e.gran
    ∃ y, x.teamCommit (some pc) = .ok y ∧ y.s = x.s ∧ y.l = x.l ∧
      y.t = { x.t with
        buf := [], noroll := false
        loads := (x.capture fun _ sp a => x.t.buf.any fun e =>
          (e.sp == .win || e.sp == .slot) && e.isAt sp (a / 64) && (e.byte? (a % 64)).isSome).t.loads
        mats := x.t.mats.map fun r => (reqGrans r).foldl x.readGran r
        resume := { pc := pc, mask := x.t.mask, depth := x.t.mstack.length, rdepth := x.t.rstack.length, tctl := x.t.tctl } } ∧
      y.g = { x.g with
        window := y.g.window, harea := y.g.harea, wpois := y.g.wpois, hpois := y.g.hpois, carea := y.g.carea
        committers := y.g.committers, gconf := y.g.gconf, turn := some (x.s.cycle, x.t.idx) } ∧
      (∀ a, (∀ b, ¬ covers .win a b) → y.g.window.read a = x.g.window.read a) ∧
      (∀ a, (∀ b, ¬ covers .slot a b) → y.g.harea.read a = x.g.harea.read a) ∧
      (∀ a v, (∃ b, covers .win a b) → (∀ b, covers .win a b → b.2 = v) → y.g.window.read a = v) ∧
      (∀ a v, (∃ b, covers .slot a b) → (∀ b, covers .slot a b → b.2 = v) → y.g.harea.read a = v) ∧
      (∀ d a, (∀ b, ¬ held d a b) → byte y.g (.die d) a = byte x.g (.die d) a) ∧
      (∀ d a v, (∃ b, held d a b) → (∀ b, held d a b → b.2 = v) → byte y.g (.die d) a = some v) ∧
      (∀ d gran w, ops (.die d) gran w = [] → pend y.g (.die d) gran w = pend x.g (.die d) gran w) ∧
      (∀ d gran w r, ops (.die d) gran w = [r] → pend y.g (.die d) gran w = some (match pend x.g (.die d) gran w with
        | none => r
        | some p => { p with val := (atomF r.isF r.op p.val r.val 0#32).1 })) ∧
      (y.g.gconf = true ↔ x.g.gconf = true ∨ ∃ k u, mine k ∧ (k, u) ∈ x.g.committers ∧ u ≠ x.t.idx) ∧
      ∀ k u, (k, u) ∈ y.g.committers ↔ (mine k ∧ u = x.t.idx) ∨ (¬ mine k ∧ (k, u) ∈ x.g.committers)

/-- Commits, aborts and fences complete (11 R202, R203, R206, R208, R213, R214). An aborted group is in dispatch again with its origin,
extents and key, and of what it had done nothing stands: no team, window, handle area, commit area, handle, engine command, queue or
barrier, and %bkconf 0. `y` is the team commit made; what the group commit of gcommit leaves is Obligations.GroupEnds'. -/
def Obligations.Commits : Prop :=
  ∀ (x : Ctx) (stall : BitVec 4), x.s.ctx? = some x →
    (∀ y, x.CommitsTo 8 y → exec (.tcommit stall) x.s = .next (y.wentOn 8 stall)) ∧
    (∀ y b n, x.sB b = { val := n, poi := false } → 0 ≤ n.toInt → n.toInt ≤ x.c.ckpt → ckptSize x.w n.toNat ≤ x.c.tbufBytes - 64 →
      x.t.loads = [] → x.t.atoms = [] → x.CommitsTo 8 y →
      exec (.tcommitCk stall b) x.s = .next (({ y with t := { y.t with ckpt := y.t.checkpoint x.w n.toNat } } : Ctx).wentOn 8 stall)) ∧
    (x.t.pending x.t.t0 = false → x.t.loads = [] → x.t.atoms = [] → x.t.noroll = false → x.t.resume.depth ≤ x.t.mstack.length →
      x.t.resume.rdepth ≤ x.t.rstack.length →
      GoesOn (.tabort stall) x 1 stall x.t.resume.pc fun u =>
        { u with
          buf := [], mask := x.t.resume.mask, tctl := x.t.resume.tctl
          mstack := x.t.mstack.drop (x.t.mstack.length - x.t.resume.depth)
          rstack := x.t.rstack.drop (x.t.rstack.length - x.t.resume.rdepth)
          v := x.t.ckpt.v, p := x.t.ckpt.p, s := x.t.ckpt.s, inhandler := false
          frame := if x.t.inhandler then Frame.none else x.t.frame }) ∧
    (∀ y, x.CommitsTo 8 y → y.spec = false → y.save.commitReady y.g.gid false = true →
      let z := y.sync fun s => s.groupCommit y.g.gid false
      exec (.gcommit stall) x.s = .next (({ z with g := { z.g with gcommitted := true } } : Ctx).wentOn 8 stall)) ∧
    (x.g.committed = false → exec (.gabort stall) x.s = .next ((x.issued 1 stall.toNat).save.abortGroup x.g.gid) ∧
      (x.s.group? x.g.gid = some x.g → x.s.launch? x.g.launch = some x.l → x.s.chartOf x.l x.g = some x.c →
        ∃ t g, exec (.gabort stall) x.s = .next t ∧ t.group? x.g.gid = some g ∧ g.status = .share ∧
          g.org = x.g.org ∧ g.ext = x.g.ext ∧ g.key = x.g.key ∧ g.teams = [] ∧ g.window = [] ∧ g.harea = [] ∧ g.carea = [] ∧
          g.handles = [] ∧ g.cmds = [] ∧ g.queues = [] ∧ g.bars = [] ∧ g.bkconf = 0 ∧ g.committed = false ∧ g.saved = false ∧
          t.mem = x.s.mem)) ∧
    (∀ h sc, x.Guarded h → (∀ l, l ∈ x.t.loads → l.path = .die ∧ sc ≠ .d) →
      (∀ q, q ∈ x.t.atoms → q.todo = [] ∨ q.scope = .t ∨ (q.scope = .g ∧ sc = .t) ∨ (q.scope = .d ∧ sc ≠ .d)) →
      LanesDone (.fence h sc) x h 8 0 noV noP []) ∧
    (∀ hdl, (x.handle hdl).fault = none → (x.handle hdl).st ≠ .filling → GoesOn (.xfence stall hdl) x 1 stall (x.t.pc + 8#64) id)

/-- The end of a team (05 R102, 08 R164 step 4): exit makes the team commit, discards everything of the team and takes it out of every
barrier; the group ends with its last team. -/
def Obligations.TeamEnds : Prop :=
  ∀ (x y : Ctx) (stall : BitVec 4), x.s.ctx? = some x → x.t.loads = [] → x.CommitsTo 8 y →
    let u := (y.issued 1 stall.toNat).t.ended
    let g := (y.g.leaveBarriers y.t.idx).setTeam u
    u.phase = .ended ∧ u.v = [] ∧ u.p = [] ∧ u.s = [] ∧ u.mstack = [] ∧ u.rstack = [] ∧ u.buf = [] ∧ u.spill = [] ∧ u.tiles = [] ∧
    ((∃ k, k ∈ g.teams ∧ k.phase ≠ .ended) →
      exec (.exit stall) x.s = .next ({ y.issued 1 stall.toNat with t := u, g := g } : Ctx).save) ∧
    ((∀ k, k ∈ g.teams → k.phase = .ended) → (∀ h, h ∈ g.handles → h.fault = none) →
      ∃ t, exec (.exit stall) x.s = .next t ∧ t.group? y.g.gid = (y.save.group? y.g.gid).map fun _ => { g with status := .ended })

/-! ### Barriers, queues and tasks -/

/-- Barriers (08 R166): an arrival makes the team commit; the last of the members' turns the barrier, so that the arrivals are empty and
the generation flipped; barw completes for a team that has not arrived. -/
def Obligations.Barriers : Prop :=
  ∀ (x : Ctx) (stall : BitVec 4) (b : BitVec 3) (v : Barrier), x.s.ctx? = some x → x.t.pending x.t.t0 = false →
    x.g.bars[b.toNat]? = some v →
    let at_ := fun (y : Ctx) (v : Barrier) (turned : Bool) =>
      { y.g with bars := y.g.bars.set b.toNat v, committers := if turned then [] else y.g.committers }
    (v.arrived.contains x.t.idx = false → GoesOn (.barw stall b) x 1 stall (x.t.pc + 8#64) fun u => { u with phaseBit := false }) ∧
    (∀ y k, x.t.phaseBit = false → v.members.contains x.t.idx = true → v.arrived.contains x.t.idx = false → x.CommitsTo 8 y →
      y.g.bars[b.toNat]? = some k → y.t.idx = x.t.idx →
      let arrived := NSet.add k.arrived x.t.idx
      if k.members.length = arrived.length ∧ k.members ≠ [] then
        let done := ({ y with g := at_ y { k with arrived := [], gen := !k.gen } true } : Ctx).wentOn 8 stall
        exec (.bara stall b) x.s = .next done ∧ exec (.bar stall b) x.s = .next done
      else
        let z : Ctx := { y with g := at_ y { k with arrived := arrived } false }
        exec (.bara stall b) x.s = .next (z.wentOn 8 stall) ∧
        exec (.bar stall b) x.s = .next (({ z with t := { z.t with phaseBit := true } } : Ctx).waiting (.barWait b.toNat)))

/-- Queues (08 R170): a push appends the value and takes one of the allowance, a pop removes the oldest entry and gives one back; the try
forms answer 1, or 0 where they could not. That a qtry.pop whose sD and sF are one scalar leaves sF's 1 is the model's choice
(notes/assumptions/44.md). -/
def Obligations.Queues : Prop :=
  ∀ (x : Ctx) (stall : BitVec 4) (q : BitVec 4) (k : Queue), x.s.ctx? = some x → q.toNat < x.c.qcount →
    x.g.queues[q.toNat]? = some k →
    let put := fun (k : Queue) => { x.g with queues := x.g.queues.set q.toNat k }
    let next := x.t.pc + 8#64
    (∀ v r d, k.entries = v :: r →
      TeamDone (.qpop stall d q) x stall next (put { entries := r, allow := k.allow + 1 }) id (oneS x d { val := v, poi := false })) ∧
    (∀ v r d f, k.entries = v :: r →
      TeamDone (.qtryPop stall d f q) x stall next (put { entries := r, allow := k.allow + 1 }) id fun n =>
        if n = f.toNat then some (x.t.t0 + 2, { val := 1#64, poi := false })
        else if n = d.toNat then some (x.t.t0 + 2, { val := v, poi := false }) else none) ∧
    (∀ d f, k.entries = [] → TeamDone (.qtryPop stall d f q) x stall next x.g id (oneS x f { val := 0#64, poi := false })) ∧
    (∀ v b f, x.sB b = { val := v, poi := false } → k.allow = 0 →
      TeamDone (.qtryPush stall f q b) x stall next x.g id (oneS x f { val := 0#64, poi := false })) ∧
    (∀ v b f y n, x.sB b = { val := v, poi := false } → k.allow = n + 1 → x.CommitsTo 8 y → y.g.queues = x.g.queues →
      let z : Ctx := { y with g := { y.g with queues := y.g.queues.set q.toNat { entries := k.entries ++ [v], allow := n } } }
      exec (.qpush stall q b) x.s = .next (z.wentOn 8 stall) ∧
      exec (.qtryPush stall f q b) x.s = .next ((z.setS f 1#64 false).wentOn 8 stall)) ∧
    (k.entries = [] → ∀ d, exec (.qpop stall d q) x.s = .next (x.waiting (.qpop q.toNat))) ∧
    (∀ v b, x.sB b = { val := v, poi := false } → k.allow = 0 → exec (.qpush stall q b) x.s = .next (x.waiting (.qpush q.toNat)))

/-- spawn and gpark (12 R219, R222, R234, R235): a spawn whose lanes all pass their checks puts one record for each selected lane into the
node's bin, in ascending lane order, each with its key and its parent. A team that comes to gpark before the last one makes its team
commit and waits; with the last one, no load of the group waiting for a core that is being reset, the group commit is made (`c` is the
state that it leaves) and the group parks: its core is free, its commit area is empty, and each live team goes on after its gpark, v0 to
v(LIVE-1) kept, when the event comes. -/
def Obligations.Tasks : Prop :=
  ∀ (x : Ctx), x.s.ctx? = some x →
    (∀ h a t node len, x.Guarded h → x.t.spawns < 256 → (x.im.nodeChart node.toNat).isSome = true →
      (∀ l, l ∈ x.sel h → (x.v64 l t.toNat).poi = false ∧ x.g.ts.toNat < (x.v64 l t.toNat).val.toNat ∧
        ∀ j, j ≤ len.toNat → (x.v l (a.toNat + j)).poi = false) →
      let rec_ := fun l : Nat => ({
        words := (List.range (len.toNat + 1)).map (fun j => (x.v l (a.toNat + j)).val) ++ List.replicate (15 - len.toNat) 0#32
        ts := (x.v64 l t.toNat).val
        key := recKey (x.v64 l t.toNat).val x.g.key (spawnIndex x.t.idx x.t.spawns l), parent := x.g.gid } : Rec)
      let y : Ctx := { x with t := { x.t with spawns := x.t.spawns + 1 } }
      let z := if (x.sel h).isEmpty then y
               else y.sync fun s => (x.sel h).foldl (fun s l => s.binEnter x.l.id x.c.ordered x.g.die node.toNat (rec_ l)) s
      exec (.spawn h a t node len) x.s = .next (z.retireLanes 8 h.stall (x.sel h)).save) ∧
    (∀ (stall : BitVec 4) (on : ParkOn) (live : BitVec 9) (y : Ctx), x.t.wait ≠ some .park → (x.c.ordered = true → x.g.gcommitted = true) →
      x.parkPoison on = false → x.parkEmpty on = false → x.CommitsTo 16 y →
      (∃ (j : Nat) (k : Team), y.g.teams[j]? = some k ∧ j ≠ y.t.idx ∧ k.idx ≠ y.t.idx ∧ k.phase ≠ .ended ∧ k.wait ≠ some .park) →
      exec (.gpark stall on live) x.s = .next (y.waiting .park)) ∧
    (∀ (stall : BitVec 4) (on : ParkOn) (live : BitVec 9), x.t.wait = some .park →
      x.parkers.all (fun (k : Team) => k.idx == x.t.idx || k.wait == some .park) = true →
      (∀ k, k ∈ x.parkers → (x.parkOf k).map (fun r => (r.1, r.2.2)) = (x.parkOf x.t).map fun r => (r.1, r.2.2)) →
      ∀ r, (x.parkers.head?.bind x.parkOf) = some r → x.spec = false → x.save.commitReady x.g.gid false = true →
      x.save.quiet x.g.gid = true →
      let c := ((x.issued 1 0).save.quiesce x.g.gid).groupCommit x.g.gid false
      ∃ t g k, exec (.gpark stall on live) x.s = .next t ∧ t.mem = c.mem ∧ t.launches = c.launches ∧
        c.group? x.g.gid = some k ∧ k.committed = true ∧ k.carea = [] ∧ t.group? x.g.gid = some g ∧
        g.status = .parked ∧ g.freed = true ∧ g.committed = true ∧ g.carea = [] ∧
        g.parked = some { on := r.1, addr := r.2.2, since := c.cycle } ∧ g.window = k.window ∧ g.harea = k.harea ∧
        g.teams.length = k.teams.length ∧
        ∀ (j : Nat) (a b : Team), k.teams[j]? = some a → g.teams[j]? = some b →
          (a.phase = .ended → b = a) ∧
          (a.phase ≠ .ended → b.pc = a.pc + 16#64 ∧ b.mask = a.mask ∧ b.mstack = a.mstack ∧ b.rstack = a.rstack ∧ b.wait = none ∧
            ∀ cyc l n, n < 256 → b.readV cyc l n =
              if n < ((x.parkOf a).map fun p => p.2.1).getD 0 then a.atRest.readV cyc l n else { val := 0#32, poi := false }))

/-! ### Traps and the system instructions -/

/-- What a raised trap does (05 R111, 20 R311, R312; 12 R227; 01 R18): in a speculative group it is held until the frontier; where the
Chart gives no handler, or the team is in it, the group ends with the cause; otherwise the team enters the handler, the matrix
instructions that it has issued being finished (`z`, 17 R297): the frame keeps the pc, the mask, the stack depth, %tctl, the cause, the
lanes and the address, and every register and flag reads as with the pending results written; nothing else of the team changes. A result
pending for a register that the machine does not have, which a translated Eceel block may leave (notes/assumptions/56.md), goes to that
block's own registers. A precise trap uses its instruction's issue, for its passes and its STALL, so that the handler starts after them
(that it does is DEDUCED, notes/assumptions/58.md), and leaves STEP 0 where an mmas trapped (17 R292). An instruction whose lanes fault
one by one (02 R32, 05 R104, 20 R309, R311: an iadd with poisoned guards, an ldl) completes in its other lanes, and its trap carries the
lowest faulting lane's cause and address and every faulting lane; that the address of a poisoned guard is 0 is the model's choice
(notes/assumptions/64.md). -/
def Obligations.TrapEntry : Prop :=
  ∀ (x : Ctx),
    (∀ (cause : Cause) (lanes : LaneSet) (addr : DWord) (per : Bool),
      (x.spec = true → x.raise cause lanes addr per = .next
        (({ x with t := { x.t with held := some { cause := cause, lanes := lanes, perLane := per, addr := addr } } } : Ctx).waiting
          .frontier)) ∧
      (x.spec = false → (x.c.hndl = false ∨ x.t.inhandler = true) →
        x.raise cause lanes addr per = .next (x.save.endGroup x.g.gid cause (BitVec.ofNat 32 x.t.idx) x.t.pc addr)) ∧
      (x.spec = false → x.c.hndl = true → x.t.inhandler = false →
        let from_ := max x.t.earliest x.t.readyAt
        let z := x.matsDone
        z = { x with t := { x.t with tiles := z.t.tiles, flags := z.t.flags, mats := [] } } ∧ (x.t.mats = [] → z = x) ∧
        ∃ u, x.raise cause lanes addr per = .next ({ x with t := u } : Ctx).save ∧
          u = { z.t with
            v := u.v, p := u.p, s := u.s, vx := u.vx, px := u.px, sx := u.sx, flags := u.flags, pend := [], earliest := from_
            readySince := some from_
            frame := { pc := x.t.pc, mask := x.t.mask, depth := x.t.mstack.length, lanes := lanes, cause := cause, perLane := per
                       tctl := x.t.tctl, addr := addr }
            inhandler := true, wait := none, retry := none, promoted := none, yielding := none, held := none
            quota := none, qturn := none, late := false, pc := BitVec.ofNat 64 x.c.handler } ∧
          ∀ cyc, (∀ l r, r < 256 → u.readV cyc l r = x.t.readV x.t.readyAt l r) ∧
            (∀ l r, r < 48 → u.readP cyc l r = x.t.readP x.t.readyAt l r) ∧
            (∀ r, r < 256 → u.readS cyc r = x.t.readS x.t.readyAt r) ∧ u.flagsAt cyc = z.t.flagsAt x.t.readyAt ∧
            ((∀ e, e ∈ x.t.pend → e.w.Native) → Team.SameVirtual x.t u)) ∧
      let w := x.im.word x.t.pc
      let guarded := laneWord w || (wordForm w == 2#2 && laneWord (x.im.word (x.t.pc + 8#64)))
      let n := if endloopWord w = true then passCount x.w x.t.loopReads else if (guarded || divergeWord w) = true then x.passes else 1
      ∃ y : Ctx, x.trap cause lanes addr = y.raise cause lanes addr false ∧
        y.g = (if guarded = true then x.measured 0 else x.g) ∧ y.l = x.l ∧ y.c = x.c ∧ y.im = x.im ∧
        y.t = { x.passed n (wordStall w).toNat x.t.pc x.t.pend with step := if Machine.wordOpc w = 0x1C1 then 0 else x.t.step } ∧
        y.s = x.s.setSlot x.slot
          { x.s.slotOf x.slot with nextFree := x.t.t0 + n, last := (x.s.slotOf x.slot).last.set x.tier x.t.pos }) ∧
    (x.s.ctx? = some x → ∀ o : VInt,
      let bad := x.lanes.filter fun l => (x.guardP o.h l).poi
      bad ≠ [] →
      ∃ y : Ctx, exec (.iadd o) x.s = y.raise 0x07#8 (laneSet bad) 0#64 true ∧ x.Only y.save (x.measured (x.sel o.h).length) y.t ∧
        y.t = x.passed x.passes o.h.stall.toNat x.t.pc y.t.pend ∧
        Reads x.t y.t
          (fun l r => if l ∈ x.sel o.h then
              (intV o { val := o.ty.deliver o.sat (o.ty.int (x.vAt l o.ty.wide o.a).val + o.ty.int (x.bAt l o.ty.wide o.b).val)
                        poi := (x.vAt l o.ty.wide o.a).poi || (x.bAt l o.ty.wide o.b).poi } r).map fun v => (x.at_ l + 4, v)
            else none)
          (fun _ _ => none) noS []) ∧
    (x.s.ctx? = some x → ∀ o : MemOp,
      let z := o.size.bytes
      let e := fun l => x.ea o l
      let place := x.winPlace o
      let fault : Nat → Option (Cause × DWord) := fun l =>
        if (x.guardP o.h l).poi = true then some (0x07#8, 0#64)
        else if l ∉ x.sel o.h then none
        else if (x.v l o.a.toNat).poi = true then some (0x07#8, (x.v l o.a.toNat).val.setWidth 64)
        else if e l % z ≠ 0 then some (0x06#8, BitVec.ofInt 64 (e l))
        else if e l < 0 ∨ (place.2.2 : Int) < e l + z then some (0x05#8, BitVec.ofInt 64 (e l)) else none
      let bad := x.lanes.filter fun l => (fault l).isSome
      let good := (x.sel o.h).filter fun l => (fault l).isNone
      let at_ := fun l => place.2.1 + (e l).toNat
      (o.hofs = true → (x.handle o.hdl).fault = none) → (x.t.loads.filter fun k => k.path == .loc).length < 63 →
      x.Clear place.1 (good.map fun l => (l, at_ l, z)) →
      ∀ l f, bad.head? = some l → fault l = some f →
        ∃ (y : Ctx) (conf bytes : Nat), exec (.ldl o) x.s = y.raise f.1 (laneSet bad) f.2 true ∧
          x.Only y.save (x.accessed (x.sel o.h).length conf bytes) y.t ∧
          y.t = { x.passed x.passes o.h.stall.toNat x.t.pc x.t.pend with
            loads := x.t.loads ++ [{ path := .loc, dst := (List.range o.size.regs).map fun j => o.r.toNat + j
                                     todo := good.map fun l => x.pending o place.1 l (at_ l), ws := [] }] })

/-- TRET (05 R112): outside the handler it traps with RESERVED_FIELD, at another stack depth than the frame's with DIVERGENCE_DEPTH, and
with a result pending it waits; otherwise both forms leave the handler with the frame's mask and %tctl and the trap registers cleared;
.after goes on behind the trapped instruction, .retry at it again, held to the trap's lanes where the trap was per lane: while the field
`retry` stands, the lanes that act are those of them that the mask holds. That an instruction of FORM 11 counts as one word is the model's
choice (notes/assumptions/45.md), and so are the lanes and address 0 of TRET's own traps (64.md). -/
def Obligations.TrapReturn : Prop :=
  ∀ (x : Ctx) (stall : BitVec 4), x.s.ctx? = some x →
    let f := x.t.frame
    let left := fun (u : Team) => { u with mask := f.mask, tctl := f.tctl, inhandler := false, frame := Frame.none }
    let form := (x.im.word f.pc).extractLsb' 48 2
    let both := fun o => exec (.tretAfter stall) x.s = o ∧ exec (.tretRetry stall) x.s = o
    (x.t.inhandler = false → both (x.trap 0x03#8 0#1024 0#64)) ∧
    (x.t.inhandler = true → x.t.pending x.t.t0 = true → both (x.block .result)) ∧
    (x.t.inhandler = true → x.t.pending x.t.t0 = false → x.t.mstack.length ≠ f.depth → both (x.trap 0x0F#8 0#1024 0#64)) ∧
    (x.t.inhandler = true → x.t.pending x.t.t0 = false → x.t.mstack.length = f.depth →
      GoesOn (.tretAfter stall) x 1 stall (f.pc + if form = 1#2 ∨ form = 2#2 then 16#64 else 8#64) left ∧
      GoesOn (.tretRetry stall) x 1 stall f.pc fun u => { left u with retry := if f.perLane then some f.lanes else none }) ∧
    (∀ (y : Ctx) ls, y.t.retry = some ls → y.lanes = lanesOf y.w (y.t.mask &&& ls)) ∧
    ∀ y : Ctx, y.t.retry = none → y.lanes = lanesOf y.w y.t.mask

/-- The system instructions (05 R110, 07 R140, R141, 20 R315, 22 R358, 17 R292): trap raises cause 0x10 + n and an unassigned opcode
ILLEGAL_OPCODE; cycle, chkset, featq, vshrink, vgrow to the present count, bkpt and the step counter complete. That trap's address and the
lanes and address of an unassigned opcode read 0 is the model's choice (notes/assumptions/64.md). -/
def Obligations.System : Prop :=
  ∀ (x : Ctx) (stall : BitVec 4), x.s.ctx? = some x →
    let next := x.t.pc + 8#64
    let put := fun i d v => TeamDone i x stall next x.g id (oneS x d { val := v, poi := false })
    (∀ n : BitVec 4, exec (.trap stall n) x.s = x.trap (BitVec.ofNat 8 (16 + n.toNat)) (laneSet x.lanes) 0#64) ∧
    (∀ w, exec (.unassignedOpcode w) x.s = x.trap 0x01#8 0#1024 0#64) ∧
    (∀ d, put (.cycle stall d) d (BitVec.ofNat 64 x.s.cycle)) ∧
    (∀ n, GoesOn (.chkset stall n) x 1 stall next fun u =>
      { u with tctl := (x.t.tctl &&& 0xFFFFFFF7#32) ||| if n then 8#32 else 0#32 }) ∧
    (∀ d b n, x.sB b = { val := n, poi := false } → put (.featq stall d b) d (BitVec.ofNat 64 (featValue n.toNat))) ∧
    (∀ d, put (.mstepGet stall d) d (BitVec.ofNat 64 x.t.step)) ∧
    (∀ b n, x.sB b = { val := n, poi := false } → n.toNat ≤ 64 →
      GoesOn (.mstepSet stall b) x 1 stall next fun u => { u with step := n.toNat }) ∧
    (∀ b n, x.sB b = { val := n, poi := false } → x.countBad false n.toInt = false → x.t.pending x.t.t0 = false → x.t.loads = [] →
      x.t.atoms = [] →
      GoesOn (.vshrink stall b) x 1 stall next fun u =>
        { u with nregs := n.toNat, v := x.t.v.filter fun e => decide (e.1 % 256 < n.toNat) }) ∧
    (∀ b n, x.sB b = { val := n, poi := false } → x.countBad true n.toInt = false → x.t.pending x.t.t0 = false → x.t.loads = [] →
      (n.toNat = x.t.nregs → GoesOn (.vgrow stall b) x 1 stall next id) ∧
      (n.toNat ≠ x.t.nregs → x.c.fitsEmpty (x.countsWith n.toNat) = true →
        exec (.vgrow stall b) x.s = .next (x.waiting (.vgrow n.toNat)))) ∧
    (∀ n, x.l.bkpt.getLsbD n.toNat = false → GoesOn (.bkpt stall n) x 1 stall next id) ∧
    (∀ n, x.l.bkpt.getLsbD n.toNat = true → x.spec = false → x.t.pending x.t.t0 = false →
      let e : BkptEntry := { launch := x.l.id, key := x.g.key, team := x.t.idx, pc := x.t.pc, depth := x.t.mstack.length
                             mask := x.t.mask, spec := false, sample := false }
      let y : Ctx := { x with s := { x.s with bkptlog := x.s.bkptlog.push e } }
      exec (.bkpt stall n) x.s = .next (State.preemptGroup (y.wentOn 8 stall) x.g.gid) ∧
      y.s.bkptlog.next = x.s.bkptlog.next + 1 ∧ y.s.bkptlog.entries.getLast? = some e)

/-! ### Memory accesses -/

/-- Loads (05 R103 to R107, 01 R22): with the path below 63 loads in flight, no handle fault to report, and every selected lane's address
not poisoned, aligned to the access and inside its area, a load issues and is in flight. An ldl's lanes are still to be performed, the
bytes that the team's own buffer holds being taken; an lds, whose area is the lane's own, has its values, each register poisoned where one
of its own bytes is (R104). That a window load may be performed at any time until it returns, in issue order in each lane's overlapping
bytes, and a spill load at its issue, is the model's reading (notes/assumptions/4.md). -/
def Obligations.Loads : Prop :=
  ∀ (x : Ctx) (o : MemOp), x.s.ctx? = some x → x.Guarded o.h →
    let z := o.size.bytes
    let e := fun l => x.ea o l
    let place := x.winPlace o
    let at_ := fun l => place.2.1 + (e l).toNat
    let ready := fun (path : Path) (limit : Int) => (x.t.loads.filter fun k => k.path == path).length < 63 ∧
      ∀ l, l ∈ x.sel o.h → (x.v l o.a.toNat).poi = false ∧ e l % z = 0 ∧ 0 ≤ e l ∧ e l + z ≤ limit
    ((o.hofs = true → (x.handle o.hdl).fault = none) → ready .loc place.2.2 →
      (∃ t, exec (.ldl o) x.s = .next t) ∧
      (x.Clear place.1 ((x.sel o.h).map fun l => (l, at_ l, z)) →
        LoadDone (.ldl o) x o .loc ((x.sel o.h).map fun l => x.pending o place.1 l (at_ l)) [])) ∧
    (ready .spill x.c.spill →
      LoadDone (.lds o) x o .spill [] ((x.sel o.h).flatMap fun l => loadWrites l o.r.toNat o.sx ((List.range z).map fun i =>
        (x.t.spill.read (spillKey l ((e l).toNat + i)), x.t.spois.contains (spillPhys x.w l ((e l).toNat + i) / 8))))) ∧
    ∀ (sx : Bool) (bs : List (Byte × Bool)), bs.length = z →
      (loadRegs sx bs).length = o.size.regs ∧
      ∀ (j : Nat) (r : VReg), (loadRegs sx bs)[j]? = some r →
        let own := (bs.drop (4 * j)).take 4
        r.poi = own.any Prod.snd ∧ (z ≤ 4 → r.val = extendBytes sx (own.map Prod.fst)) ∧
        (4 < z → r.val = extendBytes false (own.map Prod.fst))

/-- ldd (10 R184 to R188): with the path below 63 loads and every lane's address inside the region of a core of the die, the load issues
and is in flight, its lanes still to be performed in the issue order of the path, the bytes that the team's own buffer holds being taken;
only the core's remote-read cache changes besides. Which bytes a load takes at its issue and which when it is performed is DEDUCED
(notes/assumptions/4.md). -/
def Obligations.DieLoads : Prop :=
  ∀ (x : Ctx) (o : MemOp), x.s.ctx? = some x → x.Guarded o.h →
    let z := o.size.bytes
    let e := fun l => x.ea o l
    let at_ := fun l => regionKey 0 (e l).toNat
    (x.t.loads.filter fun k => k.path == .die).length < 63 →
    (∀ l, l ∈ x.sel o.h → (x.v l o.a.toNat).poi = false ∧ e l % z = 0 ∧ dieOk (e l) z x.l.dsize = true) →
    ∃ (t : State) (u : Team) (g : Group), exec (.ldd o) x.s = .next t ∧
      t = { x.s with groups := t.groups, launches := t.launches, slots := t.slots, cores := t.cores } ∧
      t.group? x.g.gid = some (g.setTeam u) ∧ (∀ k, k ≠ x.g.gid → t.group? k = x.s.group? k) ∧
      (∀ k, t.launch? k = x.s.launch? k) ∧ g = { x.measured (x.sel o.h).length with bkconf := g.bkconf, meas := g.meas } ∧
      (∀ d c, coreKey d c ≠ coreKey x.g.die x.g.core → t.core d c = x.s.core d c) ∧
      t.core x.g.die x.g.core = { x.s.core x.g.die x.g.core with rcache := (t.core x.g.die x.g.core).rcache } ∧
      u = { x.passed x.passes o.h.stall.toNat (x.t.pc + dwordOf o.off.size) x.t.pend with
        loads := x.t.loads ++ [{ path := .die, dst := (List.range o.size.regs).map fun j => o.r.toNat + j
                                 todo := (x.sel o.h).map fun l => x.pending o (.die x.g.die) l (at_ l), ws := [] }] }

/-- Stores to the window, a slot or the die region (05 R103 to R107, 10 R185 to R187, 11 R197, R198): with every selected lane's address
and data good, room in the buffer and no .t atomic before it still to write there (R107), the store completes; every byte stored reads
back from the team's buffer as the data of the last lane that stored it, every other byte of the buffer as before, no byte poisoned where
none was; the window, the handle area, the region and main memory stand. A Chart's HSIZE is a multiple of 64 (08 R146). -/
def Obligations.Stores : Prop :=
  ∀ (x : Ctx) (o : MemOp), x.s.ctx? = some x → x.Guarded o.h → x.c.hsize % 64 = 0 →
    x.t.buf.length + (x.sel o.h).length ≤ x.bufCap →
    let z := o.size.bytes
    let e := fun l => x.ea o l
    let good := fun (inside : Int → Prop) => ∀ l, l ∈ x.sel o.h →
      (x.v l o.a.toNat).poi = false ∧ e l % z = 0 ∧ inside (e l) ∧ ∀ d, d ∈ x.dataOf o l → d.poi = false
    let byte := fun (t : Team) sp a => (t.bufByte sp a).map Prod.fst
    let stored := fun (i : Instr) (sp : Space) (addr : Nat → Nat) => ∃ buf, StoreDone i x o buf ∧
      (∀ a, byte { x.t with buf := buf } sp a = storedByte (x.sel o.h) z addr (x.dataBytes o) (byte x.t sp) a) ∧
      ((∀ k, k ∈ x.t.buf → k.poi = []) → ∀ k, k ∈ buf → k.poi = []) ∧
      ∀ sp' a, sp' ≠ sp → Team.bufByte { x.t with buf := buf } sp' a = x.t.bufByte sp' a
    let place := x.winPlace o
    ((∀ k, k ∈ x.t.buf → k.sp = place.1 → k.reds = []) →
      x.ClearStore place.1 ((x.sel o.h).map fun l => (l, place.2.1 + (e l).toNat, z)) →
      (o.hofs = true → (x.handle o.hdl).fault = none ∧ (x.handle o.hdl).st ≠ .draining) →
      good (fun e => 0 ≤ e ∧ e + z ≤ place.2.2) → stored (.stl o) place.1 fun l => place.2.1 + (e l).toNat) ∧
    ((∀ k, k ∈ x.t.buf → k.sp = .die x.g.die → k.reds = []) → good (fun e => dieOk e z x.l.dsize = true) →
      stored (.std o) (.die x.g.die) fun l => regionKey 0 (e l).toNat)

/-- Spill stores and waitp (05 R106, R109; 01 R23): a spill store completes at once, past every buffer: each stored byte of the lane's own
spill area reads as the data, every other byte as before; waitp completes once no more than n loads are in flight on the path, whatever
fixed-latency results are pending: that it does not wait for those is the model's reading (notes/assumptions/65.md). A Chart's spill area
is at most 4,096 bytes. -/
def Obligations.SpillStores : Prop :=
  ∀ (x : Ctx), x.s.ctx? = some x →
    (∀ o : MemOp, x.Guarded o.h → x.c.spill ≤ 4096 →
      let z := o.size.bytes
      let e := fun l => x.ea o l
      (∀ l, l ∈ x.sel o.h → (x.v l o.a.toNat).poi = false ∧ e l % z = 0 ∧ 0 ≤ e l ∧ e l + z ≤ x.c.spill ∧
        ∀ d, d ∈ x.dataOf o l → d.poi = false) →
      ∃ t u conf bytes, exec (.sts o) x.s = .next t ∧ x.Only t (x.accessed (x.sel o.h).length conf bytes) u ∧
        u = { x.passed x.passes o.h.stall.toNat (x.t.pc + dwordOf o.off.size) x.t.pend with spill := u.spill, spois := u.spois } ∧
        ∀ l b, b < 4096 → u.spill.read (spillKey l b) =
          if l ∈ x.sel o.h ∧ e l ≤ b ∧ b < e l + z then ((x.dataBytes o l)[b - (e l).toNat]?).getD 0#8 else x.t.spill.read (spillKey l b)) ∧
    (∀ stall path b n, x.sB b = { val := n, poi := false } → (x.t.loads.filter fun k => k.path == path).length ≤ n.toNat →
      GoesOn (.waitp stall path b) x 1 stall (x.t.pc + 8#64) id)

/-- Atomics and reductions at group scope (13 R238 to R244): every selected lane's address being a word of the window, the instruction
completes and is outstanding, its lanes still to be served. ATOMIC_RETURN serves what is left, the lanes of one address in ascending lane
order: each word not poisoned ends as the fold of the operation over its lanes, each lane receives the word as it found it, the flags are
those of the operations, and every other byte of the window stands. When between its issue and its return an atomic is served is the
model's schedule (notes/assumptions/4.md). -/
def Obligations.GroupAtomics : Prop :=
  ∀ (x : Ctx), x.s.ctx? = some x →
    (∀ (o : AtomOp) (isF : Bool), x.Guarded o.h → o.scope = .g →
      let e : Nat → Int := fun l => ((x.v l o.a.toNat).val.toNat : Int) + (o.off.map BitVec.toInt).getD 0
      let lanes := x.sel o.h
      (∀ l, l ∈ lanes → (x.v l o.a.toNat).poi = false ∧ e l % 4 = 0 ∧ 0 ≤ e l ∧ e l + 4 ≤ x.c.winSize x.g ∧
        (x.atomB o isF l).poi = false ∧ (isF = false → o.op = 9#4 → (x.v l o.c.toNat).poi = false)) →
      let eff := fun (i : Instr) (ret : Bool) => ∃ t, exec i x.s = .next t ∧ x.Only t (x.measured lanes.length)
        { x.passed x.passes o.h.stall.toNat (x.t.pc + if o.off.isSome then 16#64 else 8#64) x.t.pend with
          atoms := if lanes = [] then x.t.atoms else x.t.atoms ++ [{
            scope := .g, isF := isF, op := o.op, ret := if ret then some o.d.toNat else none, ws := []
            todo := lanes.map fun l =>
              { lane := l, ea := (e l).toNat, b := (x.atomB o isF l).val, c := (x.v l o.c.toNat).val } }] }
      (isF = false → eff (.atom o) true ∧ eff (.red o) false) ∧ (isF = true → eff (.atomf o) true ∧ eff (.redf o) false)) ∧
    (∀ gi ti (q : AtomReq) rest, x.s.cur = some (gi, ti) → x.g.status = .running → x.t.phase = .running → x.t.atoms = q :: rest →
      q.scope = .g → q.ws = [] → (∀ l, l ∈ q.todo → l.ea % 4 = 0 ∧ poisonIn x.g.wpois l.ea 4 = false) →
      let word := fun (g : Group) a => BitVec.ofNat 32 (leNat (g.window.readN a 4))
      let serve := fun m (ls : List AtomLane) => ls.foldl (fun m l => (atomF q.isF q.op m l.b l.c).1) m
      let found := fun (k : Nat) (l : AtomLane) => serve (word x.g l.ea) ((q.todo.take k).filter fun p => p.ea == l.ea)
      let each := (List.range q.todo.length).filterMap fun k => (q.todo[k]?).map fun l => (l, found k l)
      let olds := each.flatMap fun p => (q.ret.map fun r => [RegWrite.v p.1.lane r { val := p.2, poi := false }]).getD []
      ∃ (t : State) (g : Group) (u : Team), exec (.atomicReturn gi ti) x.s = .next t ∧
        t = { x.s with groups := t.groups, launches := t.launches, cur := none } ∧
        t.group? x.g.gid = some (g.setTeam u) ∧ (∀ k, k ≠ x.g.gid → t.group? k = x.s.group? k) ∧
        (∀ k, t.launch? k = x.s.launch? k) ∧ g = { x.g with window := g.window, wpois := g.wpois } ∧
        u = { x.t with v := u.v, vx := u.vx, pend := u.pend, flags := u.flags, loads := u.loads, atoms := rest } ∧
        ((∀ r, q.ret = some r → r < 256) → u.vx = x.t.vx) ∧
        u.flags = each.foldl (fun f p => f ||| (atomF q.isF q.op p.2 p.1.b p.1.c).2) x.t.flags ∧ Delivered x.t u olds ∧
        (∀ l, l ∈ q.todo → word g l.ea = serve (word x.g l.ea) (q.todo.filter fun p => p.ea == l.ea)) ∧
        ∀ a, (∀ l, l ∈ q.todo → a < l.ea ∨ l.ea + 4 ≤ a) → g.window.read a = x.g.window.read a)

/-- Atomics of the team's own scope and of device scope (13 R238, R243 to R248). One of .t, with no atomic still to be served and room in
the buffer, is served at its issue in the team's own view: each word, none poisoned, reads there afterwards as the fold of the operation
over its lanes, each lane's old value is the word as it found it, and every other byte that the buffer holds stands; where the schedule
has it performed apart from its issue it is left to be served like the others. One of .d is outstanding like one of .g. A device-scope
reduction leaves the first operand on each word as its pending operation in the team's buffer and combines each later one, a reduction of
the same kind having pended there or none, with the flags of the combinations. A device-scope atomic of an unordered launch serves each
address in the die region as R243 gives. When an atomic is performed, address by address, is the model's schedule (notes/assumptions/1.md
and 4.md). -/
def Obligations.Atomics : Prop :=
  ∀ (x : Ctx), x.s.ctx? = some x →
    (∀ (o : AtomOp) (isF : Bool), x.Guarded o.h →
      (∀ l, l ∈ x.sel o.h → ∃ a, x.atomCheck o isF l = .ok a) →
      let size := if o.off.isSome then 16#64 else 8#64
      let lanes : List AtomLane := (x.sel o.h).map fun l => {
        lane := l
        ea := (((x.v l o.a.toNat).val.toNat : Int) + (o.off.map BitVec.toInt).getD 0).toNat
        b := (x.atomB o isF l).val, c := (x.v l o.c.toNat).val }
      let req := fun (ret : Bool) todo ws => ({
        scope := o.scope, isF := isF, op := o.op, ret := if ret then some o.d.toNat else none, todo := todo, ws := ws } : AtomReq)
      let is := fun (ret : Bool) (i : Instr) => i = if isF then (if ret then .atomf o else .redf o) else if ret then .atom o else .red o
      let done := fun (i : Instr) (u : Team) => ∃ t, exec i x.s = .next t ∧ x.Only t (x.measured lanes.length)
        { x.passed x.passes o.h.stall.toNat (x.t.pc + size) x.t.pend with buf := u.buf, flags := u.flags, atoms := u.atoms }
      let left := fun (q : AtomReq) => if lanes = [] then x.t.atoms else x.t.atoms ++ [q]
      let room := x.t.buf.length + lanes.length ≤ x.bufCap
      let each := fun {α : Type} (f : Nat → AtomLane → α) => (List.range lanes.length).filterMap fun k => (lanes[k]?).map (f k)
      (o.scope = .t → (∀ q, q ∈ x.t.atoms → q.todo = []) → x.t.late = false → room → (∀ e, e ∈ x.t.buf → e.sp = .win → e.reds = []) →
        let view := fun (t : Team) a => Ctx.locRead { x with t := t } .win a 4
        let word := fun t a => BitVec.ofNat 32 (leNat ((view t a).map Prod.fst))
        let serve := fun m (ls : List AtomLane) => ls.foldl (fun m l => (atomF isF o.op m l.b l.c).1) m
        let found := fun k (l : AtomLane) => serve (word x.t l.ea) ((lanes.take k).filter fun p => p.ea == l.ea)
        (∀ l, l ∈ lanes → ∀ b, b ∈ view x.t l.ea → b.2 = false) → ∀ ret i, is ret i →
        ∃ (u : Team) (ws : List RegWrite), done i u ∧ u.atoms = left (req ret [] ws) ∧
          u.flags = (each fun k l => (atomF isF o.op (found k l) l.b l.c).2).foldl (· ||| ·) x.t.flags ∧
          (∀ w, w ∈ ws ↔ ret = true ∧ ∃ k l, lanes[k]? = some l ∧ w = .v l.lane o.d.toNat { val := found k l, poi := false }) ∧
          (∀ l, l ∈ lanes → word u l.ea = serve (word x.t l.ea) (lanes.filter fun p => p.ea == l.ea)) ∧
          ∀ sp a, (∀ l, l ∈ lanes → sp ≠ .win ∨ a < l.ea ∨ l.ea + 4 ≤ a) → u.bufByte sp a = x.t.bufByte sp a) ∧
      (o.scope = .t → x.t.late = true → lanes ≠ [] → ∀ ret i, is ret i → done i { x.t with atoms := left (req ret lanes []) }) ∧
      (o.scope = .d → (x.spec = false ∨ lanes = []) → ∀ i, is true i → done i { x.t with atoms := left (req true lanes []) }) ∧
      (o.scope = .d → room →
        let pend := fun (t : Team) k => (findEntry t.buf (.die x.g.die) (k / 64)).bind (Entry.red? · (k % 64 / 4))
        let comb := fun (p : Option RedVal) (b : Word) => some (match p with
          | none => { isF := isF, op := o.op, bound := 0#32, val := b }
          | some p => { p with val := (atomF isF o.op p.val b 0#32).1 })
        let before := fun n k => (((lanes.take n).filter fun p => regionKey 0 p.ea == k).map AtomLane.b).foldl comb (pend x.t k)
        (∀ l e, l ∈ lanes → findEntry x.t.buf (.die x.g.die) (regionKey 0 l.ea / 64) = some e →
          e.bytesIn (regionKey 0 l.ea % 64 / 4) = false ∧
          ∀ r, e.red? (regionKey 0 l.ea % 64 / 4) = some r → r.isF = isF ∧ r.op = o.op ∧ r.bound = 0#32) → ∀ i, is false i →
        ∃ u : Team, done i u ∧ u.atoms = x.t.atoms ∧
          (∀ k, k % 4 = 0 → pend u k = before lanes.length k) ∧ (∀ sp a, u.bufByte sp a = x.t.bufByte sp a) ∧
          u.flags = (each fun n l => ((before n (regionKey 0 l.ea)).map fun p => (atomF isF o.op p.val l.b 0#32).2).getD 0#32).foldl
            (· ||| ·) x.t.flags)) ∧
    (∀ gi ti (q : AtomReq) rest, x.s.cur = some (gi, ti) → x.g.status = .running → x.t.phase = .running → x.t.atoms = q :: rest →
      q.scope = .d → q.ws = [] → x.c.ordered = false →
      (∀ l, l ∈ q.todo → x.s.served x.g.die (regionKey 0 l.ea) = true) →
      let key := fun ea => x.g.die * 2 ^ 28 + regionKey 0 ea
      (∀ l, l ∈ q.todo → dieOk l.ea 4 x.l.dsize = true ∧ l.ea % 4 = 0 ∧ poisonIn x.l.rpois (key l.ea) 4 = false) →
      let word := fun (m : Memory) ea => BitVec.ofNat 32 (leNat (m.readN (key ea) 4))
      let serve := fun m (ls : List AtomLane) => ls.foldl (fun m l => (atomF q.isF q.op m l.b l.c).1) m
      ∃ (t : State) (l' : Launch), exec (.atomicReturn gi ti) x.s = .next t ∧ t.mem = x.s.mem ∧ t.launch? x.l.id = some l' ∧
        (∀ l, l ∈ q.todo → word l'.region l.ea = serve (word x.l.region l.ea) (q.todo.filter fun p => p.ea == l.ea)) ∧
        ∀ a, (∀ l, l ∈ q.todo → a < key l.ea ∨ key l.ea + 4 ≤ a) → l'.region.read a = x.l.region.read a)

/-! ### Engines, handles and records -/

/-- Commands of the copy engine (16 R262, R264 to R268): where the handle holds no fault, the record passes its checks (an error met in
its words has been, 10 R193), the offset or the indices carry no poison, the image fits the slot, the queue has room and no earlier
command of the group waits for it, the command enters the queue with its snapshot and the handle goes FILLING (a fill, from FREE) or
DRAINING (a drain, from FREE or FULL, its check under way), and the instruction completes. -/
def Obligations.EngineCommands : Prop :=
  ∀ (x : Ctx) (hdl : BitVec 5) (r : BitVec 16) (bits : BitVec 512), x.s.ctx? = some x → (x.handle hdl).fault = none →
    let h := x.handle hdl
    let cmd := fun kind off idx slot => ({
      kind := kind, hdl := hdl.toNat, r := r.toNat, lrec := bits, lrec2 := 0#512, off := off, idx := idx, slot := slot
      team := x.t.idx, at_ := x.s.cycle } : Cmd)
    let taken := fun (c : Cmd) (h : Handle) =>
      ({ x with g := { x.g with cmds := x.g.cmds ++ [c], handles := x.g.handles.set hdl.toNat h } } : Ctx)
    let fillOk := fun (c : Cmd) => x.c.hsize ≥ c.need ∧ h.st = .free ∧ x.mayEnter = true
    let drainOk := fun (c : Cmd) => x.c.hsize ≥ c.need ∧ (h.st = .free ∨ h.st = .full) ∧ x.g.areaUsed < x.c.areaCap ∧ x.mayEnter = true
    let filling := fun c => taken c { h with st := .filling, prior := .free }
    let draining := fun c => taken c { h with st := .draining, chk := true }
    let indices := fun (v : BitVec 8) hd => (x.sel hd).map fun l => (x.v l v.toNat).val
    let passes := fun use => (x.s.metRecords x.im [r.toNat]).recordFor x.im r.toNat use = .ok bits
    (∀ stall b off, passes .cpin → x.sB b = { val := off, poi := false } →
      let c := cmd .cpin off.toInt [] (shadowSlot hdl.toNat h)
      fillOk c → exec (.cpin stall hdl r b) x.s = .next ((filling c).wentOn 16 stall)) ∧
    (∀ stall rop b off, passes (.cpout (rop != .st)) → x.sB b = { val := off, poi := false } →
      let c := cmd (.cpout rop) off.toInt [] (frontSlot hdl.toNat h)
      drainOk c → exec (.cpout stall rop hdl r b) x.s = .next ((draining c).wentOn 16 stall)) ∧
    (∀ hd v, x.Guarded hd → passes .gather → (∀ l, l ∈ x.sel hd → (x.v l v.toNat).poi = false) →
      let c := cmd .gather 0 (indices v hd) (shadowSlot hdl.toNat h)
      fillOk c → exec (.gather hd hdl r v) x.s = .next (((filling c).retireLanes 16 hd.stall (x.sel hd)).save)) ∧
    (∀ hd v, x.Guarded hd → passes .scatter → (∀ l, l ∈ x.sel hd → (x.v l v.toNat).poi = false) →
      let c := cmd .scatter 0 (indices v hd) (frontSlot hdl.toNat h)
      drainOk c → exec (.scatter hd hdl r v) x.s = .next (((draining c).retireLanes 16 hd.stall (x.sel hd)).save))

/-- Handles and records as instructions see them (16 R256, R269 to R272; 10 R182): hwait completes when the state is one that SMASK names,
hrel frees a FULL handle, hstat reads state, FAULT and CHECK or the tag. lrset completes with its 64 bytes, the eight scalars in order,
outstanding; performed, they stand in the record's place of main memory, its eight words poisoned no more, and every other byte and word
as before; one is performed after the earlier ones of its team to the same record. lfence completes when the team has none outstanding. -/
def Obligations.Handles : Prop :=
  (∀ (x : Ctx) (stall : BitVec 4), x.s.ctx? = some x →
    let next := x.t.pc + 8#64
    let code : HState → Nat := fun st => if st = .free then 0 else if st = .filling then 1 else if st = .full then 2 else 3
    (∀ hdl m, (x.handle hdl).fault = none → m.getLsbD (code (x.handle hdl).st) = true → GoesOn (.hwait stall hdl m) x 1 stall next id) ∧
    (∀ hdl, (x.handle hdl).fault = none → (x.handle hdl).st = .free → GoesOn (.hrel stall hdl) x 1 stall next id) ∧
    (∀ hdl, (x.handle hdl).fault = none → (x.handle hdl).st = .full →
      TeamDone (.hrel stall hdl) x stall next
        { x.g with handles := x.g.handles.set hdl.toNat { x.handle hdl with st := .free } } id noS) ∧
    (∀ d hdl, TeamDone (.hstatSt stall d hdl) x stall next x.g id (oneS x d
      { val := BitVec.ofNat 64 ((if (x.handle hdl).chk then 8 else 0) + (if (x.handle hdl).fault = none then 0 else 4) +
          code (x.handle hdl).st), poi := false })) ∧
    (∀ d hdl, TeamDone (.hstatTag stall d hdl) x stall next x.g id (oneS x d { val := (x.handle hdl).tag, poi := false })) ∧
    (∀ (sr : BitVec 6) (b : SrcB) (n : DWord), x.sB b = { val := n, poi := false } → x.spec = false → 0 ≤ n.toInt → n.toInt < x.im.nrecs →
      (∀ j, j < 8 → (x.sc (sr.toNat + j)).poi = false) →
      let w : LrWrite := { g := x.g.gid, t := x.t.idx, a := x.im.recs + 64 * n.toNat
                           bs := (List.range 8).flatMap fun j => leBytes 8 (x.sc (sr.toNat + j)).val.toNat }
      exec (.lrset stall sr b) x.s = .next (({ x with s := { x.s with lrq := x.s.lrq ++ [w] } } : Ctx).wentOn 8 stall) ∧
      ∀ j k, j < 8 → k < 8 → w.bs[8 * j + k]? = some ((x.sc (sr.toNat + j)).val.extractLsb' (8 * k) 8)) ∧
    ((∀ w, w ∈ x.s.lrq → ¬(w.g = x.g.gid ∧ w.t = x.t.idx)) → GoesOn (.lfence stall) x 1 stall next id)) ∧
  ∀ (s : State) (k : Nat) (w : LrWrite), s.lrq[k]? = some w → w.bs.length = 64 → w.a % 8 = 0 →
    (∀ j v, j < k → s.lrq[j]? = some v → ¬(v.g = w.g ∧ v.t = w.t ∧ v.a = w.a)) →
    let t := s.micro (.lrset k)
    t = { s with mem := t.mem, mpois := t.mpois, mbad := t.mbad, lrq := s.lrq.eraseIdx k } ∧
    (∀ j b, w.bs[j]? = some b → t.mem.read (w.a + j) = b) ∧ (∀ c, c < w.a ∨ w.a + 64 ≤ c → t.mem.read c = s.mem.read c) ∧
    ∀ q, (q ∈ t.mpois ↔ q ∈ s.mpois ∧ ¬(w.a / 8 ≤ q ∧ q < w.a / 8 + 8)) ∧ (q ∈ t.mbad ↔ q ∈ s.mbad ∧ ¬(w.a / 8 ≤ q ∧ q < w.a / 8 + 8))

/-! ### The matrix engine -/

/-- Tile instructions (17 R283, R293 to R297): each completes, the products of the team's matrix instructions that are outstanding being
made first (`z` holds them). mzero clears the octets' tiles, whose anchor pends or is set; mload puts the accumulators of a column group
with the flags of their conversion; mread delivers them converted, with the flags; mstore writes them to the team's buffer, where each
byte reads back, with room for three granules a lane, no reduction pending in the window, and no .t atomic before it still to write there
(05 R107). -/
def Obligations.TileMoves : Prop :=
  ∀ (x : Ctx) (h : Head) (tile : BitVec 4), x.s.ctx? = some x → x.Guarded h →
    let z := x.matsDone
    let octs := fun o : Nat => ∃ l, l ∈ x.sel h ∧ l / 8 = o
    let open_ := fun (i : Instr) (size : Nat) (flags : Word) (P : Team → Prop) => ∃ t u, exec i x.s = .next t ∧
      x.Only t (x.measured (x.sel h).length) u ∧
      u = { z.passed x.passes h.stall.toNat (x.t.pc + dwordOf size) x.t.pend with tiles := u.tiles, flags := flags } ∧
      (∀ o m, ¬(octs o ∧ m = tile.toNat) → o < 128 → m < 16 → u.tile o m = z.t.tile o m) ∧ P u
    let out := fun cv g l => z.readGroup tile (z.laneCv tile cv l) g l
    let outFlags := fun cv g => (x.sel h).foldl (fun f l => f ||| (out cv g l).2) z.t.flags
    z = { x with t := { x.t with tiles := z.t.tiles, flags := z.t.flags, mats := [] } } ∧ (x.t.mats = [] → z = x) ∧
    (∀ anchor, open_ (.mzero h tile anchor) 8 z.t.flags fun u => ∀ o, octs o →
      (∀ row col, (u.tile o tile.toNat).at row col = { v := 0, pz := false }) ∧ (u.tile o tile.toNat).conv = 0#2 ∧
      match anchor with
      | none => (u.tile o tile.toNat).pend = true
      | some a => (u.tile o tile.toNat).pend = false ∧ (u.tile o tile.toNat).anc = a.toInt) ∧
    (∀ vs g anchor, open_ (.mload h tile vs g anchor) 16
        ((x.sel h).foldl (fun f l => (List.range 8).foldl (fun f j => f ||| (x.loadAcc l (vs.toNat + 4 * j)).2) f) z.t.flags) fun u =>
      ∀ o, octs o →
        (u.tile o tile.toNat).pend = false ∧ (u.tile o tile.toNat).anc = anchor.toInt ∧
        ∀ row col, row < 8 → col < 32 → (u.tile o tile.toNat).at row col =
          if 8 * o + row ∈ x.sel h ∧ col / 8 = g.toNat then (x.loadAcc (8 * o + row) (vs.toNat + 4 * (col % 8))).1
          else (z.t.tile o tile.toNat).at row col) ∧
    (∀ d cv g, (∀ l, l ∈ x.sel h → d.toNat + (z.laneCv tile cv l).regs ≤ x.t.nregs) →
      let vals := fun l => (out cv g l).1.flatMap fun a => a.1.map fun v => ({ val := v, poi := a.2 } : VReg)
      ∃ t u, exec (.mread h d tile cv g) x.s = .next t ∧ x.Only t (x.measured (x.sel h).length) u ∧
        u = { z.passed x.passes h.stall.toNat (x.t.pc + 8#64) u.pend with flags := outFlags cv g } ∧
        ∀ cyc, (∀ l r, u.readV cyc l r =
            if x.On h l = true ∧ d.toNat ≤ r ∧ x.at_ l ≤ cyc then ((vals l)[r - d.toNat]?).getD (x.t.readV cyc l r)
            else x.t.readV cyc l r) ∧
          (∀ l r, r < 48 → u.readP cyc l r = x.t.readP cyc l r) ∧ ∀ r, u.readS cyc r = x.t.readS cyc r) ∧
    (∀ (a off : BitVec 8) (cv : Cv) (g : BitVec 2),
      let e : Nat → Int := fun l => ((x.v l a.toNat).val.toNat : Int) + 16 * off.toInt
      let n := fun l => (z.laneCv tile cv l).bytes
      let data := fun l => (out cv g l).1.flatMap fun q => (q.1.flatMap wordBytes).take (n l / 8)
      let byte := fun (t : Team) sp a => (t.bufByte sp a).map Prod.fst
      (∀ l, l ∈ x.sel h → (x.v l a.toNat).poi = false ∧ e l % 16 = 0 ∧ 0 ≤ e l ∧ e l + n l ≤ x.c.winSize x.g ∧
        ∀ q, q ∈ (out cv g l).1 → q.2 = false) →
      x.ClearStore .win ((x.sel h).map fun l => (l, (e l).toNat, n l)) →
      (∀ y, z.bufPuts ((x.sel h).flatMap fun l => storeEntries .win (e l).toNat (data l)) = .ok y →
        ∃ t, exec (.mstore h a off tile cv g) x.s = .next t) ∧
      ((∀ k, k ∈ x.t.buf → k.sp = .win → k.reds = []) → x.t.buf.length + 3 * (x.sel h).length ≤ x.bufCap →
        ∃ t conf bytes buf, exec (.mstore h a off tile cv g) x.s = .next t ∧
          x.Only t (x.accessed (x.sel h).length conf bytes)
            { z.passed x.passes h.stall.toNat (x.t.pc + 8#64) x.t.pend with buf := buf, flags := outFlags cv g } ∧
          (∀ b, byte { x.t with buf := buf } .win b = (x.sel h).foldl
            (fun v l => if (e l).toNat ≤ b ∧ b < (e l).toNat + n l then (data l)[b - (e l).toNat]? else v) (byte x.t .win b)) ∧
          ∀ sp b, sp ≠ .win → Team.bufByte { x.t with buf := buf } sp b = x.t.bufByte sp b))

/-- mma, mmas and mburst (17 R281 to R292, R299): with no fault on the handle, no poisoned operand, the votes passed, the A run within the
registers, B standing in the front slot as the handle is when the instruction issues (R285) and the quarters free, the products of every
fused set are accumulated and the instruction goes on, mmas with STEP 0; held to n steps before a point of pre-emption, an mmas stays at
its own address with STEP moved on, and its group is pre-empted (R291). The products are made at once, those of the team's outstanding
matrix instructions first, or, where the schedule has it so, the instruction is left outstanding, its A values and steps taken (R288).
With no lane selected they complete with nothing done but STEP. Each that issues counts an mburst's hold down. In a fused set every
accumulator of a participating lane is the sum of its products in ascending k. A granule of B that an outstanding instruction has read
stays as it was then. mburst sets or ends the hold; quarters that made no pass for 32 cycles, and that no team's hold begun before they
were idle keeps, are idle (R299). When the quarters are free and how long they are taken is notes/assumptions/55.md (DEDUCED). -/
def Obligations.MatrixProducts : Prop :=
  ∀ (x : Ctx) (o : MmaOp), x.s.ctx? = some x → x.Guarded o.h →
    let lanes := x.sel o.h
    let sets := x.fusedSets o lanes
    let h := x.handle o.b.hdl
    let run := sets.foldl (fun n s => max n s.fw.aRun) 8
    let sc := sets.any fun s => s.fw.bty == .q4
    let agree := (∀ l m, l ∈ lanes → m ∈ lanes → l / 8 = m / 8 → x.matOfs o l = x.matOfs o m) ∧
      (∀ l m, l ∈ lanes → m ∈ lanes → x.setKey o l = x.setKey o m → (x.matWord o l).val = (x.matWord o m).val) ∧
      ∀ s, s ∈ sets → ∃ f, FWord.of s.word = some f ∧ o.a.toNat + f.aRun ≤ x.t.nregs
    let placed := (∃ hd vo, o.b = .handle hd vo ∧ ∀ s, s ∈ sets → s.ofs % 64 = 0 ∧ s.ofs + s.need ≤ x.c.hsize) ∨
      ∃ hd r st, o.b = .tile hd r st ∧ (if sc then 1088 else 1024) ≤ x.c.hsize
    let stands := (∃ hd vo, o.b = .handle hd vo ∧ (h.st = .full ∨ h.st = .draining)) ∨
      ∃ hd r st recs, o.b = .tile hd r st ∧ (x.metTile r sc).tileRecords r (sets.map fun s => s.fw.cls) sc = .ok recs ∧
        Ctx.tagServes h.tag r (x.sc st.toNat).val sc = true ∧ (h.st = .full ∨ h.st = .filling)
    let front := fun fr => h.fault = none ∧ stands ∧ fr = frontSlot o.b.hdl.toNat h
    let down := fun (u : Team) =>
      { u with burst := u.burst.bind fun b => if b.left ≤ 1 then none else some { b with left := b.left - 1 } }
    let idle := fun (u : Team) => (({ x with t := down u } : Ctx).retireLanes 16 o.h.stall []).save
    let made := fun (w : Ctx.MatWork) (fr : Nat) (f : Ctx → Nat → State) =>
      let sch := Ctx.matSchedule (x.s.slotOf x.slot).matFree x.t.t0 (x.matPasses lanes sets w.cycles)
      let at_ := fun l => x.passing sch.1 l
      let y : Ctx :=
        if x.t.late = true then { x with t := { x.t with mats := x.t.mats ++ [{
          tile := o.tile, slot := fr, base := fr * x.c.hsize
          sets := sets.map fun s => (s.lanes, s.ofs, s.word, s.fw.bBytes)
          regs := sets.flatMap fun s => s.lanes.map fun l => (l, (at_ l).matA o run l)
          ks := sets.flatMap fun s => s.lanes.map fun l => (l, w.steps (at_ l) s.fw l) }] } }
        else sets.foldl (fun y s => y.matSet x.slotByte o.tile (fr * x.c.hsize) (fun l => (at_ l).matA o run l)
          (fun f l => w.steps (at_ l) f l) s) x.matsDone
      f (({ y with t := { y.t with latch := x.latched o run } } : Ctx).matTaken sch.2) ((sch.1.getLast?).getD x.t.t0 + 1 - x.t.t0)
    let goes := fun (ends : Team → Team) (z : Ctx) span => (({ z with t := down (ends z.t) } : Ctx).retireIn span 16 o.h.stall lanes).save
    let dense : Ctx.MatWork :=
      { steps := fun _ f _ => List.range (matK f.cls), cycles := fun _ => 4, more := fun _ => false, ends := id }
    (lanes = [] → h.fault = none →
      exec (.mma o) x.s = .next (idle x.t) ∧ ∀ vm sm, exec (.mmas o vm sm) x.s = .next (idle { x.t with step := 0 })) ∧
    (∀ fr, lanes ≠ [] → x.matPoison o lanes (fun _ => false) false = [] → agree → placed → front fr →
      x.matStart (x.matPasses lanes sets dense.cycles) ≤ x.t.t0 → exec (.mma o) x.s = .next (made dense fr (goes id))) ∧
    (∀ fr vm sm, lanes ≠ [] → x.matPoison o lanes (fun l => (x.aMask vm l).poi) (x.sc sm.toNat).poi = [] → agree → placed → front fr →
      let w := x.sparseWork o vm sm
      x.matStart (x.matPasses lanes sets w.cycles) ≤ x.t.t0 →
      (w.more sets = false → exec (.mmas o vm sm) x.s = .next (made w fr (goes fun u => { u with step := 0 }))) ∧
      (∀ n, x.t.quota = some n → w.more sets = true → exec (.mmas o vm sm) x.s = .next (made w fr fun z span =>
        let y := z.issued span 0
        State.preemptGroup
          ({ y with t := { y.t with step := x.t.step + n, retry := x.t.retry } } : Ctx).save x.g.gid))) ∧
    (∀ (rd : Nat → Byte × Bool) (fr : Nat) (regs : Nat → List VReg) (steps : FWord → Nat → List Nat) (s : Ctx.FusedSet), s.lanes.Nodup →
      let y := x.matSet rd o.tile fr regs steps s
      ∀ oct row col, row < 8 → col < 32 →
        let a := (x.t.tile oct o.tile.toNat).at row col
        let anc := (Ctx.matOpen s.fw (x.t.tile oct o.tile.toNat)).anc
        let l := 8 * oct + row
        (y.t.tile oct o.tile.toNat).at row col = if l ∈ s.lanes then
            (steps s.fw l).foldl (fun a k => (Ctx.accAdd anc a (Ctx.elemA s.fw (regs l) k) (Ctx.elemB rd s.fw (fr + s.ofs) k col)).1) a
          else a) ∧
    (∀ (r : MatReq) (gran : Nat) (a : Nat), a < 64 →
      ∀ y : Ctx, y.reqByte (x.readGran r gran) (64 * gran + a) = x.reqByte r (64 * gran + a)) ∧
    (x.s.quartersIdle x.slot x.t.t0 = true ↔ ∀ m, (x.s.slotOf x.slot).matLast = some m → m + 32 ≤ x.t.t0 ∧
      ∀ g t b, g ∈ x.s.groups → g.status = .running → t ∈ g.teams → t.phase = .running → slotKey g.die g.core t.slot = x.slot →
        t.burst = some b → b.since + 4096 ≤ x.t.t0 ∨ (m + 32 ≤ b.since ∧ t.mburstAt ≠ none)) ∧
    (∀ stall b n, x.sB b = { val := n, poi := false } →
      GoesOn (.mburst stall b) x 1 stall (x.t.pc + 8#64) fun u =>
        { u with
          burst := if n = 0#64 then none else some { left := min n.toNat 65535, since := x.t.t0 }
          mburstAt := if n ≠ 0#64 ∧ x.s.quartersIdle x.slot x.t.t0 = true then some x.t.t0 else none })

/-- Paired issue (02 R37, R38; 01 R18): both operations of a well-formed pair complete together. Each reads its sources as they stand
before the pair, and gives the registers and flags that its own instruction would give alone, ready at that instruction's own latency; the
pair's team reads both operations' results and otherwise as before. -/
def Obligations.PairedIssue : Prop :=
  ∀ (x : Ctx) (p q : PairHalf), x.s.ctx? = some x → (Instr.pairedIssue p q).wf = true →
    (∀ h, p.head = some h ∨ q.head = some h → x.Guarded h) →
    let lat := fun (k : PairHalf) => match k with
      | .flt _ _ => 6
      | .smov _ => 2
      | _ => 4
    let alone := fun (k : PairHalf) (v : Nat → Nat → Option VReg) (pr : Nat → Nat → Option PReg) (s : Nat → Option (Nat × SReg))
        (fs : List (Nat × Word)) => match k with
      | .int op o => LanesDone (op.instr o) x o.h 8 4 v pr fs ∧ s = noS
      | .flt op o => LanesDone (op.instr o) x o.h 8 6 v pr fs ∧ s = noS
      | .vbcast o => LanesDone (.vbcast o) x o.h 8 4 v pr fs ∧ s = noS
      | .smov o => SclDone (.smov o) x o (x.sB o.b).val (x.sB o.b).poi ∧ s = oneS x o.d (x.sB o.b) ∧ v = noV ∧ pr = noP ∧ fs = []
    let on := fun {α : Type} (k : PairHalf) (f : Nat → Nat → Option α) (l r : Nat) =>
      (k.head.bind fun h => if x.On h l then (f l r).map fun y => (x.at_ l + lat k, y) else none : Option (Nat × α))
    let flags := fun (k : PairHalf) (fs : List (Nat × Word)) => fs.map fun f => (x.at_ f.1 + lat k, f.2)
    let guarded := p.head.isSome || q.head.isSome
    let lanes := ((p.head.map x.sel).getD [] ++ (q.head.map x.sel).getD []).eraseDups
    ∃ vp pp sp fp vq pq sq fq, alone p vp pp sp fp ∧ alone q vq pq sq fq ∧
      ∃ t u, exec (.pairedIssue p q) x.s = .next t ∧ x.Only t (if guarded then x.measured lanes.length else x.g) u ∧
        u = x.passed (if guarded then x.passes else 1) p.stall.toNat (x.t.pc + 16#64) u.pend ∧
        Reads x.t u (fun l r => (on p vp l r).orElse fun _ => on q vq l r) (fun l r => (on p pp l r).orElse fun _ => on q pq l r)
          (fun r => (sp r).orElse fun _ => sq r) (flags p fp ++ flags q fq)

/-! ### Steps of the device: teams -/

/-- Results and returns (01 R18 to R23, 06 R120, 10 R188, 13 R244): RESULT_READY changes no read at or after the cycle and leaves no
result that is ready. LOAD_RETURN performs the oldest load of a path, where it is not performed yet, may be performed as far as the
earlier loads go, and its cores serve it: each byte comes from the team's own buffer as it stood at the issue, then from the window, the
slot, the commit area or the region (y holds the reads noted, 12 R225); its values are delivered in the lanes named, and the load is over
with its last lane. ATOMIC_RETURN delivers a served atomic's old values. A write of a register that the machine does not have, which a
translated Eceel block may leave, goes to that block's own registers (notes/assumptions/56.md). When a load or an atomic is performed is
the model's schedule (4.md), and that an ldd is served by the operand of a reduction that pends in the commit area is DEDUCED (41.md). -/
def Obligations.Returns : Prop :=
  (∀ (s : State) (gi ti : Nat) (g : Group) (t : Team), s.team? gi ti = some (g, t) → g.status = .running → t.phase = .running →
    let now := s.clockOf g t
    (∃ e, e ∈ t.pend ∧ e.ready ≤ now) →
      ∃ u, exec (.resultReady gi ti) s = .next (s.setGroup (g.setTeam u)) ∧
        u = { t with v := u.v, p := u.p, s := u.s, vx := u.vx, px := u.px, sx := u.sx, flags := u.flags, pend := u.pend } ∧
        (∀ e, e ∈ u.pend → e ∈ t.pend ∧ now < e.ready) ∧ ((∀ e, e ∈ t.pend → e.w.Native) → Team.SameVirtual t u) ∧
        ∀ cyc, now ≤ cyc → u.flagsAt cyc = t.flagsAt cyc ∧ (∀ r, r < 256 → u.readS cyc r = t.readS cyc r) ∧
          (∀ l r, r < 256 → u.readV cyc l r = t.readV cyc l r) ∧ ∀ l r, r < 48 → u.readP cyc l r = t.readP cyc l r) ∧
  ∀ (s : State) (gi ti : Nat) (x : Ctx), ({ s with cur := some (gi, ti) } : State).ctx? = some x → x.g.status = .running →
    x.t.phase = .running →
    let becomes := fun (i : Instr) (g : Group) (u : Team) => ∃ t, exec i s = .next t ∧
      t = { s with groups := t.groups, launches := t.launches, cur := none } ∧ t.group? x.g.gid = some (g.setTeam u) ∧
      (∀ k, k ≠ x.g.gid → t.group? k = s.group? k) ∧ ∀ k, t.launch? k = s.launch? k
    let delivers := fun (path : Path) (lanes : LaneSet) (k : Nat) (l : Load) (g : Group) (ws : List RegWrite) =>
      let rest := ws.filter fun w => !lanes.getLsbD w.lane
      ∃ u, becomes (.loadReturn gi ti path lanes) g u ∧ Delivered x.t u (ws.filter fun w => lanes.getLsbD w.lane) ∧
        ((∀ w, w ∈ ws → w.Native) → Team.SameVirtual x.t u) ∧
        u = { x.t with
          v := u.v, p := u.p, s := u.s, vx := u.vx, px := u.px, sx := u.sx, flags := u.flags, pend := u.pend
          loads := (if rest = [] then [] else [{ path := path, dst := l.dst, todo := [], ws := rest }]) ++ x.t.loads.eraseIdx k }
    (∀ (path : Path) (lanes : LaneSet) (k : Nat) (l : Load), (x.t.loads.findIdx? fun m => m.path == path) = some k →
      x.t.loads[k]? = some l →
      (l.todo = [] → delivers path lanes k l x.g l.ws) ∧
      (∀ y, l.todo ≠ [] → x.t.loadFree k = true → x.loadServed k = true →
        x.noteReads ((l.todo.flatMap x.regionKeys).map fun a => .gran x.g.die (a / 64)) = some y →
        delivers path lanes k l y.g (l.ws ++ l.todo.flatMap fun p => loadWrites p.lane p.r p.sx (x.partBytes p)))) ∧
    (∀ (p : LoadPart) (i : Nat), i < p.own.length →
      let at_ := p.a + i
      (x.partBytes p)[i]? = some (match (p.own[i]?).getD none, p.sp with
        | some b, _ => b
        | none, .win => (x.g.window.read at_, poisonIn x.g.wpois at_ 1)
        | none, .slot => (x.g.harea.read at_, poisonIn x.g.hpois at_ 1)
        | none, .die d => (x.areaByte at_).getD (x.l.region.read (d * 2 ^ 28 + at_), poisonIn x.l.rpois (d * 2 ^ 28 + at_) 1))) ∧
    (∀ (q : AtomReq) rest, x.t.atoms = q :: rest → q.todo = [] →
      ∃ u, becomes (.atomicReturn gi ti) x.g u ∧ Delivered x.t u q.ws ∧
        ((∀ w, w ∈ q.ws → w.Native) → Team.SameVirtual x.t u) ∧
        u = { x.t with v := u.v, p := u.p, s := u.s, vx := u.vx, px := u.px, sx := u.sx, flags := u.flags, pend := u.pend, atoms := rest })

/-- Time passing for a team (07 R141 to R144, 17 R299): promotion after 4,096 ready cycles, the end of a yield after 64 and of an mburst's
hold after 4,096; a vgrow that asks first and fits, its group not being stopped for a pre-emption, is granted, the registers that it adds
reading 0: it is tried again, and the group holds no reserve for it. -/
def Obligations.TeamTimers : Prop :=
  ∀ (s : State) (gi ti : Nat) (g : Group) (t : Team), s.team? gi ti = some (g, t) → g.status = .running → t.phase = .running →
    let now := s.clockOf g t
    let becomes := fun (i : Instr) (u : Team) => exec i s = .next (s.setGroup (g.setTeam u))
    (∀ r, t.promoted = none → t.readySince = some r → r + 4096 ≤ now →
      becomes (.teamPromotion gi ti) { t with promoted := some now }) ∧
    (∀ y, t.yielding = some y → y.since + 64 ≤ now → becomes (.yieldExpiry gi ti) { t with yielding := none }) ∧
    (∀ b, t.burst = some b → b.since + 4096 ≤ now → becomes (.mburstHoldExpiry gi ti) { t with burst := none }) ∧
    (∀ n l c, t.wait = some (.vgrow n) → g.stop = false → s.launch? g.launch = some l → s.chartOf l g = some c → s.firstAsk g t = true →
      t.pend = [] →
      g.regsOn c.width t.slot + c.width * (n - t.nregs) ≤ 65536 → c.width * (n - t.nregs) ≤ s.freeRegs g.die g.core t.slot →
      ∃ u, exec (.vgrowGrant gi ti) s = .next (s.setGroup { g.setTeam u with grow := g.grow.filter fun e => e.1 != ti }) ∧
        u = { t with v := u.v, nregs := n, wait := some .again, readySince := none } ∧
        ∀ cyc lane r, r < 256 → u.readV cyc lane r = if r < t.nregs then t.readV cyc lane r else { val := 0#32, poi := false })

/-- Traps that the device raises in a team (12 R227, 08 R172; 05 R111): a held trap once the group is speculative no more, and QUEUE where
the only team left waits at a barrier or a queue for good, its group not being stopped for a pre-emption: the team enters the handler, its
frame keeping the pc. That the lanes and address of that QUEUE read 0 is the model's choice (notes/assumptions/64.md). -/
def Obligations.DeviceTraps : Prop :=
  ∀ (s : State) (gi ti : Nat) (x : Ctx), ({ s with cur := some (gi, ti) } : State).ctx? = some x →
    x.t.idx = ti → x.g.status = .running → x.t.phase = .running → x.spec = false → x.c.hndl = true → x.t.inhandler = false →
    let enters := fun (i : Instr) (cause : Cause) (lanes : LaneSet) (addr : DWord) => ∃ t g u, exec i s = .next t ∧
      t.team? gi ti = some (g, u) ∧ u.inhandler = true ∧ u.pc = dwordOf x.c.handler ∧ u.frame.cause = cause ∧ u.frame.pc = x.t.pc ∧
      u.frame.lanes = lanes ∧ u.frame.addr = addr ∧ u.frame.mask = x.t.mask ∧ u.held = none ∧ u.wait = none ∧ t.mem = s.mem
    (∀ h, x.t.held = some h → enters (.deferredTrapDelivery gi ti) h.cause h.lanes h.addr) ∧
    (x.g.stop = false → x.g.stuck x.t = true → (∀ (j : Nat) (k : Team), x.g.teams[j]? = some k → j ≠ ti → k.phase = .ended) →
      enters (.deadlockDetect gi) 0x0E#8 0#1024 0#64)

/-! ### Steps of the device: cutting and distribution -/

/-- Band formation, re-cut and measurements (08 R153 to R159, 12 R216, R217; 21 R329): a band's groups are the tiles of the cut in force,
each with its corner's timestamp and key, and the next band begins at its top; a re-cut takes the cut that Recut gives for the last 64
measures, which never passes the volume limit and keeps to the bearings allowed; a die's oldest measures travel to the home die, one step
to each. -/
def Obligations.Cutting : Prop :=
  ∀ (s : State) (lid : Nat) (l : Launch) (c : Chart), s.launch? lid = some l → s.rootChart l = some c →
    (s.bandDue lid = true →
      let cut := l.nextCut c
      ∃ t gs, exec (.bandForm lid) s = .next t ∧ t.groups = s.groups ++ gs ∧ t.mem = s.mem ∧
        gs.map (fun (g : Group) => (g.org, g.ext)) = cut.bandTiles c ∧
        (∀ g : Group, g ∈ gs → g.launch = lid ∧ g.chart = l.chart ∧ g.isRec = false ∧ g.status = .share ∧
          g.ts = c.tsAt (c.corner g.org g.ext) ∧ g.key = cutKey g.ts (linear c.space g.org)) ∧
        (t.launch? lid).map Launch.origin = some (cut.bandTop c)) ∧
    (s.recutDue lid = true →
      let cut := c.recut (l.held.drop (l.held.length - 64)) l.shape l.bearing
      (prodL l.shape ≤ c.vmaxEff → prodL cut.1 ≤ c.vmaxEff) ∧ (l.bearing ∈ c.bearings → cut.2 ∈ c.bearings) ∧
      exec (.recut lid) s = .next (s.setLaunch
        { l with
          shape := cut.1, bearing := cut.2, cutno := if cut = (l.shape, l.bearing) then l.cutno else l.cutno + 1, held := []
          markVol := l.dvol })) ∧
    (∀ die f, l.fwd.find? (fun f => f.1 == die) = some f → s.islandOn (ctlIsland die) = true →
      (die = l.home → exec (.sextantForward lid die) s = .next
        (s.setLaunch { l with fwd := l.fwd.erase f, held := holdMeas f.2 l.held })) ∧
      (die ≠ l.home → ∃ t p, exec (.sextantForward lid die) s = .next t ∧ t.packets = s.packets ++ [p] ∧ p.src = die ∧
        p.dst = l.home ∧ p.what = .measure lid f.2.1 f.2.2 ∧ t.launches = (s.setLaunch { l with fwd := l.fwd.erase f }).launches))

/-- The tiles of a band cover it (08 R153, R154): whatever the bearing, every point of the band lies in exactly one of its groups. -/
def Obligations.BandsPartition : Prop :=
  ∀ (l : Launch) (c : Chart) (p : List Nat), c.rank ≤ 4 → (∀ d, d < 4 → 1 ≤ nth l.shape d 1) →
    l.origin ≤ nth p c.z → nth p c.z < l.bandTop c → (∀ d, d < 4 → d ≠ c.z → nth p d < nth c.space d 1) →
    ((l.bandTiles c).filter fun t => (List.range 4).all fun d =>
      decide (nth t.1 d ≤ nth p d ∧ nth p d < nth t.1 d + nth t.2 d)).length = 1

/-- Shares (21 R329 to R333): a core with no group that it can start draws from the head of the share, one in 128 of it rounded up (that
record groups which wait for another of their key stand back is notes/assumptions/61.md); groups that it cannot start return to the head;
the counts go to every other die; a thief asks the die of which it has heard the most; a victim gives the half of its share, rounded up,
from the tail, to the requests in the order of their arrival; the groups arrive at the tail. Of one cycle's operations draws come first,
in ascending order of the cores, and arrivals last. -/
def Obligations.Distribution : Prop :=
  ∀ (s : State) (lid die core : Nat) (l : Launch), s.launch? lid = some l → die < l.shares.length →
    let sh := l.share die
    let share := fun (t : State) => (t.launch? lid).map fun k => k.share die
    (s.keyFree (s.core die core).drawn = [] → s.mayDraw l die core = true →
      (∀ m, m ∈ s.launches → m.id ≠ lid → s.mayDraw m die core = true → s.before l m = true) →
      let taken := (s.keyFree sh).take (max 1 ((sh.length + 127) / 128))
      ∃ t, exec (.shareDraw lid die core) s = .next t ∧ (t.core die core).drawn = (s.core die core).drawn ++ taken ∧
        share t = some (sh.filter fun i => !taken.contains i) ∧
        (∀ g : Group, g ∈ t.groups → g.gid ∈ taken → g.status = .drawn ∧ g.core = core ∧ g.drawn = true) ∧ t.mem = s.mem ∧
        (die < s.desks.length → ∀ r, t.deskFree die r = true ↔ drawRank core ≤ r)) ∧
    ((∀ i g, i ∈ sh → s.group? i = some g → g.isRec = false) → s.keyFree sh = sh) ∧
    (s.mayDraw l die core = true → s.deskFree die (drawRank core) = true) ∧
    (∀ a b v w, a < b → b < 64 → v < w → w < 4 → drawRank a < drawRank b ∧ drawRank b < stealRank v ∧ stealRank v < stealRank w ∧
      stealRank w < arrivalRank) ∧
    (s.localDue lid die core = true →
      let mine := (s.core die core).drawn.filter fun i => (s.group? i).any fun g => g.launch == lid
      ∃ t, exec (.localListReturn lid die core) s = .next t ∧ share t = some (mine ++ sh) ∧
        (t.core die core).drawn = (s.core die core).drawn.filter fun i => !mine.contains i) ∧
    (s.exchangeDue lid die = true →
      ∃ t ps, exec (.shareCountExchange lid die) s = .next t ∧ t.packets = s.packets ++ ps ∧
        ps.map (fun (p : Packet) => (p.src, p.dst, p.what)) = (l.dies.filter (· != die)).map fun d => (die, d, .counts lid die sh.length)) ∧
    (∀ v, s.stealFrom lid die = some v →
      (v ∈ l.dies ∧ v ≠ die ∧ ∀ d, d ∈ l.dies → d ≠ die → l.heard die d ≤ l.heard die v) ∧
      ∃ t p, exec (.stealRequest lid die) s = .next t ∧ t.packets = s.packets ++ [p] ∧ p.src = die ∧ p.dst = v ∧
        p.what = .stealReq lid die ∧ (t.launch? lid).map Launch.steals = some (l.steals.set die (some v))) ∧
    (∀ q c, l.nextThief die = some q → s.rootChart l = some c → s.serveDue lid die = true →
      let keep := sh.length - (sh.length + 1) / 2
      (q ∈ l.inbox ∧ q.1 = die ∧ ((∀ p, p ∈ l.inbox → p.2.2 < 4) → ∀ p, p ∈ l.inbox → p.1 = die →
        q.2.1 < p.2.1 ∨ (q.2.1 = p.2.1 ∧ q.2.2 ≤ p.2.2))) ∧
      ∃ t p, exec (.stealServe lid die) s = .next t ∧ share t = some (sh.take keep) ∧ t.packets = s.packets ++ [p] ∧
        p.dst = q.2.2 ∧ p.what = .stealRep lid (sh.drop keep)) ∧
    (∀ r, l.replies.find? (fun r => r.1 == die) = some r → s.unplaced l r.2 = r.2 → s.replyDue lid die = true →
      ∃ t, exec (.stealReply lid die) s = .next t ∧ share t = some (sh ++ r.2) ∧
        ∀ g : Group, g ∈ t.groups → g.gid ∈ r.2 → g.die = die)

/-! ### Steps of the device: groups -/

/-- Dispatch and what follows it (08 R162 to R165, 01 R10, R11, 20 R320 to R322; 12 R223, 16 R263): a dispatched group is a fresh one, its
teams at their entry points, the scalars s32 to s63 holding the launch's arguments and, in a record group, v0 to v15 the fields of the
lane's record, every other register 0; a saved one goes on as it stood; none of an ousted launch, and no record group while another of its
key is active, is started (21 R330, 12 R223); a preload's image goes into the window at its place, and a loading group runs when its
preloads are made. -/
def Obligations.Dispatching : Prop :=
  ∀ (s : State) (die core : Nat),
    (∀ x, s.nextStart die core = some x → (s.core die core).ousted.contains x.g.launch = false ∧ s.keyTaken x.g = false) ∧
    (∀ x, s.nextStart die core = some x → (x.s.group? x.g.gid).isSome = true →
      let pos := x.s.seats die core x.slots
      (x.g.saved = false → ∃ t g, exec (.groupDispatch die core) s = .next t ∧ t.group? x.g.gid = some g ∧ g.status = .loading ∧
        g.core = core ∧ g.window = [] ∧ g.harea = [] ∧ g.carea = [] ∧ g.committed = false ∧ g.teams.length = x.slots.length ∧
        g.handles = List.replicate x.c.hcount Handle.free ∧ g.queues = List.replicate x.c.qcount { entries := [], allow := x.c.qdepth } ∧
        t.mem = s.mem ∧
        ∀ (i : Nat) (k : Team), g.teams[i]? = some k →
          k.idx = i ∧ k.nregs = x.c.regs ∧ k.slot = nth x.slots i ∧ k.pos = nth pos i ∧ k.flags = 0#32 ∧ k.tctl = 0#32 ∧ k.p = [] ∧
          k.pend = [] ∧ k.mstack = [] ∧ k.rstack = [] ∧ k.buf = [] ∧ k.spill = [] ∧ k.inhandler = false ∧
          (k.stage = 0 → k.pc = dwordOf x.c.entry ∧ k.mask = lanesTo (min x.c.width (x.g.vol - i * x.c.width))) ∧
          (k.stage ≠ 0 → k.pc = dwordOf (nth x.c.sent (k.stage - 1)) ∧ k.mask = lanesTo x.c.width) ∧
          (∀ cyc r, r < 64 → k.readS cyc r =
            { val := if r < 32 then 0#64 else dwordOf (leNat ((x.l.args.drop (8 * (r - 32))).take 8)), poi := false }) ∧
          (x.g.isRec = false → k.v = []) ∧
          (x.g.isRec = true → ∀ cyc lane r, lane < x.c.width → r < 256 → k.readV cyc lane r =
            { val := if r < 16 then ((x.g.recs[i * x.c.width + lane]?).bind fun q => q.words[r]?).getD 0#32 else 0#32, poi := false })) ∧
      (x.g.saved = true → ∃ t g, exec (.groupResume die core) s = .next t ∧ t.group? x.g.gid = some g ∧ g.saved = false ∧ g.core = core ∧
        g.window = x.g.window ∧ g.harea = x.g.harea ∧ g.carea = x.g.carea ∧ g.handles = x.g.handles ∧ g.queues = x.g.queues ∧
        g.bars = x.g.bars ∧ g.teams.length = x.g.teams.length ∧ t.mem = s.mem ∧
        ∀ (i : Nat) (k u : Team), x.g.teams[i]? = some k → g.teams[i]? = some u →
          u = { k with
            slot := u.slot, pos := u.pos, phase := u.phase, busy := u.busy, earliest := u.earliest, readySince := u.readySince } ∧
          (u.phase = .ended ↔ k.phase = .ended))) ∧
    (∀ gi h, s.preloadDone gi = some h →
      ∃ t g, exec (.preloadComplete gi) s = .next t ∧ t.group? gi = some g ∧ g.status = .running ∧ g.window = h.g.window ∧
        g.wpois = h.g.wpois ∧ g.reads = h.g.reads ∧ g.teams.length = h.g.teams.length ∧ (∀ k, k ∈ g.teams → k.phase = .running) ∧
        t = h.s.setGroup g ∧ s.Engined h.s) ∧
    (∀ (g : Group) (es : List FillElem) (k : Cmd),
      let covers := fun (e : FillElem) a => e.ofs ≤ a ∧ a < e.ofs + e.bytes.length
      let w := (g.preloaded es k).window
      (∀ a, (∀ e, e ∈ es → ¬ covers e a) → w.read a = g.window.read a) ∧
      ∀ e i b, e ∈ es → e.bytes[i]? = some b → (∀ e', e' ∈ es → covers e' (e.ofs + i) → e' = e) → w.read (e.ofs + i) = b) ∧
    (∀ gi g c, s.groupChart? gi = some (g, c) → g.status = .loading → g.preFault = none → g.pres = [] → g.meas.start ≤ s.cycle →
      exec (.preloadComplete gi) s = .next (s.setGroup (s.startTeams g)))

/-- The checks of preloads and postloads, the group commit and the end of a group (08 R164, 11 R204, R205, R210, 12 R227, R228, 16 R268,
20 R313). A preload's fault is held while the group is speculative, and ends the group otherwise. A group commit writes the bytes of the
commit area to the die region and combines its reductions there, writes the elements of its drains to main memory, poisons and counts the
granules that another commit contested, contests those of its own write set that other active groups hold, and aborts the later groups of
an ordered launch whose reads it meets; the final one takes the group out of the active groups. That each commit counts the granules that
it poisons is DEDUCED (notes/assumptions/67.md). -/
def Obligations.GroupEnds : Prop :=
  ∀ (s : State) (gi : Nat),
    (∀ g cause a, s.preFaultNow gi = some (g, cause, a) →
      (s.isSpec g = true → exec (.preloadFault gi) s = .next (s.setGroup { g with preFault := some (cause, a) })) ∧
      (s.isSpec g = false → exec (.preloadFault gi) s = .next (s.endGroup gi cause 0xFFFFFFFF#32 0#64 a))) ∧
    (∀ g c, s.groupChart? gi = some (g, c) → s.postDue gi = true →
      ∃ ps u, exec (.postloadCheckDone gi) s = .next (u.setGroup { g with posts := some ps }) ∧ s.Engined u ∧ ps.length = c.post.length ∧
        ∀ (j : Nat) (k : Option PostChk), ps[j]? = some k → (k = none ↔ c.post[j]? = some none)) ∧
    (s.finalDue gi = true →
      ∃ t g, exec (.groupCommit gi) s = .next t ∧ t.mem = (s.groupCommit gi true).mem ∧ t.launches = (s.groupCommit gi true).launches ∧
        t.service = s.service ∧ t.group? gi = some g ∧ g.status = .done ∧ g.teams = [] ∧ g.window = [] ∧ g.carea = []) ∧
    (∀ g l c final, s.group? gi = some g → s.launch? g.launch = some l → s.chartOf l g = some c →
      let t := s.groupCommit gi final
      let key := fun (d : Nat) (e : Entry) ofs => d * 2 ^ 28 + e.gran * 64 + ofs
      let puts := fun a v => ∃ e d x, e ∈ g.carea ∧ e.sp = .die d ∧ x ∈ e.bytes ∧ key d e x.1 = a ∧ x.2 = v
      let reds := g.carea.flatMap fun e => match e.sp with
        | .die d => e.reds.map fun x => (key d e (4 * x.1), x.2)
        | _ => []
      let quiet := fun a => ∀ x, x ∈ reds → a < x.1 ∨ x.1 + 4 ≤ a
      let bad := ((g.writeSet c final).map Prod.fst).filter fun k => g.contested.contains k
      ∃ m h, t.launch? g.launch = some m ∧ t.group? gi = some h ∧
        (∀ a, (∀ v, ¬ puts a v) → quiet a → m.region.read a = l.region.read a) ∧
        (∀ a v, puts a v → (∀ w, puts a w → w = v) → quiet a → m.region.read a = v) ∧
        (∀ a r, reds.filter (fun x => decide (x.1 < a + 4 ∧ a < x.1 + 4)) = [(a, r)] → (∀ j v, j < 4 → ¬ puts (a + j) v) →
          (∀ e, e ∈ g.carea → e.poi = []) → poisonIn l.rpois a 4 = false →
          m.region.readN a 4 = leBytes 4 (atomF r.isF r.op (BitVec.ofNat 32 (leNat (l.region.readN a 4))) r.val 0#32).1.toNat) ∧
        (g.drains = [] → final = false ∨ g.goodPosts c = [] → t.mem = s.mem) ∧
        (∀ d, g.drains = [d] → final = false → d.kind.rop = 0 →
          let es := (LRec.ofBits d.lrec).es
          (∀ (i : Nat) e, d.map[i]? = some e →
            (∀ (j : Nat) e', i < j → d.map[j]? = some e' → e'.1.toNat + es ≤ e.1.toNat ∨ e.1.toNat + es ≤ e'.1.toNat) →
            t.mem.readN e.1.toNat es = g.harea.readN (d.slot * c.hsize + e.2) es) ∧
          ∀ a, (∀ e, e ∈ d.map → a < e.1.toNat ∨ e.1.toNat + es ≤ a) → t.mem.read a = s.mem.read a) ∧
        m.races = l.races + bad.eraseDups.length ∧
        (∀ d gr w, GranKey.loc (.die d) gr ∈ bad → w < 8 → (d * 2 ^ 28 + gr * 64) / 8 + w ∈ m.rpois) ∧
        (∀ gr w, GranKey.main gr ∈ bad → w < 8 → gr * 8 + w ∈ t.mpois) ∧
        h.carea = [] ∧ h.committed = true ∧ h.cmds = g.cmds.filter (fun k => !k.kind.drain) ∧ h.written = g.written ++ g.drains ∧
        h.window = g.window ∧ h.harea = g.harea ∧
        (∀ i k p hard, c.ordered = false → s.group? i = some k → i ≠ gi → k.launch = g.launch → k.activeG = true →
          p ∈ g.writeSet c final → k.holds p.1 = some hard → (p.2 || hard) = true → ∃ k', t.group? i = some k' ∧ p.1 ∈ k'.contested) ∧
        ∀ i k, c.ordered = true → s.group? i = some k → i ≠ gi → k.launch = g.launch → k.activeG = true → g.key.toNat < k.key.toNat →
          (s.chartOf l k).isSome = true →
          ((∃ d e, e ∈ g.carea ∧ e.sp = .die d ∧ ReadEntry.gran d e.gran ∈ k.reads) ∨
            ∃ lo hi b, ReadEntry.range lo hi ∈ k.reads ∧ b ∈ g.mainBytes c final ∧ b.1 ≤ hi ∧ lo ≤ b.2) →
          ∃ k', t.group? i = some k' ∧ k'.teams = [] ∧ (k'.status = .share ∨ k'.status = .done))

/-- Bins, the frontier and parked continuations (12 R223, R231, R232, R235): an expired timer launches one record group of the records
that its set gives; a die's report, its share's count with it, goes to every other die (21 R331), and the home die's new frontier to every
die, where it never decreases; a continuation whose event has come enters dispatch at the head of its die's share. -/
def Obligations.FrontierSteps : Prop :=
  ∀ (s : State) (lid : Nat) (l : Launch), s.launch? lid = some l →
    (∀ (die node : Nat) (ts : DWord) (im : Image) (k : Option DWord) (ci count n : Nat), s.timerNow lid die node ts = some (l, im, k) →
      im.nodeChart node = some ci → im.nodes[node]? = some (count, n) → 0 < count → (l.bin die node).set k ≠ [] → die < l.shares.length →
      let all := (l.bin die node).set k
      ∃ t g, exec (.binTimerExpiry lid die node ts) s = .next t ∧ t.groups = s.groups ++ [g] ∧ g.isRec = true ∧ g.launch = lid ∧
        g.chart = ci ∧ g.die = die ∧ g.status = .share ∧
        g.recs = (if k.isSome then (sortByKey all).take count else all.take count) ∧
        (t.launch? lid).map (fun m => (m.share die).head?) = some (some g.gid)) ∧
    (∀ die c, s.rootChart l = some c → s.reportDue lid die = true →
      let key := s.dieLeast l c die
      ∃ t m ps got, exec (.frontierReport lid die) s = .next t ∧ t.packets = s.packets ++ ps ∧
        ps.map (fun (p : Packet) => (p.src, p.dst, p.what)) =
          (l.dies.filter (· != die)).map (fun d => (die, d, .report lid die key got (l.share die).length)) ∧
        t.launch? lid = some m ∧ m.reported = l.reported.set die s.cycle ∧
        m.reports = if die = l.home then l.reports.set die key else l.reports) ∧
    (s.frontierDue lid = true →
      ∃ (u : State) (ps : List Packet), exec (.frontierUpdate lid) s = .next (u.frontierAt lid l.home l.least) ∧ u.packets = s.packets ++ ps ∧
        ps.map (fun (p : Packet) => (p.dst, p.what)) = (l.dies.filter (· != l.home)).map (fun d => (d, .frontier lid l.least)) ∧
        u.launches = s.launches ∧ u.groups = s.groups ∧ u.mem = s.mem) ∧
    (∀ die k, k.toNat ≤ (l.frontAt die).toNat → s.frontierAt lid die k = s) ∧
    (∀ die k, (l.frontAt die).toNat < k.toNat → ∃ m, (s.frontierAt lid die k).launch? lid = some m ∧ m.front = l.front.set die k) ∧
    (∀ gi g, s.group? gi = some g → g.launch = lid → g.die < l.shares.length →
      let resumes := fun (i : Instr) => ∃ t, exec i s = .next t ∧ t.group? gi = some { g with status := .share, saved := true } ∧
        (t.launch? lid).map (fun m => m.share g.die) = some (gi :: l.share g.die)
      (s.parkTimerDue gi = true → resumes (.gparkTimerExpiry gi)) ∧ (s.parkDue gi = true → resumes (.continuationResume gi)))

/-- Pre-emption, stops and core resets (20 R312, R316 to R321, R324, R325; 21 R340): a pre-empted running group is saved at the head of
its die's share, its teams at their instruction boundaries with every result written, a trap held in it being entered first, once its
results and the STALL of its instructions are over and no load or atomic of it waits for a core that is being reset (R340), no team of it
issuing until then (R318); one still loading begins again; a speculative one is aborted; an expired budget stops the launch, its groups
leaving their cores so, and builds the continuation, and the launch completes once none is left on a core; a core reset lasts at most
40,000 cycles, aborts the groups on the core, ends one that has committed, and is logged with their keys. That the entry of one that has
committed names team 0xFFFFFFFF and address 0 is the model's choice (notes/assumptions/80.md). -/
def Obligations.Stopping : Prop :=
  ∀ (s : State),
    (∀ gi g l c, s.group? gi = some g → s.launch? g.launch = some l → s.chartOf l g = some c → g.die < l.shares.length →
      let both := fun (t : State → Prop) => (∃ u, exec (.preempt gi) s = .next u ∧ t u) ∧
        ((g.grace.any fun t => decide (t ≤ s.cycle)) = true → ∃ u, exec (.preemptGraceExpiry gi) s = .next u ∧ t u)
      let queued := fun (u : State) => (u.launch? g.launch).map (fun m => m.share g.die) = some (gi :: l.share g.die)
      (g.status = .running → State.specOf l c g = false →
        (∀ (i : Nat) (k : Team), g.teams[i]? = some k → k.idx = i ∧ k.held = none ∧ k.mats = []) → s.Calm g →
        both fun u => u.group? gi = some { g.atRest with status := .share } ∧ queued u) ∧
      (g.status = .running → State.specOf l c g = false → s.quiet gi = true →
        both fun u => ∀ k, u.group? gi = some k → k.resident = false) ∧
      (g.status = .running → State.specOf l c g = false → s.quiet gi = false →
        exec (.preempt gi) s = .next (s.setGroup { g with stop := true, grace := some s.cycle }) ∧
        (g.stop = false → (g.grace.any fun t => decide (t ≤ s.cycle)) = true →
          exec (.preemptGraceExpiry gi) s = .next (s.setGroup { g with stop := true, grace := some s.cycle })) ∧
        ∀ ti, (s.setGroup { g with stop := true, grace := some s.cycle }).canIssue gi ti = false) ∧
      (g.status = .loading → both fun u => u.group? gi = some { g.cleared with status := .share } ∧ queued u) ∧
      (g.status = .running → State.specOf l c g = true → both fun u => u = s.abortGroup gi)) ∧
    (∀ (g : Group) (i : Nat) (k : Team), g.teams[i]? = some k → k.phase ≠ .ended →
      ∃ u, g.atRest.teams[i]? = some u ∧ u.pc = k.pc ∧ u.mask = k.mask ∧ u.mstack = k.mstack ∧ u.rstack = k.rstack ∧ u.buf = k.buf ∧
        u.spill = k.spill ∧ u.tiles = k.tiles ∧ u.tctl = k.tctl ∧ u.frame = k.frame ∧ u.inhandler = k.inhandler ∧ u.ckpt = k.ckpt ∧
        u.resume = k.resume ∧ u.step = k.step ∧ u.pend = [] ∧ u.loads = [] ∧ u.atoms = [] ∧
        (k.loads = [] → k.atoms = [] → ∀ cyc lane r, r < 256 → u.readV cyc lane r = k.readV k.readyAt lane r)) ∧
    (∀ lid, s.budgetDue lid = true →
      ∃ t m, exec (.budgetExpiry lid) s = .next t ∧ t = s.stopLaunch lid ∧ t.launch? lid = some m ∧ m.phase = .stopped ∧
        m.status = .budgetExpired ∧ m.cont = s.nextId ∧ t.conts = s.conts ++ [(s.nextId, lid)] ∧ t.responses = s.responses ∧
        t.images = s.images ∧ t.cycle = s.cycle ∧
        ((∀ g, g ∈ s.groupsOf lid → s.Calm g) → ∀ i g, t.group? i = some g → g.launch = lid → g.resident = false)) ∧
    (∀ l, l.phase = .stopped → (∃ g, g ∈ s.groupsOf l.id ∧ g.resident = true) → s.completion l = none) ∧
    (∀ die core, die < 4 → core < 64 → (s.core die core).reset = none →
      ∃ t e, exec (.coreReset die core) s = .next t ∧ (t.core die core).reset = some (s.cycle + 40000) ∧ t.service = s.service ∧
        e ∈ t.errlog.entries ∧ e.kind = .coreReset ∧ e.die = die ∧ e.core = core ∧ e.at_ = s.cycle ∧
        e.keys = (s.residents die core).map Group.key ∧
        (∀ i g, s.group? i = some g → g.resident = true → g.die = die → g.core = core → (s.groupChart? i).isSome = true →
          (s.core die core).drawn.contains i = false →
          ∃ k, t.group? i = some k ∧ k.teams = [] ∧ k.window = [] ∧ (k.status = .share ∨ k.status = .done)) ∧
        ∀ g l, s.residents die core = [g] → s.group? g.gid = some g → (s.groupChart? g.gid).isSome = true →
          (s.core die core).drawn.contains g.gid = false → s.launch? g.launch = some l →
          (s.isSpec g = false → g.committed = true → ∃ k m, t.group? g.gid = some k ∧ k.status = .done ∧ t.launch? g.launch = some m ∧
            m.nfaults = l.nfaults + 1 ∧ (l.faults.length < 64 →
              m.faults = l.faults ++ [{ cause := 0x0C#8, team := 0xFFFFFFFF#32, key := g.key, iaddr := 0#64, taddr := 0#64 }])) ∧
          (s.isSpec g = true ∨ g.committed = false → ∃ k, t.group? g.gid = some k ∧ k.status = .share)) ∧
    (∀ die core r, (s.core die core).reset = some r →
      exec (.coreResetEnd die core) s = .next (s.setCore die core { s.core die core with reset := none }))

/-! ### Steps of the device: engines -/

/-- The copy engine's own steps (16 R256, R258, R262, R263, R267, R268, R273, R274; 17 R285, R286): a fill publishes its image into the
shadow slot, turns FRONT and sets TAG and FULL, every other byte of the handle area standing, and what the teams' loads in flight read of
the slot stays as it was (24 R365); a fault leaves the handle as R256 says; a drain whose check passes goes on, one that fails is
withdrawn; a drain written frees the handle. A team whose command found the queue full goes on when it has room (16 R262), one of a
translated Eceel block among the registers that it names (22 R357); a team with four prefetches in flight makes no other (17 R287); a
translation miss puts the page into the core's cache of 256 entries (10 R192), the oldest leaving, and its time is charged to the launch:
both the model's choice (notes/assumptions/53.md and 2.md). That the waiting command is checked again as a whole is DEDUCED (16.md), and
so is the moment from which a drain counts as committed (14.md). -/
def Obligations.EngineSteps : Prop :=
  ∀ (s : State) (gi ti : Nat) (hdl : BitVec 5),
    (∀ e, s.fillNow gi hdl.toNat = some e → s.Engined e.s ∧ ∃ g, s.group? gi = some g ∧ e.g = { g with reads := e.g.reads }) ∧
    (∀ e, s.fillNow gi hdl.toNat = some e → e.f.bad = none → hdl.toNat < e.g.handles.length →
      let v := e.g.handleAt hdl.toNat
      let base := e.k.slot * e.c.hsize
      let covers := fun (x : FillElem) a => base + x.ofs ≤ a ∧ a < base + x.ofs + x.bytes.length
      let reads := fun (g : Group) (p : LoadPart) k =>
        ((p.own[k]?).getD none).getD (g.harea.read (p.a + k), poisonIn g.hpois (p.a + k) 1)
      ∃ g', exec (.publish gi hdl) s = .next (e.s.setGroup g') ∧
        g'.handles = e.g.handles.set hdl.toNat { v with front := !v.front, tag := e.k.tag, st := .full } ∧
        g'.cmds = e.g.cmds.erase e.k ∧ g'.window = e.g.window ∧ g'.teams.length = e.g.teams.length ∧
        (∀ (i : Nat) (t : Team), e.g.teams[i]? = some t →
          ∃ u, g'.teams[i]? = some u ∧ u = { t with loads := u.loads } ∧ u.loads.length = t.loads.length ∧
            ∀ (j m k : Nat) (l : Load) (p : LoadPart), t.loads[j]? = some l → l.todo[m]? = some p → p.sp = .slot → k < p.own.length →
              base ≤ p.a + k → p.a + k < base + e.c.hsize →
              ∃ l' p', u.loads[j]? = some l' ∧ l' = { l with todo := l'.todo } ∧ l'.todo[m]? = some p' ∧ p' = { p with own := p'.own } ∧
                reads g' p' k = reads e.g p k) ∧
        (∀ a, (∀ x, x ∈ e.f.got → ¬ covers x a) → g'.harea.read a = e.g.harea.read a) ∧
        ∀ x i b, x ∈ e.f.got → x.bytes[i]? = some b → (∀ x', x' ∈ e.f.got → covers x' (base + x.ofs + i) → x' = x) →
          g'.harea.read (base + x.ofs + i) = b) ∧
    (∀ e n a, s.fillNow gi hdl.toNat = some e → e.f.bad = some (n, a) →
      let v := e.g.handleAt hdl.toNat
      let dest := fun v => ({ e.g with handles := e.g.handles.set hdl.toNat v, cmds := e.g.cmds.erase e.k } : Group)
      let becomes := fun v => exec (.fillFault gi hdl) s = .next ((e.s.setGroup (dest v)).endCheck gi) ∧
        (e.g.status ≠ .ended → exec (.fillFault gi hdl) s = .next (e.s.setGroup (dest v)))
      (e.k.kind = .cpin ∨ e.k.kind = .gather → becomes { v with st := .free, fault := some a, fteam := e.k.team }) ∧
      (∀ sc, e.k.kind = .fetch sc false → becomes { v with st := v.prior, fault := some a, fteam := e.k.team }) ∧
      (∀ sc, e.k.kind = .fetch sc true → becomes { v with st := v.prior })) ∧
    (∀ g k f, s.drainNow gi hdl.toNat = some (g, k, f) →
      let v := g.handleAt hdl.toNat
      ∃ u, s.Engined u ∧
        (f = none → exec (.drainCheckDone gi hdl) s = .next
          (u.setGroup { g with handles := g.handles.set hdl.toNat { v with chk := false } })) ∧
        ∀ a, f = some a → g.status ≠ .ended → exec (.drainCheckFault gi hdl) s = .next (u.setGroup
          { g with
            handles := g.handles.set hdl.toNat { v with st := .full, chk := false, fault := some a, fteam := k.team }
            cmds := g.cmds.erase k })) ∧
    (∀ g, s.group? gi = some g → s.drainWritten gi hdl.toNat = true →
      exec (.drainWriteDone gi hdl) s = .next
        (s.setGroup { g with
          handles := g.handles.set hdl.toNat { g.handleAt hdl.toNat with st := .free, chk := false }
          written := g.written.filter fun k => k.hdl != hdl.toNat })) ∧
    (∀ x i, s.acceptDue gi ti = true → (s.atIssue gi ti).ctx? = some x → x.fetch = .ok i →
      (x.im.bindsAt x.t.pc ≠ [] → x.boundLock (x.im.bindsAt x.t.pc) i = none →
        ∃ u t, ({ x with t := x.t.lend x.w (x.im.bindsAt x.t.pc) } : Ctx).save.acceptRun = .next u ∧ exec (.copyAccept gi ti) s = .next t ∧
          t = { u.unbound x.g.gid x.t.idx x.w x.t (x.im.bindsAt x.t.pc) with cur := none }) ∧
      (x.im.bindsAt x.t.pc = [] → ((∃ st h r b, i = .cpin st h r b) ∨ (∃ st p h r b, i = .cpout st p h r b) ∨
          (∃ hd h r v, i = .gather hd h r v) ∨ ∃ hd h r v, i = .scatter hd h r v) →
        ∃ t, exec (.copyAccept gi ti) s = .next t ∧ ∀ u, exec i x.s = .next u → t = { u with cur := none })) ∧
    (∀ k x, ({ s with cur := some (gi, ti) } : State).ctx? = some x → 4 ≤ x.prefetches → exec (.operandPrefetch gi ti k) s = .next s) ∧
    (∀ k u, s.prefetched gi ti k = some u → exec (.operandPrefetch gi ti k) s = .next u) ∧
    (∀ lid die core va p l, die < 4 → core < 64 → s.launch? lid = some l → s.page? va = some p →
      (s.core die core).tcache.contains p.va = false →
      ∃ t, exec (.translationMiss lid die core va) s = .next t ∧ (t.core die core).tcache.getLast? = some p.va ∧
        (t.core die core).tcache.length ≤ 256 ∧ t.mem = s.mem ∧ t.groups = s.groups ∧ t.fresh = s.fresh + 1 ∧
        t.launch? lid = some { l with missing := max l.missing (s.cycle + Config.missTime s.fresh) })

/-! ### Steps of the network and of the islands -/

/-- The network (21 R336 to R339; 22 R345): a packet that may be delivered and need not wait for another, as one that would overtake an
older one of its stream, leaves the network and has its effect; a drain point comes at its cycle, and for the 1,024 reference cycles of
its phase nothing is injected: a packet given to the network then enters it at the end of the phase, and is not delivered before; a packet
that the phase found in the network when it ends, or that has been there for 65,536 reference cycles, is delivered before anything else
moves, as soon as it may be; a router idle for 1,024 network cycles, 512 of the reference, goes down, and is ready 32 network cycles after
it is woken; an unsupported packet is counted. That the packets of one stream keep the order in which they were sent, where R336 keeps
none, is DEDUCED (notes/assumptions/20.md). -/
def Obligations.Network : Prop :=
  ∀ (s : State),
    (∀ id p, s.deliverable id = some p → s.held p = false →
      ∃ u : State, exec (.packetDelivery id) s = .next (u.received p) ∧ u.packets = s.packets.filter (fun q => q.id != id) ∧
        u.launches = s.launches ∧ u.groups = s.groups ∧ u.mem = s.mem) ∧
    (∀ id p, s.deliverable id = some p → s.held p = true → exec (.packetDelivery id) s = .next s) ∧
    (∀ p, s.held p = false → ∀ q, q ∈ s.packets → q.id < p.id → q.src = p.src → q.dst = p.dst → q.what.sameStream p.what = false) ∧
    (∀ p l thief m, p.what = .stealReq l thief → s.launch? l = some m →
      (m.phase = .dispatching → s.received p = s.setLaunch { m with inbox := m.inbox ++ [(p.dst, s.cycle, thief)] }) ∧
      (m.phase ≠ .dispatching → s.received p = s.setLaunch m)) ∧
    (∀ a b w t, s.drain = some t → ∃ p, (s.send a b w).packets = s.packets ++ [p] ∧ p.src = a ∧ p.dst = b ∧ p.what = w ∧ p.at_ = t) ∧
    (∀ p, s.cycle < p.at_ → ∀ id, s.deliverable id ≠ some p) ∧
    (∀ p l gs m, p.what = .stealRep l gs → s.launch? l = some m →
      s.received p = s.setLaunch { m with replies := m.replies ++ [(p.dst, gs)] }) ∧
    (∀ p l d n m, p.what = .counts l d n → s.launch? l = some m → p.dst < m.seen.length → d < 4 →
      ∃ m', s.received p = s.setLaunch m' ∧ m'.heard p.dst d = n ∧ m' = { m with seen := m'.seen }) ∧
    (∀ p l k v m, p.what = .measure l k v → s.launch? l = some m → s.received p = s.setLaunch { m with held := holdMeas (k, v) m.held }) ∧
    (s.drain = none → (s.drains + 1) * 32768 ≤ s.cycle → (∀ e, e ∈ s.routers → s.routerUp (e.1 / 64, e.1 % 64) = true) →
      exec .drainPoint s = .next { s with drain := some ((s.drains + 1) * 32768 + 1024), drains := s.drains + 1 }) ∧
    (∀ i, s.forced = some i → s.pick = some (.ev i)) ∧
    (∀ p, p ∈ s.packets → s.overdue p = true → s.deliverable p.id = some p → s.held p = false → s.forced.isSome = true) ∧
    (∀ p, p.at_ + 65536 ≤ s.cycle ∨ (∃ t, s.drain = some t ∧ t ≤ s.cycle ∧ p.at_ < t) → s.overdue p = true) ∧
    (∀ t, s.drain = some t → t ≤ s.cycle →
      ∃ u, exec .drainPhaseEnd s = .next u ∧ u.drain = none ∧ u.packets = s.packets ∧
        ∀ die core, (u.router die core).down = (s.router die core).down) ∧
    (∀ die core, s.sleepy die core = true →
      (s.router die core).idle + 512 ≤ s.cycle ∧
      exec (.routerPowerDown die core) s = .next (s.setRouter die core { down := true, idle := s.cycle, waking := none })) ∧
    (∀ die core, s.wakeDue die core = true →
      exec (.routerWake die core) s = .next (s.setRouter die core { down := false, idle := s.cycle, waking := some (s.cycle + 16) })) ∧
    (∀ port, ∃ e, exec (.unsupportedPacket port) s = .next { s with errlog := s.errlog.push e } ∧ e.kind = .dropped ∧ e.core = port ∧
      e.at_ = s.cycle)

/-- The islands (21 R342, R343; 17 R299): the end of a change of point; RETAIN, left within 2 µs when something asks for the island and
entered when nothing does; matrix quarters gone idle. A control period steps islands of the lowest class present down by one point where
the estimate is above the limit, the frontier's last, and up where it is below 95 % of it, never above a cap; between the two it only
takes the temperatures; an island that has passed 105 °C steps down. A step stops issue for 1,600 cycles, and at OFF the groups on the
island are pre-empted, and it is off once its last team has left. At least one island that can be stepped is; how many a step takes beyond
that is left open (notes/assumptions/2.md). That the last step down for power is to OFF is the model's reading (notes/assumptions/9.md).
-/
def Obligations.Islands : Prop :=
  ∀ (s : State),
    (∀ i t, (s.slotOf i).changing = some t → s.vacant i = false →
      exec (.islandPointChangeDone i) s = .next (s.setSlot i { s.slotOf i with changing := none })) ∧
    (∀ i, (s.slotOf i).leaving = true → s.groupsOn i = [] → ∃ t, exec (.islandPointChangeDone i) s = .next t ∧
      (t.slotOf i).point = .off ∧ (t.slotOf i).leaving = false ∧ (t.slotOf i).changing = none ∧ t.groups = s.groups ∧
      ∀ j, j ≠ i → t.slotOf j = s.slotOf j) ∧
    (∀ i, s.retain.contains i = true → s.islandAsked i = true →
      ∃ t, exec (.retainWake i) s = .next t ∧ t.retain.contains i = false ∧ (i, s.cycle + 1600) ∈ t.waking ∧ t.groups = s.groups) ∧
    (∀ i, 1024 ≤ i → i < 1064 → s.islandOn i = true → s.islandAsked i = false →
      ∃ t, exec (.retainEntry i) s = .next t ∧ t.retain.contains i = true ∧ t.groups = s.groups) ∧
    (∀ i, s.rampDue i = true →
      exec (.matrixRampIdle i) s = .next (s.setSlot i { s.slotOf i with matLast := none })) ∧
    (∀ watts temps, s.islandAt + 8000 ≤ s.cycle → watts ≤ s.limit → s.limit * 95 ≤ watts * 100 →
      (∀ e, e ∈ s.slots → e.2.hot = false) → (∀ p, p ∈ temps → p.2 ≤ 105) →
      ∃ t, exec (.islandControlTick watts temps) s = .next t ∧ t.islandAt = s.islandAt + 8000 ∧ t.groups = s.groups ∧
        ∀ i, (t.slotOf i).point = (s.slotOf i).point ∧ (t.slotOf i).cap = (s.slotOf i).cap) ∧
    (∀ watts, s.islandAt + 8000 ≤ s.cycle → (∀ e, e ∈ s.slots → e.2.hot = false) →
      let u := { s with islandAt := s.islandAt + 8000 }
      let n := max 1 (Config.stepCount s.fresh)
      let down := fun i => (s.slotOf i).point ≠ .off ∧ ¬((s.slotOf i).leaving = true ∧ (s.slotOf i).point = .f2)
      let up := fun i => if (s.slotOf i).leaving = true then (s.slotOf i).cap ≠ .off else (s.slotOf i).cap.code < (s.slotOf i).point.code
      (s.limit < watts →
        exec (.islandControlTick watts []) s = .next (((s.stepOrder.filter fun i => decide (down i)).take n).foldl State.powerDown u).bump) ∧
      (watts * 100 < s.limit * 95 →
        exec (.islandControlTick watts []) s = .next (((s.upOrder.filter fun i => decide (up i)).take n).foldl State.powerUp u).bump) ∧
      (∀ i t, i < 1024 → 105 < t → watts ≤ s.limit → s.limit * 95 ≤ watts * 100 →
        exec (.islandControlTick watts [(i, t)]) s = .next
          ((u.setSlot i { s.slotOf i with temp := t, hot := true }).toPoint i (s.slotOf i).point.lower))) ∧
    (∀ i, i ∈ s.stepOrder → i ∈ s.busyIslands ∧ ∃ c, s.islandClass i = some (c, c) ∧
      ∀ j a b, j ∈ s.busyIslands → s.islandClass j = some (a, b) → c ≤ a) ∧
    (∃ a b, s.stepOrder = a ++ b ∧ (∀ i, i ∈ a → s.frontIsland i = false) ∧ ∀ i, i ∈ b → s.frontIsland i = true) ∧
    (∀ i, (s.slotOf i).hot = false →
      let x := s.slotOf i
      (x.point ≠ .off → ¬(x.leaving = true ∧ x.point = .f2) →
        s.powerDown i = s.toPoint i (match x.point with | .f0 => .f1 | .f1 => .f2 | _ => .off)) ∧
      (x.leaving = false → x.cap.code < x.point.code →
        s.powerUp i = s.toPoint i (match x.point with | .off => .f2 | .f2 => .f1 | _ => .f0)) ∧
      (x.leaving = false → x.point.code ≤ x.cap.code → s.powerUp i = s) ∧
      (x.leaving = true → s.powerUp i = if x.cap = .off then s else s.setSlot i { x with leaving := false })) ∧
    (∀ i p, (s.slotOf i).point ≠ p →
      let u := s.toPoint i p
      u.mem = s.mem ∧ (∀ j, j ≠ i → (u.slotOf j).point = (s.slotOf j).point) ∧
      (p ≠ .off → (u.slotOf i).point = p ∧ u.groups = s.groups ∧ (u.slotOf i).changing = some (s.cycle + 1600) ∧
        (u.slotOf i).clock s.cycle = (s.slotOf i).clock s.cycle) ∧
      (p = .off → (u.groupsOn i = [] → (u.slotOf i).point = .off ∧ (u.slotOf i).changing = none) ∧
        (u.groupsOn i ≠ [] → (u.slotOf i).point = (s.slotOf i).point ∧ (u.slotOf i).leaving = true) ∧
        ((∀ g, g ∈ s.groupsOn i → s.Calm g) →
          ∀ gi g k, s.group? gi = some g → g ∈ s.groupsOn i → u.group? gi = some k → k.resident = false))) ∧
    (∀ watts temps, ∃ t, exec (.islandControlTick watts temps) s = .next t)

/-! ### Steps of the service -/

/-- Scrubbing, samples and module reset (10 R181, R182, R193; 22 R345, R360, R361; 01 R15): a single-bit error is logged as corrected and
changes nothing else, at an offset where its place can stand (10 R177); a double-bit error poisons the word, wherever it stands on the
core, a word of a checkpoint among them (11 R199), and is logged as uncorrectable and as poison, the sixteenth within 2^30 cycles taking
the core out of placement; one in main memory waits until a copy meets it; a sample logs a running team and moves the die's sample time
on; module reset gives the state of reset, the model's own schedule apart. -/
def Obligations.Maintenance : Prop :=
  ∀ (s : State),
    (∀ die core place ofs, die < 4 → core < 64 → (∀ a, place ≠ .dram a) → (s.core die core).holds ⟨place, ofs⟩ = true →
      let e := ({ kind := .corrected, die := die, core := core, ofs := ofs, at_ := s.cycle, keys := [] } : ErrEntry)
      ∃ t, exec (.scrub die core ⟨place, ofs⟩ false) s = .next t ∧ t = { s with cores := t.cores, errlog := s.errlog.push e } ∧
        ∀ d c, t.core d c = { s.core d c with bases := (t.core d c).bases }) ∧
    (∀ die core ofs, die < 4 → core < 64 →
      let entry := fun kind => ({ kind := kind, die := die, core := core, ofs := ofs, at_ := s.cycle, keys := [] } : ErrEntry)
      let errs := recent s.cycle (s.core die core).errs
      let errs' := fun (t : State) => t.mem = s.mem ∧ (t.core die core).errs = errs ++ [s.cycle] ∧
        (errs.length < 15 → t.errlog = (s.errlog.push (entry .uncorrectable)).push (entry .poison) ∧
          (t.core die core).removed = (s.core die core).removed) ∧
        (15 ≤ errs.length → (t.core die core).removed = true)
      (∀ gi g, s.group? gi = some g → g.resident = true → g.die = die → g.core = core →
        let becomes := fun place g' => (s.core die core).holds ⟨place, ofs⟩ = true →
          ∃ t, exec (.scrub die core ⟨place, ofs⟩ true) s = .next t ∧ errs' t ∧ t.group? gi = some g'
        (∀ w, becomes (.window gi w) { g with wpois := NSet.add g.wpois w }) ∧
        (∀ w, becomes (.handle gi w) { g with hpois := NSet.add g.hpois w }) ∧
        (∀ ti k w, g.team? ti = some k → becomes (.spill gi ti w) (g.setTeam { k with spois := NSet.add k.spois w })) ∧
        (∀ ti k n e w, g.team? ti = some k → k.buf[n]? = some e → w < 8 →
          becomes (.buffer gi ti n w) (g.setTeam { k with buf := k.buf.set n { e with poi := NSet.add e.poi w } })) ∧
        (∀ ti k cs, g.team? ti = some k → becomes (.ckpt gi ti cs) (g.setTeam { k with ckpt := cs.foldl Ckpt.poison k.ckpt })) ∧
        ∀ n e w, g.carea[n]? = some e → w < 8 →
          becomes (.area gi n w) { g with carea := g.carea.set n { e with poi := NSet.add e.poi w } }) ∧
      (∀ lid l w, s.launch? lid = some l → l.live = true → l.dies.contains die = true → w * 8 < l.dsize →
        (s.core die core).holds ⟨.region lid w, ofs⟩ = true →
        ∃ t, exec (.scrub die core ⟨.region lid w, ofs⟩ true) s = .next t ∧ errs' t ∧
          t.launch? lid = some { l with rpois := NSet.add l.rpois ((die * 2 ^ 28 + core * 2 ^ 22) / 8 + w) })) ∧
    (∀ die core a ofs, exec (.scrub die core ⟨.dram a, ofs⟩ true) s = .next { s with mbad := NSet.add s.mbad (a / 8) }) ∧
    (∀ (k : Ckpt) (l r : Nat), r < k.n →
      let get := fun (k : Ckpt) l r => Store.get { val := 0#32, poi := false } k.v (vKey l r)
      get (k.poison (.v l r)) l r = { get k l r with poi := true } ∧
      ∀ m q, vKey m q ≠ vKey l r → get (k.poison (.v l r)) m q = get k m q) ∧
    (∀ a n w, w ∈ s.mbad → a / 8 ≤ w → w * 8 < a + n → w ∈ (s.meet a n).mpois ∧ w ∉ (s.meet a n).mbad ∧
      s.errlog.next + 2 ≤ (s.meet a n).errlog.next) ∧
    (∀ lid die pick l, s.launch? lid = some l → s.sampleDue lid die = true → die < l.sampled.length →
      let ts := s.runningOn lid die
      ∃ t, exec (.sampleTick lid die pick) s = .next t ∧
        (t.launch? lid).map (fun m => nth m.sampled die) = some (nth l.sampled die + l.sample) ∧ t.groups = s.groups ∧ t.mem = s.mem ∧
        (∀ q, q ∈ ts → q.1 ∈ s.groups ∧ q.2 ∈ q.1.teams ∧ q.1.launch = lid ∧ q.1.die = die ∧ q.1.status = .running ∧ q.2.phase = .running) ∧
        ∀ g k, ts[pick % ts.length]? = some (g, k) → t.bkptlog = s.bkptlog.push
          { launch := lid, key := g.key, team := k.idx, pc := k.pc, depth := k.mstack.length, mask := k.mask, spec := s.isSpec g
            sample := true }) ∧
    exec .moduleReset s = .next { State.reset with agenda := s.agenda, fresh := s.fresh }

/-- A launch's course (22 R350, R351, R348; 08 R155): dispatch begins with the initial cut; what is left of the save image, granules that
have been written before apart, is written at its place where every page allows it, and nothing else of memory changes; the completion
record goes to the session and to every wait; a wait whose time is over is answered PENDING. The completion record's command code and
header are the model's choice (notes/assumptions/10.md). -/
def Obligations.LaunchSteps : Prop :=
  ∀ (s : State) (lid : Nat) (l : Launch), s.launch? lid = some l →
    (∀ c, s.rootChart l = some c → s.startDue lid = true → l.load = none →
      ∃ t m, exec (.launchDispatchStart lid) s = .next t ∧ t.launch? lid = some m ∧ m.phase = .dispatching ∧
        m.shape = c.initialShape ∧ m.bearing = c.initialBearing ∧ m.region = l.region ∧ t.groups = s.groups ∧ t.mem = s.mem) ∧
    (∀ va, s.saveDue lid = true → l.save = some va →
      let bs := l.saveBytes.map Prod.fst
      let left := fun a => ∃ p, p ∈ (granParts va bs.length).drop l.savedTo ∧ p.1 ≤ a ∧ a < p.1 + p.2
      (∀ i, i < bs.length → s.mayWrite ((va + i : Nat) : Int) 1 = true) →
      ∃ t, exec (.regionImageSave lid) s = .next t ∧ (t.launch? lid).map Launch.saved = some true ∧
        (∀ i, left (va + i) → bs[i]? = some (t.mem.read (va + i))) ∧
        (∀ a, ¬ left a → t.mem.read a = s.mem.read a) ∧
        (l.savedTo = 0 → ∀ a, left a ↔ va ≤ a ∧ a < va + bs.length)) ∧
    (∀ st, s.completion l = some st →
      ∃ t m, exec (.launchComplete lid) s = .next t ∧ t.launch? lid = some m ∧ m.phase = .complete ∧ m.status = st ∧
        t.responses = s.responses ++
          (({ session := l.session, tag := l.tag, cmd := 0x08#8, status := st, body := m.record } : Response) ::
            (s.waits.filter fun w => w.target == lid).map fun w =>
              { session := w.session, tag := w.tag, cmd := 0x08#8, status := st, body := m.record }) ∧
        t.waits = s.waits.filter fun w => w.target != lid) ∧
    (∀ id w, s.waits.find? (fun w => w.id == id && decide (w.deadline ≤ s.cycle)) = some w →
      exec (.waitTimeout id) s = .next { s with
        waits := s.waits.erase w
        responses := s.responses ++ [{ session := w.session, tag := w.tag, cmd := 0x08#8, status := .pending, body := [] }] })

/-! ### Host commands -/

/-- What comes before every command's own rule (22 R346, R348): BUSY where too much is outstanding; a command whose session has another in
line stands behind it, with the cycle of its arrival, and leaves the line when it is taken up; INVALID_COMMAND for reserved bytes, a
STATUS that is not 0 or a body too long, and for a code that the table does not list. That a STATUS other than 0 counts as a fault of the
header is the model's reading (notes/assumptions/29.md). -/
def Obligations.CommandHeaders : Prop :=
  ∀ (s : State) (h : CmdHead),
    let header := h.rsv ≠ 0 ∨ h.status ≠ 0 ∨ 65504 < h.len.toNat
    let turned := fun (i : Instr) (cmd : BitVec 8) =>
      (s.takenUp = none → s.tooMany h = true → Answered i s h cmd .busy) ∧
      (s.takenUp = none → s.idle h → s.tooMany h = false → header → Answered i s h cmd .invalidCommand) ∧
      (s.takenUp = none → s.tooMany h = false → ¬ s.idle h →
        exec i s = .next { s with queued := s.queued ++ [{ at_ := s.cycle, cmd := i }] }) ∧
      (s.takenUp.isSome = true → s.heldEdit i = none →
        (header → exec i s = .next { s with
          queued := s.queued.eraseP fun q => q.cmd == i
          responses := s.responses ++ [resp h cmd .invalidCommand []] }) ∧
        ((s.queued.filter fun q => q.cmd == i).length = 1 → exec i s = exec i { s with queued := s.queued.filter fun q => q.cmd != i }))
    turned (.query h) 0x01#8 ∧ (∀ o, turned (.map h o) 0x02#8) ∧ (∀ va len, turned (.unmap h va len) 0x03#8) ∧
    (∀ va n q d, turned (.load h va n q d) 0x04#8) ∧ (∀ im, turned (.unload h im) 0x05#8) ∧ (∀ o, turned (.launch h o) 0x06#8) ∧
    (∀ o x, turned (.launchx h o x) 0x07#8) ∧ (∀ id n, turned (.wait h id n) 0x08#8) ∧ (∀ id, turned (.cancel h id) 0x09#8) ∧
    (∀ id, turned (.cancelKeep h id) 0x09#8) ∧ (∀ va d ps, turned (.copyPut h va d ps) 0x0A#8) ∧
    (∀ va n ps, turned (.copyGet h va n ps) 0x0A#8) ∧ (∀ out peer va pva n ps, turned (.copyXfer h out peer va pva n ps) 0x0A#8) ∧
    (∀ n, turned (.attest h n) 0x0B#8) ∧ (∀ a b c, turned (.log h a b c) 0x0C#8) ∧ turned (.islandRead h) 0x0D#8 ∧
    (∀ w c, turned (.islandSet h w c) 0x0D#8) ∧
    ∀ cmd, turned (.unassignedCommand h cmd) cmd ∧
      (s.takenUp = none → s.idle h → s.tooMany h = false → Answered (.unassignedCommand h cmd) s h cmd .invalidCommand)

/-- MAP and UNMAP (22 R368, 10 R191, R192, 16 R274): new pages over a range that meets none, cleared, where the stack has room; pages that
fill the range exactly take the new rights; pages partly inside, or not matching, refuse the command; an UNMAP takes away the pages
inside, and NOT_FOUND where there are none. A narrowing or an UNMAP that a drain holds stands in line, is made on its pages once nothing
holds it, and leaves the line then; what is taken away or narrowed leaves every translation cache. -/
def Obligations.Mapping : Prop :=
  ∀ (s : State) (h : CmdHead), (∀ p, p ∈ s.pages → 0 < p.size) →
    let dropped := fun (t : State) (vas : List Nat) => ∀ d c a, a ∈ (t.core d c).tcache → a ∉ vas
    (s.takes h → ∀ o : MapOps,
      let inside := s.pages.filter fun p => p.inside o.va o.len
      let partly := ∃ p, p ∈ s.pages ∧ p.meets o.va o.len = true ∧ p.inside o.va o.len = false
      let fills := inside.length * o.size = o.len ∧ ∀ p, p ∈ inside → p.size = o.size ∧ p.home = o.home
      let less := ∃ p, p ∈ inside ∧ ((p.r = true ∧ o.r = false) ∨ (p.w = true ∧ o.w = false))
      let set := s.pages.map fun (p : Page) => if p.inside o.va o.len then { p with r := o.r, w := o.w, peers := o.peers } else p
      (MapOps.bad o = true → Answered (.map h o) s h 0x02#8 .invalidOperand) ∧
      (MapOps.bad o = false →
        (partly → Answered (.map h o) s h 0x02#8 .invalidOperand) ∧
        (¬ partly → inside ≠ [] → ¬ fills → Answered (.map h o) s h 0x02#8 .invalidOperand) ∧
        (¬ partly → inside = [] → stackBytes < s.stackUsed o.home + o.len → Answered (.map h o) s h 0x02#8 .noSpace) ∧
        (¬ partly → inside = [] → s.stackUsed o.home + o.len ≤ stackBytes →
          ∃ t ps, exec (.map h o) s = .next t ∧ t.pages = s.pages ++ ps ∧ ps.length = o.len / o.size ∧
            (∀ (k : Nat) (p : Page), ps[k]? = some p →
              p = { va := o.va + k * o.size, size := o.size, r := o.r, w := o.w, home := o.home, peers := o.peers }) ∧
            (∀ a, o.va ≤ a → a < o.va + o.len → t.mem.read a = 0#8) ∧
            (∀ a, a < o.va ∨ o.va + o.len ≤ a → t.mem.read a = s.mem.read a) ∧
            t.responses = s.responses ++ [resp h 0x02#8 .success []] ∧ t.pagelog.next = s.pagelog.next + 1 ∧ t.groups = s.groups) ∧
        (¬ partly → inside ≠ [] → fills → ¬ less →
          ∃ t, exec (.map h o) s = .next t ∧ t.pages = set ∧ t.mem = s.mem ∧ t.groups = s.groups ∧
            t.responses = s.responses ++ [resp h 0x02#8 .success []]) ∧
        (¬ partly → inside ≠ [] → fills → less → s.edited o.va o.len = false →
          ∃ t, exec (.map h o) s = .next t ∧ t.pages = set ∧ dropped t (inside.map Page.va) ∧ t.mem = s.mem ∧ t.groups = s.groups ∧
            t.responses = s.responses ++ [resp h 0x02#8 .success []]) ∧
        (¬ partly → inside ≠ [] → fills → less → s.edited o.va o.len = true →
          exec (.map h o) s = .next { s with edits := s.edits ++ [{ since := s.cycle, cmd := .map h o, pages := inside.map Page.va }] }))) ∧
    (s.takes h → ∀ va len,
      let inside := s.pages.filter fun p => p.inside va len
      let range := 0 < len ∧ va % 2 ^ 16 = 0 ∧ len % 2 ^ 16 = 0 ∧ va + len ≤ 2 ^ 48
      let partly := ∃ p, p ∈ s.pages ∧ p.meets va len = true ∧ p.inside va len = false
      (¬ range → Answered (.unmap h va len) s h 0x03#8 .invalidOperand) ∧
      (range → partly → Answered (.unmap h va len) s h 0x03#8 .invalidOperand) ∧
      (range → ¬ partly → inside = [] → Answered (.unmap h va len) s h 0x03#8 .notFound) ∧
      (range → ¬ partly → inside ≠ [] → s.edited va len = false →
        ∃ t, exec (.unmap h va len) s = .next t ∧ t.pages = s.pages.filter (fun p => !p.inside va len) ∧ t.mem = s.mem ∧
          dropped t (inside.map Page.va) ∧ t.responses = s.responses ++ [resp h 0x03#8 .success []] ∧ t.groups = s.groups) ∧
      (range → ¬ partly → inside ≠ [] → s.edited va len = true →
        exec (.unmap h va len) s = .next { s with
          edits := s.edits ++ [{ since := s.cycle, cmd := .unmap h va len, pages := inside.map Page.va }] })) ∧
    (∀ i e, s.heldEdit i = some e → s.takenUp.isSome = true ∧ e ∈ s.edits ∧ e.cmd = i) ∧
    (∀ va len e, s.heldEdit (.unmap h va len) = some e →
      let gone := (s.pages.filter fun p => e.pages.contains p.va && p.inside va len).map Page.va
      (s.edited va len = true → exec (.unmap h va len) s = .next s) ∧
      (s.edited va len = false → ∃ t, exec (.unmap h va len) s = .next t ∧ t.pages = s.pages.filter (fun p => !gone.contains p.va) ∧
        dropped t gone ∧ t.edits = s.edits.erase e ∧ t.mem = s.mem ∧ t.responses = s.responses ++ [resp h 0x03#8 .success []])) ∧
    ∀ (o : MapOps) e, s.heldEdit (.map h o) = some e →
      let mine := (s.pages.filter fun p => e.pages.contains p.va && p.inside o.va o.len).map Page.va
      (s.edited o.va o.len = true → exec (.map h o) s = .next s) ∧
      (s.edited o.va o.len = false → ∃ t, exec (.map h o) s = .next t ∧
        t.pages = s.pages.map (fun (p : Page) => if mine.contains p.va then { p with r := o.r, w := o.w, peers := o.peers } else p) ∧
        dropped t mine ∧ t.edits = s.edits.erase e ∧ t.mem = s.mem ∧ t.responses = s.responses ++ [resp h 0x02#8 .success []])

/-- COPY (22 R353, 10 R182): each form is admitted under a new id, refused for its length, the number of its predecessors or an unknown
one; its completion puts what is left of the bytes of a PUT where every page allows it, sends those of a GET, each read before or as it
stands, names the lowest address that a mapping or a right does not allow, of either end of an XFER, passes on a peer's refusal, and
DEPENDENCE_FAILED where a predecessor failed; a peer's request is served where the pages allow it, the bytes before a fault going with the
answer of one that reads, and one whose granules have been read at points of their own is answered with what they then held. That a
completion's body begins with the copy's id, and the layout of that answer, are the model's choice (notes/assumptions/10.md). -/
def Obligations.Copying : Prop :=
  ∀ (s : State),
    (∀ (h : CmdHead) (va len : Nat) (data : List Byte) (ps : List Nat), s.takes h →
      let admitted := fun (i : Instr) (form : CopyForm) (n : Nat) => exec i s = .next { s with
        nextId := s.nextId + 1
        copies := s.copies ++ [{ id := s.nextId, form := form, va := va, len := n, preds := ps, session := h.session, tag := h.tag
                                 done := none, got := [], moved := 0 }] }
      let rule := fun (i : Instr) (form : CopyForm) (n limit : Nat) =>
        (n ≤ limit → ps.length ≤ 4 → (∀ p, p ∈ ps → s.admittedId p = true) → admitted i form n) ∧
        (limit < n ∨ 4 < ps.length → Answered i s h 0x0A#8 .invalidOperand) ∧
        (n ≤ limit → ps.length ≤ 4 → (∃ p, p ∈ ps ∧ s.admittedId p = false) → Answered i s h 0x0A#8 .notFound)
      rule (.copyPut h va data ps) (.put data) data.length 65472 ∧ rule (.copyGet h va len ps) .get len 65472 ∧
      ∀ out peer pva, rule (.copyXfer h out peer va pva len ps) (.xfer out peer pva) len (2 ^ 40)) ∧
    (∀ c peer, s.copies.find? (fun k => k.id == c.id && k.done.isNone) = some c → (∀ w, w ∈ s.waits → w.target ≠ c.id) →
      let ends := fun (t : State) (st : Status) (body : List Byte) => exec (.copyCompletion c.id peer) s = .next t ∧
        t.responses = s.responses ++
          [{ session := c.session, tag := c.tag, cmd := 0x0A#8, status := st, body := leBytes 8 c.id ++ body }]
      let puts := fun (data : List Byte) =>
        let left := fun a => ∃ p, p ∈ (granParts c.va data.length).drop c.moved ∧ p.1 ≤ a ∧ a < p.1 + p.2
        let good := fun a => s.mayWrite ((a : Nat) : Int) 1 = true
        (c.moved = 0 → ∀ a, left a ↔ c.va ≤ a ∧ a < c.va + data.length) ∧
        ((∀ a, left a → good a) → ∃ t, ends t .success [] ∧
          (∀ i, left (c.va + i) → data[i]? = some (t.mem.read (c.va + i))) ∧ ∀ a, ¬ left a → t.mem.read a = s.mem.read a) ∧
        (∀ b, left b → ¬ good b → (∀ a, left a → a < b → good a) → ∃ t, ends t .copyFault (leBytes 8 b) ∧
          (∀ i, left (c.va + i) → (c.va + i) / 64 < b / 64 → data[i]? = some (t.mem.read (c.va + i))) ∧
          ∀ a, (¬ left a ∨ b / 64 ≤ a / 64) → t.mem.read a = s.mem.read a)
      let took := fun a => (c.got.find? fun e => e.1 == a).map Prod.snd
      let source := (List.range c.len).map fun i => (took (c.va + i)).getD (s.mem.read (c.va + i))
      let bad := ((List.range c.len).map fun i => c.va + i).find? fun a => (took a).isNone && !s.mayRead (a : Int) 1
      (s.predFailed c.preds = true → ∃ t, ends t .dependenceFailed [] ∧ t.mem = s.mem) ∧
      (s.predFailed c.preds = false → s.predsDone c.preds = false → exec (.copyCompletion c.id peer) s = .next s) ∧
      (s.predsDone c.preds = true → s.predFailed c.preds = false →
        (∀ data, c.form = .put data → puts data) ∧
        (c.form = .get → bad = none → ∃ t, ends t .success source ∧ t.mem = s.mem) ∧
        (∀ b, c.form = .get → bad = some b → ∃ t, ends t .copyFault (leBytes 8 b) ∧ t.mem = s.mem) ∧
        (∀ out p pva, c.form = .xfer out p pva → peer = some .refuses → ∃ t, ends t .peerRefused [] ∧ t.mem = s.mem) ∧
        (∀ p pva data, c.form = .xfer false p pva → peer = some (.takes data) → data.length = c.len → puts data) ∧
        (∀ p pva a data, c.form = .xfer false p pva → peer = some (.faults a data) → a - pva ≤ data.length →
          (∀ i, i < data.length → s.mayWrite ((c.va + i : Nat) : Int) 1 = true) → ∃ t, ends t .copyFault (leBytes 8 a)) ∧
        (∀ p pva data, c.form = .xfer true p pva → peer = some (.takes data) → bad = none →
          ∃ t, ends t .success [] ∧ t.mem = s.mem) ∧
        (∀ p pva data b, c.form = .xfer true p pva → peer = some (.takes data) → bad = some b →
          ∃ t, ends t .copyFault (leBytes 8 b) ∧ t.mem = s.mem) ∧
        (∀ p pva a data, c.form = .xfer true p pva → peer = some (.faults a data) → bad = none →
          ∃ t, ends t .copyFault (leBytes 8 a) ∧ t.mem = s.mem))) ∧
    (∀ (peer : BitVec 48) (put : Bool) (va len : Nat) (data : List Byte),
      let n := if put then data.length else len
      let ends := fun (t : State) (st : Status) (body : List Byte) => exec (.peerXferRequest peer put va len data) s = .next t ∧
        t.responses = s.responses ++ [{ session := 0, tag := 0, cmd := 0x0A#8, status := st, body := body }]
      let begun := s.xfers.find? fun x => x.of peer put va len data
      (∀ x, begun = some x → put = false → s.xferBad x = none →
        ∃ t, ends t .success ((List.range len).map fun i =>
          ((x.got.find? fun e => e.1 == x.va + i).map Prod.snd).getD (s.mem.read (x.va + i))) ∧ t.mem = s.mem ∧
          t.xfers = s.xfers.filter fun y => !y.of peer put va len data) ∧
      (begun = none → s.peerAllowed peer va n = false → ∃ t, ends t .peerRefused [] ∧ t.mem = s.mem) ∧
      (begun = none → s.peerAllowed peer va n = true → put = true → (∀ i, i < data.length → s.mayWrite ((va + i : Nat) : Int) 1 = true) →
        ∃ t, ends t .success [] ∧ (∀ i, i < data.length → data[i]? = some (t.mem.read (va + i))) ∧
          ∀ a, (a < va ∨ va + data.length ≤ a) → t.mem.read a = s.mem.read a) ∧
      (begun = none → s.peerAllowed peer va n = true → put = false → s.firstBad false va len = none →
        ∃ t, ends t .success (s.mem.readN va len) ∧ t.mem = s.mem) ∧
      (∀ b, begun = none → s.peerAllowed peer va n = true → put = false → s.firstBad false va len = some b →
        ∃ t, ends t .copyFault (leBytes 8 b ++ s.mem.readN va (b - va)) ∧ t.mem = s.mem))

/-- LAUNCH, LAUNCHX, WAIT and CANCEL (22 R350 to R353; 20 R323 to R325): the operands are checked in order; a launch that passes is
refused where the service cannot honour its budget (its own estimate, notes/assumptions/2.md) or its regions find no room
(notes/assumptions/54.md), and admitted otherwise; a continuation is resumed once its launch has completed; WAIT is answered at once for
what has ended, a launch or a copy, and stands in line otherwise; CANCEL answers SUCCESS, and ends every group of an unfinished launch, or
in the KEEP form stops it as an expired budget does. The order of LAUNCH's checks is the model's choice (notes/assumptions/27.md), and the
layout of a response's body too (10.md). -/
def Obligations.Launching : Prop :=
  ∀ (s : State) (h : CmdHead), s.takes h →
    (∀ o x, s.image? o.image = none → Answered (.launch h o) s h 0x06#8 .notFound ∧
      (x.cont = none → Answered (.launchx h o x) s h 0x07#8 .notFound)) ∧
    (∀ o x im, s.image? o.image = some im → im.charts[o.chart]? = none → Answered (.launch h o) s h 0x06#8 .invalidOperand ∧
      (x.cont = none → Answered (.launchx h o x) s h 0x07#8 .invalidOperand)) ∧
    (∀ o x im c, s.image? o.image = some im → im.charts[o.chart]? = some c →
      let checks := fun (i : Instr) cmd bkpt sample =>
        (s.launchChartsOk im c = false → Answered i s h cmd .invalidChart) ∧
        (s.launchChartsOk im c = true → LaunchOps.bad o c = true → Answered i s h cmd .invalidOperand) ∧
        (s.launchChartsOk im c = true → LaunchOps.bad o c = false → (∃ p, p ∈ o.preds ∧ s.admittedId p = false) →
          Answered i s h cmd .notFound) ∧
        (s.launchChartsOk im c = true → LaunchOps.bad o c = false → (∀ p, p ∈ o.preds → s.admittedId p = true) →
          match s.chooseDies o.dies.toNat o.dsize with
          | none => ∃ t, exec i s = .next t ∧ t.responses = s.responses ++ [resp h cmd .budgetRefused []] ∧ t.launches = s.launches
          | some m =>
            (s.imagesOk o (diesOf m).length = false →
              ∃ t, exec i s = .next t ∧ t.responses = s.responses ++ [resp h cmd .invalidOperand []] ∧ t.launches = s.launches) ∧
            (s.imagesOk o (diesOf m).length = true →
              ∃ t l, exec i s = .next t ∧ t.launches = s.launches ++ [l] ∧ l.id = s.nextId ∧ l.phase = .admitted ∧
                l.dies = diesOf m ∧ l.args = o.args ∧ l.dsize = o.dsize ∧ l.load = o.load ∧ l.save = o.save ∧ l.preds = o.preds ∧
                l.budget = (if c.budget = 0 then o.budget else c.budget) ∧ l.bkpt = bkpt ∧ l.sample = sample ∧ l.stamp = s.cycle ∧
                l.region = [] ∧ t.mem = s.mem ∧ t.responses = s.responses ++ [resp h cmd .admitted (leBytes 8 s.nextId)]))
      checks (.launch h o) 0x06#8 0#16 0 ∧ (x.cont = none → checks (.launchx h o x) 0x07#8 x.bkpt x.sample)) ∧
    (∀ o x k, x.cont = some k →
      ((∀ e, e ∈ s.conts → e.1 ≠ k) → Answered (.launchx h o x) s h 0x07#8 .notFound) ∧
      (∀ old l c, s.conts.find? (fun e => e.1 == k) = some (k, old) → s.launch? old = some l → s.rootChart l = some c →
        (o.budget = 0 ∨ 16 ≤ o.dies.toNat → Answered (.launchx h o x) s h 0x07#8 .invalidOperand) ∧
        (o.budget ≠ 0 → o.dies.toNat < 16 → l.phase ≠ .complete → Answered (.launchx h o x) s h 0x07#8 .busy) ∧
        (o.budget ≠ 0 → o.dies.toNat < 16 → l.phase = .complete →
          if s.exportFits l.dies l.dsize = true ∧ Config.budgetFits s.fresh = true then
            ∃ t n, exec (.launchx h o x) s = .next t ∧ n ∈ t.launches ∧ n.id = s.nextId ∧ n.region = l.region ∧ n.bins = l.bins ∧
              n.shares = l.shares ∧ n.origin = l.origin ∧ n.front = l.front ∧ n.args = l.args ∧ n.dies = l.dies ∧ n.budget = o.budget ∧
              n.stamp = s.cycle ∧ (∀ e, e ∈ t.conts → e.1 ≠ k) ∧ t.mem = s.mem ∧
              t.responses = s.responses ++ [resp h 0x07#8 .admitted (leBytes 8 s.nextId)]
          else ∃ t, exec (.launchx h o x) s = .next t ∧ t.responses = s.responses ++ [resp h 0x07#8 .budgetRefused []] ∧
            t.launches = s.launches ∧ t.conts = s.conts))) ∧
    (∀ id n,
      let waits := exec (.wait h id n) s = .next { s with
        nextId := s.nextId + 1
        waits := s.waits ++ [{ id := s.nextId, target := id, deadline := s.cycle + n * 800, session := h.session, tag := h.tag }] }
      let answers := fun st body => exec (.wait h id n) s = .next { s with responses := s.responses ++ [resp h 0x08#8 st body] }
      (s.admittedId id = false → Answered (.wait h id n) s h 0x08#8 .notFound) ∧
      (∀ l, s.launch? id = some l → (l.phase = .complete → answers l.status l.record) ∧ (l.phase ≠ .complete → waits)) ∧
      (∀ c, s.launch? id = none → s.copies.find? (fun c => c.id == id) = some c →
        (∀ st, c.done = some st → answers st (leBytes 2 st.code)) ∧ (c.done = none → waits))) ∧
    (∀ id, s.launch? id = none → Answered (.cancel h id) s h 0x09#8 .notFound ∧ Answered (.cancelKeep h id) s h 0x09#8 .notFound) ∧
    (∀ id l, s.launch? id = some l →
      (((l.phase ≠ .admitted ∧ l.phase ≠ .dispatching) ∨ l.saved = true) →
        Answered (.cancel h id) s h 0x09#8 .success ∧ Answered (.cancelKeep h id) s h 0x09#8 .success) ∧
      (l.phase = .admitted ∨ l.phase = .dispatching → l.saved = false →
        (∃ t m, exec (.cancel h id) s = .next t ∧ t.launch? id = some m ∧ m.phase = .cancelled ∧ m.status = .cancelled ∧
          (∀ g : Group, g ∈ t.groups → g.launch = id → g.status = .done ∧ g.teams = []) ∧
          t.responses = s.responses ++ [resp h 0x09#8 .success []] ∧ t.mem = s.mem) ∧
        ∃ t m, exec (.cancelKeep h id) s = .next t ∧ t.launch? id = some m ∧ m.phase = .stopped ∧ m.status = .budgetExpired ∧
          m.cont = s.nextId ∧
          ((∀ g, g ∈ s.groupsOf id → s.Calm g) → ∀ i g, t.group? i = some g → g.launch = id → g.resident = false) ∧
          t.conts = s.conts ++ [(s.nextId, id)] ∧ t.responses = s.responses ++ [resp h 0x09#8 .success []]))

/-- LOAD, UNLOAD and the remaining commands (22 R348, R355 to R361; 03 R60; 21 R342, R343; 10 R191): an image whose header or tables break
the limits is refused with IMAGE_FORMAT; one that passes is built from its Charts, its native block or the translation of its Eceel block
(one whose virtual registers do not fit keeps them above SPILL, and is refused with TRANSLATE_LIMIT where the total passes 4,096 bytes per
lane), its records and its data, placed at a multiple of 64 KiB, and measured; UNLOAD is BUSY while a launch of the image is unfinished,
and logs what it removes; QUERY, LOG, ATTEST and ISLAND answer; a limit or a cap outside its range is refused, and an island above a new
cap steps down to it. The bodies' layouts, LOAD's order of checks and the homes of an Eceel block's registers are the model's choice
(notes/assumptions/10.md, 28.md and 56.md). -/
def Obligations.ServiceCommands : Prop :=
  ∀ (s : State) (h : CmdHead), s.takes h →
    (∀ (va size : Nat) q d, (size = 0 ∨ 2 ^ 32 ≤ size ∨ s.mayRead (va : Int) size = false) →
      Answered (.load h va size q d) s h 0x04#8 .invalidOperand) ∧
    (∀ (va size : Nat) q d, 0 < size → size < 2 ^ 32 → s.mayRead (va : Int) size = true →
      let b := s.mem.readN va size
      let refused := fun st => exec (.load h va size q d) s = .next
        { s.meet va size with responses := s.responses ++ [resp h 0x04#8 st []] }
      ((headerOk b = false ∨ tablesOk b = false) → refused .imageFormat) ∧
      (headerOk b = true → tablesOk b = true → 1 < leAt b 8 4 → refused .imageLevel) ∧
      (headerOk b = true → tablesOk b = true → leAt b 8 4 ≤ 1 → signatureOk b q d = false → refused .signature) ∧
      (headerOk b = true → tablesOk b = true → leAt b 8 4 ≤ 1 → signatureOk b q d = true →
        let charts := entriesOf 256 (sectBytes b 0)
        let data := sectBytes b 3
        let entry := fun kind digest => ({ kind := kind, at_ := nsOf s.cycle, digest := digest } : MeasEntry)
        let records := fun k => (entriesOf 16 (k.drop (entryTable charts.length))).map leNat
        (nativeBlock b = none → (sectBytes b 4 = [] ∨ (sectBytes b 4).length < entryTable charts.length ∨
          ((sectBytes b 4).length - entryTable charts.length) % 16 ≠ 0 ∨ eceelOk (records (sectBytes b 4)) = false) →
            refused .imageFormat) ∧
        (∀ k, nativeBlock b = some k → k.length < entryTable charts.length → refused .imageFormat) ∧
        let cs := charts.map Chart.ofBytes
        let eceel := fun k => nativeBlock b = none ∧ k = sectBytes b 4 ∧ k ≠ [] ∧ entryTable charts.length ≤ k.length ∧
          (k.length - entryTable charts.length) % 16 = 0 ∧ eceelOk (records k) = true
        (∀ k, eceel k → eceelNative (records k) cs = none → eceelSpilled (records k) cs = none → refused .translateLimit) ∧
        (∀ k text binds kept, eceelSpilled (records k) cs = some (text, binds, kept) → kept % 16 = 0 ∧ ∀ c, c ∈ cs → c.spill + kept ≤ 4096) ∧
        ∀ k text binds kept, ((nativeBlock b = some k ∧ text = codeWords (k.drop (entryTable charts.length)) ∧ binds = [] ∧ kept = 0) ∨
            (eceel k ∧ eceelNative (records k) cs = some text ∧ binds = [] ∧ kept = 0) ∨
            (eceel k ∧ eceelNative (records k) cs = none ∧ eceelSpilled (records k) cs = some (text, binds, kept))) →
          ∀ u at_, entryTable charts.length ≤ k.length → (s.meet va size).placeData data = some (u, at_) →
            ∃ t im, exec (.load h va size q d) s = .next t ∧ t.images = s.images ++ [im] ∧ im.id = s.nextId ∧ im.data = at_ ∧
              at_ % 65536 = 0 ∧ im.charts.length = charts.length ∧
              (∀ (i : Nat) (c : Chart), im.charts[i]? = some c → ∃ bs, charts[i]? = some bs ∧
                c = (Chart.ofBytes bs).withEntries kept ((List.range 5).map fun j => leAt k (20 * i + 4 * j) 4)) ∧
              im.text = text ∧ im.binds = binds ∧ im.nrecs = (sectBytes b 1).length / 64 ∧
              (∀ (i : Nat) (x : Byte), data[i]? = some x → t.mem.read (at_ + i) = x) ∧
              (∀ (i : Nat) r, (entriesOf 64 (sectBytes b 1))[i]? = some r → t.mem.readN (im.recs + 64 * i) 64 = loadedRecord b at_ i r) ∧
              t.pages = u.pages ∧ t.launches = s.launches ∧ t.groups = s.groups ∧
              t.measlog = (if isSigned b then
                (s.measlog.push (entry 3 (Config.sha3 b))).push (entry 4 (Config.sha3 ((sectBytes b 7).take 2592)))
                else s.measlog.push (entry 3 (Config.sha3 b))) ∧
              t.responses = s.responses ++ [resp h 0x04#8 .success (leBytes 8 s.nextId)]) ∧
      ∃ t st body, exec (.load h va size q d) s = .next t ∧ t.responses = s.responses ++ [resp h 0x04#8 st body] ∧
        (st ≠ .success → t = { s.meet va size with responses := t.responses })) ∧
    (∀ im, (s.image? im = none → Answered (.unload h im) s h 0x05#8 .notFound) ∧
      (∀ k, s.image? im = some k → (∃ l, l ∈ s.launches ∧ l.image = im ∧ l.live = true) → Answered (.unload h im) s h 0x05#8 .busy) ∧
      (∀ k, s.image? im = some k → (∀ l, l ∈ s.launches → l.image = im → l.live = false) →
        exec (.unload h im) s = .next { s with
          images := s.images.filter fun i => i.id != im
          measlog := s.measlog.push { kind := 5, at_ := nsOf s.cycle, digest := k.digest }
          responses := s.responses ++ [resp h 0x05#8 .success []] })) ∧
    (∃ body, exec (.query h) s = .next { s with responses := s.responses ++ [resp h 0x01#8 .success body] }) ∧
    (∀ sel a n, 4 ≤ sel → Answered (.log h sel a n) s h 0x0C#8 .invalidOperand) ∧
    (∀ sel a n, sel < 4 → ∃ body, exec (.log h sel a n) s = .next { s with responses := s.responses ++ [resp h 0x0C#8 .success body] }) ∧
    (∀ n, n.length ≠ 32 → Answered (.attest h n) s h 0x0B#8 .invalidOperand) ∧
    (∀ n, n.length = 32 → exec (.attest h n) s = .next { s with responses := s.responses ++
      [resp h 0x0B#8 .success (s.measBytes ++ Config.certChain ++ Config.mldsaSign (Config.sha3 (n ++ s.measBytes)))] }) ∧
    exec (.islandRead h) s = .next { s with responses := s.responses ++ [resp h 0x0D#8 .success s.islandBody] } ∧
    (∀ w caps, ((∃ n, w = some n ∧ (n < 1000 ∨ 2800 < n)) ∨ ∃ c, c ∈ caps ∧ (1024 ≤ c.1 ∨ 4 ≤ c.2)) →
      Answered (.islandSet h w caps) s h 0x0D#8 .invalidOperand) ∧
    (∀ w caps, (∀ n, w = some n → 1000 ≤ n ∧ n ≤ 2800) → (∀ c, c ∈ caps → c.1 < 1024 ∧ c.2 < 4) →
      ∃ t, exec (.islandSet h w caps) s = .next t ∧ t.limit = w.getD s.limit ∧
        t.responses = s.responses ++ [resp h 0x0D#8 .success t.islandBody] ∧ t.measlog.next = s.measlog.next + 1 ∧
        ∀ i n, caps = [(i, n)] → (t.slotOf i).cap.code = n ∧ (t.slotOf i).point.code = max n (s.slotOf i).point.code)

/-! ### The machine as a whole -/

/-- A step runs the decoded instruction (02 R41, 01 R18): where a team is next (the agenda's head, or by default the first in the issue
order), its slot chooses it and it may issue, what may wait no longer going first, the state is moved on to its issue and the instruction
that its words decode to is executed there, if its fields hold, no interlock holds it and no checked source is late, and with it the
members that fuse with it (06 R125); a record of a translated Eceel block executes with its virtual registers in the native ones lent to
them, which hold their own values again afterwards (22 R357). A team that its slot does not choose, or that may not issue, does nothing
(07 R143). A step that may wait no longer goes first, and an issue that would pass over its cycle waits (21 R337 to R342); a step of the
device or a command at the agenda's head, or due, is executed; an access that is outstanding is performed; a command in line is taken up
when its turn comes; with nothing due and no team ready, one cycle passes. Then the waiting teams are marked as ready or not (07 R143).
What moves next is the model's schedule (notes/assumptions/1.md). -/
def Obligations.StepRunsDecoded : Prop :=
  ∀ s : State,
    (∀ gi ti x i, s.pick = some (.team gi ti) → s.picked.canIssue gi ti = true → s.picked.contends gi ti = true →
      (s.picked.atIssue gi ti).ctx? = some x →
      decodeWords (x.im.word x.t.pc) (x.im.word (x.t.pc + 8#64)) (x.t.pc.toNat / 8 % 2 == 1) = .ok i →
      x.fieldsOk i = true → x.interlock i = none → x.shortfall i = false → x.im.bindsAt x.t.pc = [] →
      x.g.gid = gi ∧ s.cycle ≤ x.s.cycle ∧ x.s.cur = some (gi, ti) ∧ x.s.mem = s.mem ∧
      step s = mapNext (fun u => ((x.s.fuse u gi ti).afterIssue gi ti).mark) (exec i x.s) ∧
      ((∀ j rest, x.nextTwo = j :: rest → fusesTwo i j = false) → ∀ u, x.s.fuse u gi ti = u) ∧
      ∀ u, x.s.fuse u gi ti = u ∨ ∃ n, (n = 1 ∨ n = 2) ∧
        u.members gi ti (x.t.pc + 8#64) x.t.inhandler n = some (x.s.fuse u gi ti)) ∧
    (∀ gi ti, s.pick = some (.team gi ti) → (s.picked.canIssue gi ti = false ∨ s.picked.contends gi ti = false) →
      step s = .next s.picked.mark) ∧
    (∀ gi ti x i b, s.pick = some (.team gi ti) → s.picked.canIssue gi ti = true → s.picked.contends gi ti = true →
      (s.picked.atIssue gi ti).ctx? = some x →
      decodeWords (x.im.word x.t.pc) (x.im.word (x.t.pc + 8#64)) (x.t.pc.toNat / 8 % 2 == 1) = .ok i →
      x.im.bindsAt x.t.pc = b → b ≠ [] → x.boundLock b i = none →
      step s = mapNext (fun u => ((x.s.fuse (u.unbound x.g.gid x.t.idx x.w x.t b) gi ti).afterIssue gi ti).mark)
        (runFetched ({ x with t := x.t.lend x.w b } : Ctx).save)) ∧
    (∀ (t u : Team) n l a k, l < n → a < 256 → k < 2 ^ 22 →
      let b := [(RegName.v a, RegName.v k)]
      let get := Store.get { val := 0#32, poi := false }
      get (t.lend n b).v (vKey l a) = get t.vx (xKey l k) ∧ (t.lend n b).vx = t.vx ∧
      (∀ c, c < 256 → c ≠ a → get (t.lend n b).v (vKey l c) = get t.v (vKey l c)) ∧
      get (u.takeBack n b t).vx (xKey l k) = get u.v (vKey l a) ∧ get (u.takeBack n b t).v (vKey l a) = get t.v (vKey l a) ∧
      ∀ c, c < 256 → c ≠ a → get (u.takeBack n b t).v (vKey l c) = get u.v (vKey l c)) ∧
    (∀ i, s.pick = some (.ev i) → step s = mapNext (fun u => u.afterEvent.mark) (exec i { s.picked with cur := none })) ∧
    (∀ m, s.pick = some (.micro m) → (∀ k, m ≠ .serve k) → step s = .next (s.picked.micro m).mark) ∧
    (∀ k q, s.pick = some (.micro (.serve k)) → s.picked.lineReady k = true → s.picked.lines[k]? = some q →
      step s = mapNext (fun u => ({ u with takenUp := none } : State).afterEvent.mark)
        (exec q.2 { s.picked with cur := none, takenUp := some q.1 })) ∧
    (s.pick = none → step s = .next (s.advance (s.cycle + 1)).mark) ∧
    (∀ i, s.forced = some i → s.pick = some (.ev i) ∧ s.picked = s) ∧
    (s.forced = none →
      (∀ p r, s.agenda = p :: r → (∀ gi ti, p = .team gi ti → s.inBounds gi ti = true) →
        s.pick = some p ∧ s.picked = { s with agenda := r }) ∧
      (∀ gi ti r, s.agenda = .team gi ti :: r → s.inBounds gi ti = false → s.pick = none) ∧
      (s.agenda = [] → s.lrq ≠ [] → s.pick = some (.micro (.lrset 0))) ∧
      (s.agenda = [] → s.lrq = [] →
        (∀ p, s.matOpen = some p → s.pick = some (.micro (.mat p.1 p.2))) ∧
        (s.matOpen = none →
          (∀ k, s.nextLine = some k → s.pick = some (.micro (.serve k))) ∧
          (s.nextLine = none → (∀ i, s.nextEvent = some i → s.pick = some (.ev i)) ∧
            (s.nextEvent = none → ∀ p, s.nextTeam = some p →
              s.pick = if s.inBounds p.1 p.2 = true then some (.team p.1 p.2) else none) ∧
            (s.nextEvent = none → s.nextTeam = none → s.pick = none))))) ∧
    ∀ (g : Group) (t : Team), s.markTeam g t = { t with readySince := (s.markTeam g t).readySince, wait := (s.markTeam g t).wait } ∧
      (g.stop = true → s.markTeam g t = { t with readySince := none }) ∧
      ((s.markTeam g t).wait = t.wait ∨ (s.markTeam g t).wait = some .again) ∧
      (s.canIssue g.gid t.idx = false → (s.markTeam g t).wait = t.wait ∧ (t.wait ≠ none → (s.markTeam g t).readySince = none)) ∧
      (g.stop = false → s.canIssue g.gid t.idx = true → ∀ u, runBound (s.atIssue g.gid t.idx) = .next u →
        let blocks := ((u.group? g.gid).bind fun k => k.team? t.idx).bind Team.wait
        (blocks = none → (s.markTeam g t).wait = t.wait ∧
          (t.wait ≠ none → (s.markTeam g t).readySince = some (t.readySince.getD (max (s.clockOf g t) t.earliest)))) ∧
        (blocks ≠ none → (s.markTeam g t).wait ≠ none ∧ (s.markTeam g t).readySince = none)) ∧
      s.mark = { s with groups := s.groups.map fun g => { g with teams := g.teams.map (s.markTeam g) } }

/-- The checks of an issue (02 R41, R42; 01 R9, R20, R21): a rejected word raises its trap, a register that the team does not have
RESERVED_FIELD, an instruction waits while a load is still to write one of its destinations or an atomic one of its registers, and a late
source with CHK set raises STALL_SHORTFALL; nothing else of the instruction happens. (Said of a record that is not one bound to virtual
registers.) That these traps carry lanes and address 0 is the model's choice (notes/assumptions/64.md), and that a source is late pass by
pass is DEDUCED (39.md). -/
def Obligations.IssueChecks : Prop :=
  ∀ (s : State) gi ti x, s.pick = some (.team gi ti) → s.picked.canIssue gi ti = true → s.picked.contends gi ti = true →
    (s.picked.atIssue gi ti).ctx? = some x → x.im.bindsAt x.t.pc = [] →
    let word := decodeWords (x.im.word x.t.pc) (x.im.word (x.t.pc + 8#64)) (x.t.pc.toNat / 8 % 2 == 1)
    let ends := fun o => step s = mapNext (fun u => (u.afterIssue gi ti).mark) o
    let traps := fun cause => ends (x.trap cause 0#1024 0#64)
    (word = .error .illegalOpcode → traps 0x01#8) ∧ (word = .error .illegalPair → traps 0x02#8) ∧
    (word = .error .reservedField → traps 0x03#8) ∧ (word = .error .align → traps 0x06#8) ∧
    (∀ i, word = .ok i →
      let named := i.uses.src ++ i.uses.now ++ i.uses.dst
      (∀ k, RegName.v k ∈ named → x.t.nregs ≤ k → traps 0x03#8) ∧
      (x.fieldOk i = false → traps 0x03#8) ∧
      (x.fieldsOk i = true → ∀ w, x.interlock i = some w → ends (x.block w) ∧
        ∃ t g, x.block w = .next t ∧ t.mem = x.s.mem ∧ t.group? x.g.gid = some g ∧
          g = { x.g with teams := x.g.teams.set x.t.idx { x.t with wait := some w, readySince := none } }) ∧
      (x.fieldsOk i = true → x.interlock i = none → x.shortfall i = true → traps 0x04#8) ∧
      (x.t.tctl.getLsbD 3 = false → x.shortfall i = false))

/-- Words written out from the encodings of 02 R24 to R36 decode to the instructions that they stand for. -/
def Obligations.DecodeWords : Prop :=
  let at_ := fun stall pred => ({ stall := stall, neg := false, pred := pred } : Head)
  decodeWords 0x004C060808020100#64 0#64 false = .ok (.iadd
    { h := at_ 3#4 3#6, ty := .s32, sat := false, sub := 0#3, d := 4#8, a := 4#8, b := .imm8 1#8, c := 0#8 }) ∧
  decodeWords 0x1001840C04000188#64 0x3FC00000#64 false = .ok (.fadd
    { h := { stall := 0#4, neg := true, pred := 2#6 }, ty := .f32, rnd := .rtz, sub := 0#2, d := 6#8, a := 2#8
      b := .imm32 0x3FC00000#32, c := 0#8 }) ∧
  decodeWords 0x4000081206820020#64 0#64 true = .ok (.ldl
    { h := at_ 0#4 4#6, size := .b32, hofs := false, sx := false, r := 9#8, a := 3#8, off := .short 65#8, hdl := 0#5 }) ∧
  decodeWords 0x30417E0002000000#64 0xFFFFFFFC#64 false = .ok (.brc 0#4 .any 1#6 0xFFFFFFFC#32) ∧
  decodeWords 0x58007E0000200101#64 0#64 true = .ok (.tcommitCk 0#4 (.imm8 16#8)) ∧
  decodeWords 0x60017E0004080080#64 0x500000000#64 false = .ok (.cpin 0#4 2#5 5#16 (.scl 4#6)) ∧
  decodeWords 0x60017E0004080080#64 0x500000000#64 true = .error .align ∧
  decodeWords 0x70010200000A1280#64 0x6000000000#64 false = .ok (.mma
    { h := at_ 0#4 1#6, reuse := false, tile := 0#4, a := 0#8, b := .tile 0#5 3#16 5#6, f := 9#8 }) ∧
  decodeWords 0x84007E0000000003#64 0#64 false = .ok (.bkpt 0#4 3#4) ∧
  decodeWords 0x108A7E0E0606001C#64 0x00407E1002000000#64 false = .ok (.pairedIssue
    (.flt .fmul { h := at_ 2#4 63#6, ty := .f32, rnd := .dyn, sub := 0#2, d := 7#8, a := 3#8, b := .vec 3#8, c := 0#8 })
    (.int .iadd { h := at_ 0#4 63#6, ty := .s32, sat := false, sub := 0#3, d := 8#8, a := 1#8, b := .vec 0#8, c := 0#8 }))

/-- Decode and encode agree (02 R24 to R41): the words of every well-formed instruction, as bytes, decode to it, whatever its operands and
wherever an aligned instruction may stand; and what the decoder accepts is well formed, with those words. -/
def Obligations.RoundTrip : Prop :=
  (∀ i w, i.wf = true → encode i = some w → decode w.bytes false = .ok i ∧ (w.2 = none → decode w.bytes true = .ok i)) ∧
  ∀ w0 w1 odd i, decodeWords w0 w1 odd = .ok i → i.wf = true ∧ (encode i = some (w0, none) ∨ encode i = some (w0, some w1))

/-- An opcode that 02 R39 and R40 leave unassigned raises ILLEGAL_OPCODE, as the first word and, by R41's step 6, as the second of a pair.
That the trap carries lanes and address 0 is the model's choice (notes/assumptions/64.md). -/
def Obligations.UnassignedOpcodes : Prop :=
  ∀ w0 w1 : DWord,
    let free := fun w : DWord =>
      let c := (w.extractLsb' 54 10).toNat
      let within := fun a b => a ≤ c ∧ c ≤ b
      c = 0 ∨ within 0x00E 0x00F ∨ within 0x015 0x017 ∨ within 0x01E 0x01F ∨ within 0x024 0x027 ∨ within 0x02B 0x02F ∨
      within 0x033 0x03F ∨ within 0x04A 0x04F ∨ within 0x058 0x05F ∨ within 0x063 0x06F ∨ within 0x071 0x07F ∨ within 0x086 0x09F ∨
      c = 0x0AF ∨ within 0x0B4 0x0BF ∨ within 0x0C5 0x0C7 ∨ c = 0x0CF ∨ within 0x0D2 0x0DF ∨ within 0x0E9 0x0FF ∨
      within 0x102 0x107 ∨ within 0x10A 0x10F ∨ within 0x112 0x11F ∨ within 0x121 0x13F ∨ within 0x144 0x15F ∨ within 0x166 0x167 ∨
      within 0x16B 0x16F ∨ within 0x173 0x177 ∨ within 0x17A 0x17F ∨ within 0x184 0x187 ∨ within 0x18B 0x18F ∨ within 0x192 0x1BF ∨
      within 0x1C2 0x1C3 ∨ within 0x1CA 0x1FF ∨ within 0x202 0x207 ∨ within 0x20D 0x20F ∨ within 0x211 0x3FF
    (free w0 → (∀ odd, decodeWords w0 w1 odd = .ok (.unassignedOpcode w0)) ∧
      ∀ x : Ctx, x.s.ctx? = some x → exec (.unassignedOpcode w0) x.s = x.trap 0x01#8 0#1024 0#64) ∧
    (free w1 → w0.extractLsb' 48 2 = 2#2 → (parseHalf (Raw.unpack w0)).isSome = true →
      decodeWords w0 w1 false = .error .illegalOpcode) ∧
    (¬ free w0 → ∀ odd i, decodeWords w0 w1 odd = .ok i → ∀ w, i ≠ .unassignedOpcode w)

/-- Main memory keeps its canonical form (an invariant of the model's memory): every step keeps it. -/
def Obligations.MemoryInvariant : Prop := ∀ s t : State, s.mem.wf = true → step s = .next t → t.mem.wf = true

/-- A step always answers a next state, unless the agenda names a native instruction as a step of the device, or the line holds something
other than host commands; and the cycle never goes back but by a module reset. -/
def Obligations.StepAnswers : Prop :=
  ∀ s : State, (∀ i r, s.agenda = .ev i :: r → encode i = none) → (∀ q, q ∈ s.queued → (headOf q.cmd).isSome = true) →
    ∃ t, step s = .next t ∧ ((∀ r, s.agenda ≠ .ev .moduleReset :: r) → s.cycle ≤ t.cycle)

/-- No native instruction changes what belongs to the resident service and to time: the page table, the images, the copies, waits and
edits under way, the continuations, the module limit, the responses sent, the page-table and measurement logs, the schedule, and the cycle
(22 R345, R351, R352, R360). -/
def Obligations.NativeService : Prop :=
  ∀ i (s t : State), (encode i).isSome = true → exec i s = .next t → t.service = s.service

/-- What module reset leaves (01 R15, 21 R343, 22 R351, R360): no page mapped, no image loaded, no launch admitted, cycle 0, a limit of
2,800 W. That every byte of memory then reads 0 and every island stands at F0 is the model's choice (notes/assumptions/6.md and 7.md). -/
def Obligations.ResetState : Prop :=
  let s := State.reset
  s.mem.wf = true ∧ s.cycle = 0 ∧ s.pages = [] ∧ s.images = [] ∧ s.launches = [] ∧ s.groups = [] ∧ s.copies = [] ∧ s.waits = [] ∧
  s.edits = [] ∧ s.queued = [] ∧ s.conts = [] ∧ s.responses = [] ∧ s.limit = 2800 ∧ s.cur = none ∧ s.errlog.entries = [] ∧ s.pagelog.entries = [] ∧
  s.bkptlog.entries = [] ∧ s.measlog.entries.map (fun e => e.kind) = [1, 2] ∧ (∀ a, s.mem.read a = 0#8) ∧
  s.takenUp = none ∧ ∀ i, (s.slotOf i).point = .f0
end

