-- ==== Sys2Proof/Laws/Memory.lean ====
section
/-!
SUPPORT. The laws of maps and memories: a read after a write, what a write leaves alone, and the canonical form, which every
operation keeps.
-/
namespace Sys2Proof

variable {α : Type} (d : α) (m : Store α) (k j : Nat) (v : α)

/-! ### Lookups -/

@[simp] theorem Store.get_nil : Store.get d ([] : Store α) k = d := rfl

theorem Store.get_insert_same : Store.get d (Store.insert m k v) k = v := by
  induction m with
  | nil => simp [Store.insert, Store.get]
  | cons e r ih =>
    unfold Store.insert
    split
    · simp [Store.get]
    · split
      · simp [Store.get]
      · rename_i h; simp [Store.get, h, ih]

theorem Store.get_insert_other (h : j ≠ k) : Store.get d (Store.insert m k v) j = Store.get d m j := by
  induction m with
  | nil => simp [Store.insert, Store.get, Ne.symm h]
  | cons e r ih =>
    unfold Store.insert
    split
    · simp [Store.get, Ne.symm h]
    · split
      · rename_i he; simp [Store.get, Ne.symm h, he]
      · simp [Store.get, ih]

theorem Store.get_erase_same : Store.get d (Store.erase m k) k = d := by
  induction m with
  | nil => rfl
  | cons e r ih =>
    unfold Store.erase
    split
    · exact ih
    · rename_i h; simp [Store.get, h, ih]

theorem Store.get_erase_other (h : j ≠ k) : Store.get d (Store.erase m k) j = Store.get d m j := by
  induction m with
  | nil => rfl
  | cons e r ih =>
    unfold Store.erase
    split
    · rename_i he; simp [Store.get, he, Ne.symm h, ih]
    · simp [Store.get, ih]

@[simp] theorem Store.get_put_same [DecidableEq α] : Store.get d (Store.put d m k v) k = v := by
  unfold Store.put
  split
  · rename_i h; rw [h]; exact Store.get_erase_same d m k
  · exact Store.get_insert_same d m k v

theorem Store.get_put_other [DecidableEq α] (h : j ≠ k) : Store.get d (Store.put d m k v) j = Store.get d m j := by
  unfold Store.put
  split
  · exact Store.get_erase_other d m k j h
  · exact Store.get_insert_other d m k j v h

/-! ### The canonical form -/

/-- The canonical form of a map, from its head: no entry equal to the default, and every later key larger. -/
theorem Store.wf_cons [DecidableEq α] (e : Nat × α) :
    Store.wf d (e :: m) = true ↔ e.2 ≠ d ∧ (∀ f ∈ m, e.1 < f.1) ∧ Store.wf d m = true := by
  induction m generalizing e with
  | nil => simp [Store.wf]
  | cons f r ih =>
    have step : Store.wf d (e :: f :: r) = true ↔ (e.2 ≠ d ∧ e.1 < f.1) ∧ Store.wf d (f :: r) = true := by
      simp only [Store.wf, Bool.and_eq_true, decide_eq_true_eq]
    rw [step]
    constructor
    · rintro ⟨⟨h1, h2⟩, h3⟩
      refine ⟨h1, ?_, h3⟩
      intro g hg
      rcases List.mem_cons.1 hg with rfl | hg
      · exact h2
      · exact Nat.lt_trans h2 (((ih f).1 h3).2.1 g hg)
    · rintro ⟨h1, h2, h3⟩
      exact ⟨⟨h1, h2 f (List.mem_cons_self)⟩, h3⟩

theorem Store.mem_erase {e : Nat × α} (h : e ∈ Store.erase m k) : e ∈ m := by
  induction m with
  | nil => exact h
  | cons f r ih =>
    unfold Store.erase at h
    split at h
    · exact List.mem_cons_of_mem _ (ih h)
    · rcases List.mem_cons.1 h with rfl | h
      · exact List.mem_cons_self
      · exact List.mem_cons_of_mem _ (ih h)

theorem Store.mem_insert {e : Nat × α} (h : e ∈ Store.insert m k v) : e = (k, v) ∨ e ∈ m := by
  induction m with
  | nil => exact Or.inl (by simpa [Store.insert] using h)
  | cons f r ih =>
    unfold Store.insert at h
    split at h
    · rcases List.mem_cons.1 h with h | h
      · exact Or.inl h
      · exact Or.inr h
    · split at h
      · rcases List.mem_cons.1 h with h | h
        · exact Or.inl h
        · exact Or.inr (List.mem_cons_of_mem _ h)
      · rcases List.mem_cons.1 h with rfl | h
        · exact Or.inr List.mem_cons_self
        · rcases ih h with h | h
          · exact Or.inl h
          · exact Or.inr (List.mem_cons_of_mem _ h)

theorem Store.wf_erase [DecidableEq α] (h : Store.wf d m = true) : Store.wf d (Store.erase m k) = true := by
  induction m with
  | nil => exact h
  | cons e r ih =>
    obtain ⟨h1, h2, h3⟩ := (Store.wf_cons d r e).1 h
    unfold Store.erase
    split
    · exact ih h3
    · exact (Store.wf_cons d _ e).2 ⟨h1, fun f hf => h2 f (Store.mem_erase r k hf), ih h3⟩

theorem Store.wf_insert [DecidableEq α] (hv : v ≠ d) (h : Store.wf d m = true) : Store.wf d (Store.insert m k v) = true := by
  induction m with
  | nil => simpa [Store.insert, Store.wf] using hv
  | cons e r ih =>
    obtain ⟨h1, h2, h3⟩ := (Store.wf_cons d r e).1 h
    unfold Store.insert
    split
    · rename_i hk
      refine (Store.wf_cons d _ _).2 ⟨hv, ?_, h⟩
      intro f hf
      rcases List.mem_cons.1 hf with rfl | hf
      · exact hk
      · exact Nat.lt_trans hk (h2 f hf)
    · rename_i hk
      split
      · rename_i he
        exact (Store.wf_cons d _ _).2 ⟨hv, fun f hf => he ▸ h2 f hf, h3⟩
      · rename_i he
        refine (Store.wf_cons d _ e).2 ⟨h1, ?_, ih h3⟩
        intro f hf
        rcases Store.mem_insert r k v hf with rfl | hf
        · simp only at *; omega
        · exact h2 f hf

/-- A write keeps the canonical form. -/
theorem Store.wf_put [DecidableEq α] (h : Store.wf d m = true) : Store.wf d (Store.put d m k v) = true := by
  unfold Store.put
  split
  · exact Store.wf_erase d m k h
  · rename_i hv; exact Store.wf_insert d m k v hv h

/-- Dropping entries keeps the canonical form. -/
theorem Store.wf_filter [DecidableEq α] (p : Nat × α → Bool) (h : Store.wf d m = true) :
    Store.wf d (m.filter p : Store α) = true := by
  induction m with
  | nil => exact h
  | cons e r ih =>
    obtain ⟨h1, h2, h3⟩ := (Store.wf_cons d r e).1 h
    rw [List.filter_cons]
    split
    · exact (Store.wf_cons d _ e).2 ⟨h1, fun f hf => h2 f (List.mem_filter.1 hf).1, ih h3⟩
    · exact ih h3

/-! ### Memories -/

variable (mem : Memory) (a b : Nat) (x : Byte)

@[simp] theorem Memory.read_nil : Memory.read [] a = 0#8 := rfl

/-- A read after a write of the same byte. -/
@[simp] theorem Memory.read_write_same : (mem.write a x).read a = x := Store.get_put_same 0#8 mem a x

/-- A write leaves every other byte alone. -/
theorem Memory.read_write_other (h : b ≠ a) : (mem.write a x).read b = mem.read b := Store.get_put_other 0#8 mem a b x h

/-- A write keeps the canonical form. -/
theorem Memory.wf_write (h : mem.wf = true) : (mem.write a x).wf = true := Store.wf_put 0#8 mem a x h

/-- Writes of bytes keep the canonical form. -/
theorem Memory.wf_writeN (bs : List Byte) (h : mem.wf = true) : (mem.writeN a bs).wf = true := by
  induction bs generalizing mem a with
  | nil => exact h
  | cons y ys ih => exact ih _ _ (Memory.wf_write mem a y h)

/-- Dropping bytes keeps the canonical form. -/
theorem Memory.wf_filter (p : Nat × Byte → Bool) (h : mem.wf = true) : Memory.wf (mem.filter p) = true :=
  Store.wf_filter 0#8 mem p h

/-- Bytes written in any order keep the canonical form. -/
theorem Memory.wf_foldl {β : Type} (at_ : β → Nat) (val : β → Byte) (l : List β) (h : mem.wf = true) :
    (l.foldl (fun (m : Memory) e => m.write (at_ e) (val e)) mem).wf = true := by
  induction l generalizing mem with
  | nil => exact h
  | cons e r ih => exact ih _ (Memory.wf_write mem _ _ h)

/-- Bytes below or above the written range stand. -/
theorem Memory.read_writeN_outside (bs : List Byte) (h : b < a ∨ a + bs.length ≤ b) :
    (mem.writeN a bs).read b = mem.read b := by
  induction bs generalizing mem a with
  | nil => rfl
  | cons y ys ih =>
    have e : (mem.writeN a (y :: ys)) = ((mem.write a y).writeN (a + 1) ys) := rfl
    simp only [List.length_cons] at h
    rw [e, ih _ _ (by omega), Memory.read_write_other mem a b y (by omega)]

/-- A written byte reads as it was written. -/
theorem Memory.read_writeN_inside (bs : List Byte) (i : Nat) (h : i < bs.length) :
    (mem.writeN a bs).read (a + i) = bs[i] := by
  induction bs generalizing mem a i with
  | nil => exact absurd h (Nat.not_lt_zero _)
  | cons y ys ih =>
    have e : (mem.writeN a (y :: ys)) = ((mem.write a y).writeN (a + 1) ys) := rfl
    rw [e]
    cases i with
    | zero => rw [Memory.read_writeN_outside _ _ _ _ (by omega)]; simp
    | succ i =>
      have h' : i < ys.length := by simpa using h
      rw [show a + (i + 1) = a + 1 + i by omega]
      simpa using ih (mem.write a y) (a + 1) i h'

/-- Bytes read back as they were written. -/
theorem Memory.readN_writeN (bs : List Byte) : (mem.writeN a bs).readN a bs.length = bs := by
  have aux : ∀ (m : Memory) (n k : Nat), (∀ i, i < n → (m.read (k + i)) = (bs[k - a + i]?).getD 0#8) → a ≤ k →
      m.readN k n = (List.range n).map fun i => (bs[k - a + i]?).getD 0#8 := by
    intro m n
    induction n with
    | zero => intro k _ _; rfl
    | succ n ih =>
      intro k hk hle
      have h1 : m.readN k (n + 1) = m.read k :: m.readN (k + 1) n := rfl
      rw [h1, ih (k + 1) (fun i hi => by
        have := hk (i + 1) (by omega)
        rw [show k + 1 + i = k + (i + 1) by omega, this, show k - a + (i + 1) = k + 1 - a + i by omega]) (by omega)]
      rw [List.range_succ_eq_map, List.map_cons, List.map_map]
      congr 1
      · have := hk 0 (by omega); simpa using this
      · apply List.map_congr_left
        intro i _
        simp only [Function.comp, Nat.succ_eq_add_one]
        rw [show k - a + (i + 1) = k + 1 - a + i by omega]
  rw [aux _ bs.length a (fun i hi => by
    rw [Memory.read_writeN_inside mem a bs i hi]; simp [hi]) (Nat.le_refl a)]
  apply List.ext_getElem
  · simp
  · intro i h1 h2
    simp at h1
    simp [h1]

end Sys2Proof
end

