-- ==== Sys2Proof/Laws/State.lean ====
section
/-!
SUPPORT. What each update of the state, of a group, a team or a context leaves alone, field by field: true by unfolding.
-/
namespace Sys2Proof.Machine

variable (s : State) (x : Ctx) (g : Group) (t : Team)


/-! ### State.setGroup -/

@[simp] theorem State.setGroup_cycle (q : Group) : (s.setGroup q).cycle = s.cycle := rfl
@[simp] theorem State.setGroup_mem (q : Group) : (s.setGroup q).mem = s.mem := rfl
@[simp] theorem State.setGroup_mpois (q : Group) : (s.setGroup q).mpois = s.mpois := rfl
@[simp] theorem State.setGroup_mbad (q : Group) : (s.setGroup q).mbad = s.mbad := rfl
@[simp] theorem State.setGroup_pages (q : Group) : (s.setGroup q).pages = s.pages := rfl
@[simp] theorem State.setGroup_images (q : Group) : (s.setGroup q).images = s.images := rfl
@[simp] theorem State.setGroup_launches (q : Group) : (s.setGroup q).launches = s.launches := rfl
@[simp] theorem State.setGroup_copies (q : Group) : (s.setGroup q).copies = s.copies := rfl
@[simp] theorem State.setGroup_xfers (q : Group) : (s.setGroup q).xfers = s.xfers := rfl
@[simp] theorem State.setGroup_waits (q : Group) : (s.setGroup q).waits = s.waits := rfl
@[simp] theorem State.setGroup_edits (q : Group) : (s.setGroup q).edits = s.edits := rfl
@[simp] theorem State.setGroup_queued (q : Group) : (s.setGroup q).queued = s.queued := rfl
@[simp] theorem State.setGroup_takenUp (q : Group) : (s.setGroup q).takenUp = s.takenUp := rfl
@[simp] theorem State.setGroup_lrq (q : Group) : (s.setGroup q).lrq = s.lrq := rfl
@[simp] theorem State.setGroup_conts (q : Group) : (s.setGroup q).conts = s.conts := rfl
@[simp] theorem State.setGroup_cores (q : Group) : (s.setGroup q).cores = s.cores := rfl
@[simp] theorem State.setGroup_slots (q : Group) : (s.setGroup q).slots = s.slots := rfl
@[simp] theorem State.setGroup_retain (q : Group) : (s.setGroup q).retain = s.retain := rfl
@[simp] theorem State.setGroup_waking (q : Group) : (s.setGroup q).waking = s.waking := rfl
@[simp] theorem State.setGroup_limit (q : Group) : (s.setGroup q).limit = s.limit := rfl
@[simp] theorem State.setGroup_islandAt (q : Group) : (s.setGroup q).islandAt = s.islandAt := rfl
@[simp] theorem State.setGroup_routers (q : Group) : (s.setGroup q).routers = s.routers := rfl
@[simp] theorem State.setGroup_packets (q : Group) : (s.setGroup q).packets = s.packets := rfl
@[simp] theorem State.setGroup_drain (q : Group) : (s.setGroup q).drain = s.drain := rfl
@[simp] theorem State.setGroup_drains (q : Group) : (s.setGroup q).drains = s.drains := rfl
@[simp] theorem State.setGroup_desks (q : Group) : (s.setGroup q).desks = s.desks := rfl
@[simp] theorem State.setGroup_responses (q : Group) : (s.setGroup q).responses = s.responses := rfl
@[simp] theorem State.setGroup_errlog (q : Group) : (s.setGroup q).errlog = s.errlog := rfl
@[simp] theorem State.setGroup_pagelog (q : Group) : (s.setGroup q).pagelog = s.pagelog := rfl
@[simp] theorem State.setGroup_bkptlog (q : Group) : (s.setGroup q).bkptlog = s.bkptlog := rfl
@[simp] theorem State.setGroup_measlog (q : Group) : (s.setGroup q).measlog = s.measlog := rfl
@[simp] theorem State.setGroup_nextId (q : Group) : (s.setGroup q).nextId = s.nextId := rfl
@[simp] theorem State.setGroup_agenda (q : Group) : (s.setGroup q).agenda = s.agenda := rfl
@[simp] theorem State.setGroup_cur (q : Group) : (s.setGroup q).cur = s.cur := rfl
@[simp] theorem State.setGroup_fresh (q : Group) : (s.setGroup q).fresh = s.fresh := rfl

/-! ### State.setLaunch -/

@[simp] theorem State.setLaunch_cycle (q : Launch) : (s.setLaunch q).cycle = s.cycle := rfl
@[simp] theorem State.setLaunch_mem (q : Launch) : (s.setLaunch q).mem = s.mem := rfl
@[simp] theorem State.setLaunch_mpois (q : Launch) : (s.setLaunch q).mpois = s.mpois := rfl
@[simp] theorem State.setLaunch_mbad (q : Launch) : (s.setLaunch q).mbad = s.mbad := rfl
@[simp] theorem State.setLaunch_pages (q : Launch) : (s.setLaunch q).pages = s.pages := rfl
@[simp] theorem State.setLaunch_images (q : Launch) : (s.setLaunch q).images = s.images := rfl
@[simp] theorem State.setLaunch_groups (q : Launch) : (s.setLaunch q).groups = s.groups := rfl
@[simp] theorem State.setLaunch_copies (q : Launch) : (s.setLaunch q).copies = s.copies := rfl
@[simp] theorem State.setLaunch_xfers (q : Launch) : (s.setLaunch q).xfers = s.xfers := rfl
@[simp] theorem State.setLaunch_waits (q : Launch) : (s.setLaunch q).waits = s.waits := rfl
@[simp] theorem State.setLaunch_edits (q : Launch) : (s.setLaunch q).edits = s.edits := rfl
@[simp] theorem State.setLaunch_queued (q : Launch) : (s.setLaunch q).queued = s.queued := rfl
@[simp] theorem State.setLaunch_takenUp (q : Launch) : (s.setLaunch q).takenUp = s.takenUp := rfl
@[simp] theorem State.setLaunch_lrq (q : Launch) : (s.setLaunch q).lrq = s.lrq := rfl
@[simp] theorem State.setLaunch_conts (q : Launch) : (s.setLaunch q).conts = s.conts := rfl
@[simp] theorem State.setLaunch_cores (q : Launch) : (s.setLaunch q).cores = s.cores := rfl
@[simp] theorem State.setLaunch_slots (q : Launch) : (s.setLaunch q).slots = s.slots := rfl
@[simp] theorem State.setLaunch_retain (q : Launch) : (s.setLaunch q).retain = s.retain := rfl
@[simp] theorem State.setLaunch_waking (q : Launch) : (s.setLaunch q).waking = s.waking := rfl
@[simp] theorem State.setLaunch_limit (q : Launch) : (s.setLaunch q).limit = s.limit := rfl
@[simp] theorem State.setLaunch_islandAt (q : Launch) : (s.setLaunch q).islandAt = s.islandAt := rfl
@[simp] theorem State.setLaunch_routers (q : Launch) : (s.setLaunch q).routers = s.routers := rfl
@[simp] theorem State.setLaunch_packets (q : Launch) : (s.setLaunch q).packets = s.packets := rfl
@[simp] theorem State.setLaunch_drain (q : Launch) : (s.setLaunch q).drain = s.drain := rfl
@[simp] theorem State.setLaunch_drains (q : Launch) : (s.setLaunch q).drains = s.drains := rfl
@[simp] theorem State.setLaunch_desks (q : Launch) : (s.setLaunch q).desks = s.desks := rfl
@[simp] theorem State.setLaunch_responses (q : Launch) : (s.setLaunch q).responses = s.responses := rfl
@[simp] theorem State.setLaunch_errlog (q : Launch) : (s.setLaunch q).errlog = s.errlog := rfl
@[simp] theorem State.setLaunch_pagelog (q : Launch) : (s.setLaunch q).pagelog = s.pagelog := rfl
@[simp] theorem State.setLaunch_bkptlog (q : Launch) : (s.setLaunch q).bkptlog = s.bkptlog := rfl
@[simp] theorem State.setLaunch_measlog (q : Launch) : (s.setLaunch q).measlog = s.measlog := rfl
@[simp] theorem State.setLaunch_nextId (q : Launch) : (s.setLaunch q).nextId = s.nextId := rfl
@[simp] theorem State.setLaunch_agenda (q : Launch) : (s.setLaunch q).agenda = s.agenda := rfl
@[simp] theorem State.setLaunch_cur (q : Launch) : (s.setLaunch q).cur = s.cur := rfl
@[simp] theorem State.setLaunch_fresh (q : Launch) : (s.setLaunch q).fresh = s.fresh := rfl

/-! ### State.setCore -/

@[simp] theorem State.setCore_cycle (d k : Nat) (q : Core) : (s.setCore d k q).cycle = s.cycle := rfl
@[simp] theorem State.setCore_mem (d k : Nat) (q : Core) : (s.setCore d k q).mem = s.mem := rfl
@[simp] theorem State.setCore_mpois (d k : Nat) (q : Core) : (s.setCore d k q).mpois = s.mpois := rfl
@[simp] theorem State.setCore_mbad (d k : Nat) (q : Core) : (s.setCore d k q).mbad = s.mbad := rfl
@[simp] theorem State.setCore_pages (d k : Nat) (q : Core) : (s.setCore d k q).pages = s.pages := rfl
@[simp] theorem State.setCore_images (d k : Nat) (q : Core) : (s.setCore d k q).images = s.images := rfl
@[simp] theorem State.setCore_launches (d k : Nat) (q : Core) : (s.setCore d k q).launches = s.launches := rfl
@[simp] theorem State.setCore_groups (d k : Nat) (q : Core) : (s.setCore d k q).groups = s.groups := rfl
@[simp] theorem State.setCore_copies (d k : Nat) (q : Core) : (s.setCore d k q).copies = s.copies := rfl
@[simp] theorem State.setCore_xfers (d k : Nat) (q : Core) : (s.setCore d k q).xfers = s.xfers := rfl
@[simp] theorem State.setCore_waits (d k : Nat) (q : Core) : (s.setCore d k q).waits = s.waits := rfl
@[simp] theorem State.setCore_edits (d k : Nat) (q : Core) : (s.setCore d k q).edits = s.edits := rfl
@[simp] theorem State.setCore_queued (d k : Nat) (q : Core) : (s.setCore d k q).queued = s.queued := rfl
@[simp] theorem State.setCore_takenUp (d k : Nat) (q : Core) : (s.setCore d k q).takenUp = s.takenUp := rfl
@[simp] theorem State.setCore_lrq (d k : Nat) (q : Core) : (s.setCore d k q).lrq = s.lrq := rfl
@[simp] theorem State.setCore_conts (d k : Nat) (q : Core) : (s.setCore d k q).conts = s.conts := rfl
@[simp] theorem State.setCore_slots (d k : Nat) (q : Core) : (s.setCore d k q).slots = s.slots := rfl
@[simp] theorem State.setCore_retain (d k : Nat) (q : Core) : (s.setCore d k q).retain = s.retain := rfl
@[simp] theorem State.setCore_waking (d k : Nat) (q : Core) : (s.setCore d k q).waking = s.waking := rfl
@[simp] theorem State.setCore_limit (d k : Nat) (q : Core) : (s.setCore d k q).limit = s.limit := rfl
@[simp] theorem State.setCore_islandAt (d k : Nat) (q : Core) : (s.setCore d k q).islandAt = s.islandAt := rfl
@[simp] theorem State.setCore_routers (d k : Nat) (q : Core) : (s.setCore d k q).routers = s.routers := rfl
@[simp] theorem State.setCore_packets (d k : Nat) (q : Core) : (s.setCore d k q).packets = s.packets := rfl
@[simp] theorem State.setCore_drain (d k : Nat) (q : Core) : (s.setCore d k q).drain = s.drain := rfl
@[simp] theorem State.setCore_drains (d k : Nat) (q : Core) : (s.setCore d k q).drains = s.drains := rfl
@[simp] theorem State.setCore_desks (d k : Nat) (q : Core) : (s.setCore d k q).desks = s.desks := rfl
@[simp] theorem State.setCore_responses (d k : Nat) (q : Core) : (s.setCore d k q).responses = s.responses := rfl
@[simp] theorem State.setCore_errlog (d k : Nat) (q : Core) : (s.setCore d k q).errlog = s.errlog := rfl
@[simp] theorem State.setCore_pagelog (d k : Nat) (q : Core) : (s.setCore d k q).pagelog = s.pagelog := rfl
@[simp] theorem State.setCore_bkptlog (d k : Nat) (q : Core) : (s.setCore d k q).bkptlog = s.bkptlog := rfl
@[simp] theorem State.setCore_measlog (d k : Nat) (q : Core) : (s.setCore d k q).measlog = s.measlog := rfl
@[simp] theorem State.setCore_nextId (d k : Nat) (q : Core) : (s.setCore d k q).nextId = s.nextId := rfl
@[simp] theorem State.setCore_agenda (d k : Nat) (q : Core) : (s.setCore d k q).agenda = s.agenda := rfl
@[simp] theorem State.setCore_cur (d k : Nat) (q : Core) : (s.setCore d k q).cur = s.cur := rfl
@[simp] theorem State.setCore_fresh (d k : Nat) (q : Core) : (s.setCore d k q).fresh = s.fresh := rfl

/-! ### State.setSlot -/

@[simp] theorem State.setSlot_cycle (k : Nat) (q : Slot) : (s.setSlot k q).cycle = s.cycle := rfl
@[simp] theorem State.setSlot_mem (k : Nat) (q : Slot) : (s.setSlot k q).mem = s.mem := rfl
@[simp] theorem State.setSlot_mpois (k : Nat) (q : Slot) : (s.setSlot k q).mpois = s.mpois := rfl
@[simp] theorem State.setSlot_mbad (k : Nat) (q : Slot) : (s.setSlot k q).mbad = s.mbad := rfl
@[simp] theorem State.setSlot_pages (k : Nat) (q : Slot) : (s.setSlot k q).pages = s.pages := rfl
@[simp] theorem State.setSlot_images (k : Nat) (q : Slot) : (s.setSlot k q).images = s.images := rfl
@[simp] theorem State.setSlot_launches (k : Nat) (q : Slot) : (s.setSlot k q).launches = s.launches := rfl
@[simp] theorem State.setSlot_groups (k : Nat) (q : Slot) : (s.setSlot k q).groups = s.groups := rfl
@[simp] theorem State.setSlot_copies (k : Nat) (q : Slot) : (s.setSlot k q).copies = s.copies := rfl
@[simp] theorem State.setSlot_xfers (k : Nat) (q : Slot) : (s.setSlot k q).xfers = s.xfers := rfl
@[simp] theorem State.setSlot_waits (k : Nat) (q : Slot) : (s.setSlot k q).waits = s.waits := rfl
@[simp] theorem State.setSlot_edits (k : Nat) (q : Slot) : (s.setSlot k q).edits = s.edits := rfl
@[simp] theorem State.setSlot_queued (k : Nat) (q : Slot) : (s.setSlot k q).queued = s.queued := rfl
@[simp] theorem State.setSlot_takenUp (k : Nat) (q : Slot) : (s.setSlot k q).takenUp = s.takenUp := rfl
@[simp] theorem State.setSlot_lrq (k : Nat) (q : Slot) : (s.setSlot k q).lrq = s.lrq := rfl
@[simp] theorem State.setSlot_conts (k : Nat) (q : Slot) : (s.setSlot k q).conts = s.conts := rfl
@[simp] theorem State.setSlot_cores (k : Nat) (q : Slot) : (s.setSlot k q).cores = s.cores := rfl
@[simp] theorem State.setSlot_retain (k : Nat) (q : Slot) : (s.setSlot k q).retain = s.retain := rfl
@[simp] theorem State.setSlot_waking (k : Nat) (q : Slot) : (s.setSlot k q).waking = s.waking := rfl
@[simp] theorem State.setSlot_limit (k : Nat) (q : Slot) : (s.setSlot k q).limit = s.limit := rfl
@[simp] theorem State.setSlot_islandAt (k : Nat) (q : Slot) : (s.setSlot k q).islandAt = s.islandAt := rfl
@[simp] theorem State.setSlot_routers (k : Nat) (q : Slot) : (s.setSlot k q).routers = s.routers := rfl
@[simp] theorem State.setSlot_packets (k : Nat) (q : Slot) : (s.setSlot k q).packets = s.packets := rfl
@[simp] theorem State.setSlot_drain (k : Nat) (q : Slot) : (s.setSlot k q).drain = s.drain := rfl
@[simp] theorem State.setSlot_drains (k : Nat) (q : Slot) : (s.setSlot k q).drains = s.drains := rfl
@[simp] theorem State.setSlot_desks (k : Nat) (q : Slot) : (s.setSlot k q).desks = s.desks := rfl
@[simp] theorem State.setSlot_responses (k : Nat) (q : Slot) : (s.setSlot k q).responses = s.responses := rfl
@[simp] theorem State.setSlot_errlog (k : Nat) (q : Slot) : (s.setSlot k q).errlog = s.errlog := rfl
@[simp] theorem State.setSlot_pagelog (k : Nat) (q : Slot) : (s.setSlot k q).pagelog = s.pagelog := rfl
@[simp] theorem State.setSlot_bkptlog (k : Nat) (q : Slot) : (s.setSlot k q).bkptlog = s.bkptlog := rfl
@[simp] theorem State.setSlot_measlog (k : Nat) (q : Slot) : (s.setSlot k q).measlog = s.measlog := rfl
@[simp] theorem State.setSlot_nextId (k : Nat) (q : Slot) : (s.setSlot k q).nextId = s.nextId := rfl
@[simp] theorem State.setSlot_agenda (k : Nat) (q : Slot) : (s.setSlot k q).agenda = s.agenda := rfl
@[simp] theorem State.setSlot_cur (k : Nat) (q : Slot) : (s.setSlot k q).cur = s.cur := rfl
@[simp] theorem State.setSlot_fresh (k : Nat) (q : Slot) : (s.setSlot k q).fresh = s.fresh := rfl

/-! ### State.setRouter -/

@[simp] theorem State.setRouter_cycle (d k : Nat) (q : Router) : (s.setRouter d k q).cycle = s.cycle := rfl
@[simp] theorem State.setRouter_mem (d k : Nat) (q : Router) : (s.setRouter d k q).mem = s.mem := rfl
@[simp] theorem State.setRouter_mpois (d k : Nat) (q : Router) : (s.setRouter d k q).mpois = s.mpois := rfl
@[simp] theorem State.setRouter_mbad (d k : Nat) (q : Router) : (s.setRouter d k q).mbad = s.mbad := rfl
@[simp] theorem State.setRouter_pages (d k : Nat) (q : Router) : (s.setRouter d k q).pages = s.pages := rfl
@[simp] theorem State.setRouter_images (d k : Nat) (q : Router) : (s.setRouter d k q).images = s.images := rfl
@[simp] theorem State.setRouter_launches (d k : Nat) (q : Router) : (s.setRouter d k q).launches = s.launches := rfl
@[simp] theorem State.setRouter_groups (d k : Nat) (q : Router) : (s.setRouter d k q).groups = s.groups := rfl
@[simp] theorem State.setRouter_copies (d k : Nat) (q : Router) : (s.setRouter d k q).copies = s.copies := rfl
@[simp] theorem State.setRouter_xfers (d k : Nat) (q : Router) : (s.setRouter d k q).xfers = s.xfers := rfl
@[simp] theorem State.setRouter_waits (d k : Nat) (q : Router) : (s.setRouter d k q).waits = s.waits := rfl
@[simp] theorem State.setRouter_edits (d k : Nat) (q : Router) : (s.setRouter d k q).edits = s.edits := rfl
@[simp] theorem State.setRouter_queued (d k : Nat) (q : Router) : (s.setRouter d k q).queued = s.queued := rfl
@[simp] theorem State.setRouter_takenUp (d k : Nat) (q : Router) : (s.setRouter d k q).takenUp = s.takenUp := rfl
@[simp] theorem State.setRouter_lrq (d k : Nat) (q : Router) : (s.setRouter d k q).lrq = s.lrq := rfl
@[simp] theorem State.setRouter_conts (d k : Nat) (q : Router) : (s.setRouter d k q).conts = s.conts := rfl
@[simp] theorem State.setRouter_cores (d k : Nat) (q : Router) : (s.setRouter d k q).cores = s.cores := rfl
@[simp] theorem State.setRouter_slots (d k : Nat) (q : Router) : (s.setRouter d k q).slots = s.slots := rfl
@[simp] theorem State.setRouter_retain (d k : Nat) (q : Router) : (s.setRouter d k q).retain = s.retain := rfl
@[simp] theorem State.setRouter_waking (d k : Nat) (q : Router) : (s.setRouter d k q).waking = s.waking := rfl
@[simp] theorem State.setRouter_limit (d k : Nat) (q : Router) : (s.setRouter d k q).limit = s.limit := rfl
@[simp] theorem State.setRouter_islandAt (d k : Nat) (q : Router) : (s.setRouter d k q).islandAt = s.islandAt := rfl
@[simp] theorem State.setRouter_packets (d k : Nat) (q : Router) : (s.setRouter d k q).packets = s.packets := rfl
@[simp] theorem State.setRouter_drain (d k : Nat) (q : Router) : (s.setRouter d k q).drain = s.drain := rfl
@[simp] theorem State.setRouter_drains (d k : Nat) (q : Router) : (s.setRouter d k q).drains = s.drains := rfl
@[simp] theorem State.setRouter_desks (d k : Nat) (q : Router) : (s.setRouter d k q).desks = s.desks := rfl
@[simp] theorem State.setRouter_responses (d k : Nat) (q : Router) : (s.setRouter d k q).responses = s.responses := rfl
@[simp] theorem State.setRouter_errlog (d k : Nat) (q : Router) : (s.setRouter d k q).errlog = s.errlog := rfl
@[simp] theorem State.setRouter_pagelog (d k : Nat) (q : Router) : (s.setRouter d k q).pagelog = s.pagelog := rfl
@[simp] theorem State.setRouter_bkptlog (d k : Nat) (q : Router) : (s.setRouter d k q).bkptlog = s.bkptlog := rfl
@[simp] theorem State.setRouter_measlog (d k : Nat) (q : Router) : (s.setRouter d k q).measlog = s.measlog := rfl
@[simp] theorem State.setRouter_nextId (d k : Nat) (q : Router) : (s.setRouter d k q).nextId = s.nextId := rfl
@[simp] theorem State.setRouter_agenda (d k : Nat) (q : Router) : (s.setRouter d k q).agenda = s.agenda := rfl
@[simp] theorem State.setRouter_cur (d k : Nat) (q : Router) : (s.setRouter d k q).cur = s.cur := rfl
@[simp] theorem State.setRouter_fresh (d k : Nat) (q : Router) : (s.setRouter d k q).fresh = s.fresh := rfl

/-! ### State.bump -/

@[simp] theorem State.bump_cycle : (s.bump).cycle = s.cycle := rfl
@[simp] theorem State.bump_mem : (s.bump).mem = s.mem := rfl
@[simp] theorem State.bump_mpois : (s.bump).mpois = s.mpois := rfl
@[simp] theorem State.bump_mbad : (s.bump).mbad = s.mbad := rfl
@[simp] theorem State.bump_pages : (s.bump).pages = s.pages := rfl
@[simp] theorem State.bump_images : (s.bump).images = s.images := rfl
@[simp] theorem State.bump_launches : (s.bump).launches = s.launches := rfl
@[simp] theorem State.bump_groups : (s.bump).groups = s.groups := rfl
@[simp] theorem State.bump_copies : (s.bump).copies = s.copies := rfl
@[simp] theorem State.bump_xfers : (s.bump).xfers = s.xfers := rfl
@[simp] theorem State.bump_waits : (s.bump).waits = s.waits := rfl
@[simp] theorem State.bump_edits : (s.bump).edits = s.edits := rfl
@[simp] theorem State.bump_queued : (s.bump).queued = s.queued := rfl
@[simp] theorem State.bump_takenUp : (s.bump).takenUp = s.takenUp := rfl
@[simp] theorem State.bump_lrq : (s.bump).lrq = s.lrq := rfl
@[simp] theorem State.bump_conts : (s.bump).conts = s.conts := rfl
@[simp] theorem State.bump_cores : (s.bump).cores = s.cores := rfl
@[simp] theorem State.bump_slots : (s.bump).slots = s.slots := rfl
@[simp] theorem State.bump_retain : (s.bump).retain = s.retain := rfl
@[simp] theorem State.bump_waking : (s.bump).waking = s.waking := rfl
@[simp] theorem State.bump_limit : (s.bump).limit = s.limit := rfl
@[simp] theorem State.bump_islandAt : (s.bump).islandAt = s.islandAt := rfl
@[simp] theorem State.bump_routers : (s.bump).routers = s.routers := rfl
@[simp] theorem State.bump_packets : (s.bump).packets = s.packets := rfl
@[simp] theorem State.bump_drain : (s.bump).drain = s.drain := rfl
@[simp] theorem State.bump_drains : (s.bump).drains = s.drains := rfl
@[simp] theorem State.bump_desks : (s.bump).desks = s.desks := rfl
@[simp] theorem State.bump_responses : (s.bump).responses = s.responses := rfl
@[simp] theorem State.bump_errlog : (s.bump).errlog = s.errlog := rfl
@[simp] theorem State.bump_pagelog : (s.bump).pagelog = s.pagelog := rfl
@[simp] theorem State.bump_bkptlog : (s.bump).bkptlog = s.bkptlog := rfl
@[simp] theorem State.bump_measlog : (s.bump).measlog = s.measlog := rfl
@[simp] theorem State.bump_nextId : (s.bump).nextId = s.nextId := rfl
@[simp] theorem State.bump_agenda : (s.bump).agenda = s.agenda := rfl
@[simp] theorem State.bump_cur : (s.bump).cur = s.cur := rfl

/-! ### Ctx.save -/

@[simp] theorem Ctx.save_cycle : x.save.cycle = x.s.cycle := rfl
@[simp] theorem Ctx.save_mem : x.save.mem = x.s.mem := rfl
@[simp] theorem Ctx.save_mpois : x.save.mpois = x.s.mpois := rfl
@[simp] theorem Ctx.save_mbad : x.save.mbad = x.s.mbad := rfl
@[simp] theorem Ctx.save_pages : x.save.pages = x.s.pages := rfl
@[simp] theorem Ctx.save_images : x.save.images = x.s.images := rfl
@[simp] theorem Ctx.save_copies : x.save.copies = x.s.copies := rfl
@[simp] theorem Ctx.save_xfers : x.save.xfers = x.s.xfers := rfl
@[simp] theorem Ctx.save_waits : x.save.waits = x.s.waits := rfl
@[simp] theorem Ctx.save_edits : x.save.edits = x.s.edits := rfl
@[simp] theorem Ctx.save_queued : x.save.queued = x.s.queued := rfl
@[simp] theorem Ctx.save_takenUp : x.save.takenUp = x.s.takenUp := rfl
@[simp] theorem Ctx.save_lrq : x.save.lrq = x.s.lrq := rfl
@[simp] theorem Ctx.save_conts : x.save.conts = x.s.conts := rfl
@[simp] theorem Ctx.save_cores : x.save.cores = x.s.cores := rfl
@[simp] theorem Ctx.save_slots : x.save.slots = x.s.slots := rfl
@[simp] theorem Ctx.save_retain : x.save.retain = x.s.retain := rfl
@[simp] theorem Ctx.save_waking : x.save.waking = x.s.waking := rfl
@[simp] theorem Ctx.save_limit : x.save.limit = x.s.limit := rfl
@[simp] theorem Ctx.save_islandAt : x.save.islandAt = x.s.islandAt := rfl
@[simp] theorem Ctx.save_routers : x.save.routers = x.s.routers := rfl
@[simp] theorem Ctx.save_packets : x.save.packets = x.s.packets := rfl
@[simp] theorem Ctx.save_drain : x.save.drain = x.s.drain := rfl
@[simp] theorem Ctx.save_drains : x.save.drains = x.s.drains := rfl
@[simp] theorem Ctx.save_desks : x.save.desks = x.s.desks := rfl
@[simp] theorem Ctx.save_responses : x.save.responses = x.s.responses := rfl
@[simp] theorem Ctx.save_errlog : x.save.errlog = x.s.errlog := rfl
@[simp] theorem Ctx.save_pagelog : x.save.pagelog = x.s.pagelog := rfl
@[simp] theorem Ctx.save_bkptlog : x.save.bkptlog = x.s.bkptlog := rfl
@[simp] theorem Ctx.save_measlog : x.save.measlog = x.s.measlog := rfl
@[simp] theorem Ctx.save_nextId : x.save.nextId = x.s.nextId := rfl
@[simp] theorem Ctx.save_agenda : x.save.agenda = x.s.agenda := rfl
@[simp] theorem Ctx.save_cur : x.save.cur = x.s.cur := rfl
@[simp] theorem Ctx.save_fresh : x.save.fresh = x.s.fresh := rfl

/-! ### Updates of a context -/

@[simp] theorem Ctx.goto_s (pc : DWord) : (x.goto pc).s = x.s := rfl
@[simp] theorem Ctx.goto_g (pc : DWord) : (x.goto pc).g = x.g := rfl
@[simp] theorem Ctx.goto_l (pc : DWord) : (x.goto pc).l = x.l := rfl
@[simp] theorem Ctx.goto_c (pc : DWord) : (x.goto pc).c = x.c := rfl
@[simp] theorem Ctx.goto_im (pc : DWord) : (x.goto pc).im = x.im := rfl
@[simp] theorem Ctx.issued_g (k n : Nat) : (x.issued k n).g = x.g := rfl
@[simp] theorem Ctx.issued_l (k n : Nat) : (x.issued k n).l = x.l := rfl
@[simp] theorem Ctx.issued_c (k n : Nat) : (x.issued k n).c = x.c := rfl
@[simp] theorem Ctx.issued_im (k n : Nat) : (x.issued k n).im = x.im := rfl
@[simp] theorem Ctx.measure_s (ls : List Nat) : (x.measure ls).s = x.s := rfl
@[simp] theorem Ctx.measure_t (ls : List Nat) : (x.measure ls).t = x.t := rfl
@[simp] theorem Ctx.measure_l (ls : List Nat) : (x.measure ls).l = x.l := rfl
@[simp] theorem Ctx.measure_c (ls : List Nat) : (x.measure ls).c = x.c := rfl
@[simp] theorem Ctx.measure_im (ls : List Nat) : (x.measure ls).im = x.im := rfl
@[simp] theorem Ctx.emit_s (k : Nat) (ws : List RegWrite) : (x.emit k ws).s = x.s := rfl
@[simp] theorem Ctx.emit_g (k : Nat) (ws : List RegWrite) : (x.emit k ws).g = x.g := rfl
@[simp] theorem Ctx.emit_l (k : Nat) (ws : List RegWrite) : (x.emit k ws).l = x.l := rfl
@[simp] theorem Ctx.emit_c (k : Nat) (ws : List RegWrite) : (x.emit k ws).c = x.c := rfl
@[simp] theorem Ctx.emit_im (k : Nat) (ws : List RegWrite) : (x.emit k ws).im = x.im := rfl
@[simp] theorem Ctx.emitNow_s (k : Nat) (ws : List RegWrite) : (x.emitNow k ws).s = x.s := rfl
@[simp] theorem Ctx.emitNow_g (k : Nat) (ws : List RegWrite) : (x.emitNow k ws).g = x.g := rfl
@[simp] theorem Ctx.emitNow_l (k : Nat) (ws : List RegWrite) : (x.emitNow k ws).l = x.l := rfl
@[simp] theorem Ctx.emitNow_c (k : Nat) (ws : List RegWrite) : (x.emitNow k ws).c = x.c := rfl
@[simp] theorem Ctx.emitNow_im (k : Nat) (ws : List RegWrite) : (x.emitNow k ws).im = x.im := rfl
@[simp] theorem Ctx.emitFlags_s (k : Nat) (fs : List (Nat × Word)) : (x.emitFlags k fs).s = x.s := rfl
@[simp] theorem Ctx.emitFlags_g (k : Nat) (fs : List (Nat × Word)) : (x.emitFlags k fs).g = x.g := rfl
@[simp] theorem Ctx.emitFlags_l (k : Nat) (fs : List (Nat × Word)) : (x.emitFlags k fs).l = x.l := rfl
@[simp] theorem Ctx.emitFlags_c (k : Nat) (fs : List (Nat × Word)) : (x.emitFlags k fs).c = x.c := rfl
@[simp] theorem Ctx.emitFlags_im (k : Nat) (fs : List (Nat × Word)) : (x.emitFlags k fs).im = x.im := rfl
@[simp] theorem Ctx.retire_g (k : Nat) (n : BitVec 4) : (x.retire k n).g = x.g := rfl
@[simp] theorem Ctx.retire_l (k : Nat) (n : BitVec 4) : (x.retire k n).l = x.l := rfl
@[simp] theorem Ctx.retire_c (k : Nat) (n : BitVec 4) : (x.retire k n).c = x.c := rfl
@[simp] theorem Ctx.retire_im (k : Nat) (n : BitVec 4) : (x.retire k n).im = x.im := rfl
@[simp] theorem Ctx.retireLanes_l (k : Nat) (n : BitVec 4) (ls : List Nat) : (x.retireLanes k n ls).l = x.l := rfl
@[simp] theorem Ctx.retireLanes_c (k : Nat) (n : BitVec 4) (ls : List Nat) : (x.retireLanes k n ls).c = x.c := rfl
@[simp] theorem Ctx.retireLanes_im (k : Nat) (n : BitVec 4) (ls : List Nat) : (x.retireLanes k n ls).im = x.im := rfl
@[simp] theorem Ctx.setS_s (d : BitVec 6) (v : DWord) (p : Bool) : (x.setS d v p).s = x.s := rfl
@[simp] theorem Ctx.setS_g (d : BitVec 6) (v : DWord) (p : Bool) : (x.setS d v p).g = x.g := rfl
@[simp] theorem Ctx.setS_l (d : BitVec 6) (v : DWord) (p : Bool) : (x.setS d v p).l = x.l := rfl
@[simp] theorem Ctx.setS_c (d : BitVec 6) (v : DWord) (p : Bool) : (x.setS d v p).c = x.c := rfl
@[simp] theorem Ctx.setS_im (d : BitVec 6) (v : DWord) (p : Bool) : (x.setS d v p).im = x.im := rfl
@[simp] theorem Ctx.setHandle_s (h : BitVec 5) (q : Handle) : (x.setHandle h q).s = x.s := rfl
@[simp] theorem Ctx.setHandle_t (h : BitVec 5) (q : Handle) : (x.setHandle h q).t = x.t := rfl
@[simp] theorem Ctx.setHandle_l (h : BitVec 5) (q : Handle) : (x.setHandle h q).l = x.l := rfl
@[simp] theorem Ctx.setHandle_c (h : BitVec 5) (q : Handle) : (x.setHandle h q).c = x.c := rfl
@[simp] theorem Ctx.setHandle_im (h : BitVec 5) (q : Handle) : (x.setHandle h q).im = x.im := rfl
@[simp] theorem Ctx.leaveHandler_s : (x.leaveHandler).s = x.s := rfl
@[simp] theorem Ctx.leaveHandler_g : (x.leaveHandler).g = x.g := rfl
@[simp] theorem Ctx.leaveHandler_l : (x.leaveHandler).l = x.l := rfl
@[simp] theorem Ctx.leaveHandler_c : (x.leaveHandler).c = x.c := rfl
@[simp] theorem Ctx.leaveHandler_im : (x.leaveHandler).im = x.im := rfl

/-! ### What those updates leave of the team and of the group -/

@[simp] theorem Ctx.goto_t_idx (pc : DWord) : (x.goto pc).t.idx = x.t.idx := rfl
@[simp] theorem Ctx.goto_t_stage (pc : DWord) : (x.goto pc).t.stage = x.t.stage := rfl
@[simp] theorem Ctx.goto_t_phase (pc : DWord) : (x.goto pc).t.phase = x.t.phase := rfl
@[simp] theorem Ctx.goto_t_slot (pc : DWord) : (x.goto pc).t.slot = x.t.slot := rfl
@[simp] theorem Ctx.goto_t_pos (pc : DWord) : (x.goto pc).t.pos = x.t.pos := rfl
@[simp] theorem Ctx.goto_t_nregs (pc : DWord) : (x.goto pc).t.nregs = x.t.nregs := rfl
@[simp] theorem Ctx.goto_t_v (pc : DWord) : (x.goto pc).t.v = x.t.v := rfl
@[simp] theorem Ctx.goto_t_p (pc : DWord) : (x.goto pc).t.p = x.t.p := rfl
@[simp] theorem Ctx.goto_t_s (pc : DWord) : (x.goto pc).t.s = x.t.s := rfl
@[simp] theorem Ctx.goto_t_vx (pc : DWord) : (x.goto pc).t.vx = x.t.vx := rfl
@[simp] theorem Ctx.goto_t_px (pc : DWord) : (x.goto pc).t.px = x.t.px := rfl
@[simp] theorem Ctx.goto_t_sx (pc : DWord) : (x.goto pc).t.sx = x.t.sx := rfl
@[simp] theorem Ctx.goto_t_mask (pc : DWord) : (x.goto pc).t.mask = x.t.mask := rfl
@[simp] theorem Ctx.goto_t_mstack (pc : DWord) : (x.goto pc).t.mstack = x.t.mstack := rfl
@[simp] theorem Ctx.goto_t_rstack (pc : DWord) : (x.goto pc).t.rstack = x.t.rstack := rfl
@[simp] theorem Ctx.goto_t_flags (pc : DWord) : (x.goto pc).t.flags = x.t.flags := rfl
@[simp] theorem Ctx.goto_t_tctl (pc : DWord) : (x.goto pc).t.tctl = x.t.tctl := rfl
@[simp] theorem Ctx.goto_t_pend (pc : DWord) : (x.goto pc).t.pend = x.t.pend := rfl
@[simp] theorem Ctx.goto_t_loads (pc : DWord) : (x.goto pc).t.loads = x.t.loads := rfl
@[simp] theorem Ctx.goto_t_atoms (pc : DWord) : (x.goto pc).t.atoms = x.t.atoms := rfl
@[simp] theorem Ctx.goto_t_mats (pc : DWord) : (x.goto pc).t.mats = x.t.mats := rfl
@[simp] theorem Ctx.goto_t_late (pc : DWord) : (x.goto pc).t.late = x.t.late := rfl
@[simp] theorem Ctx.goto_t_busy (pc : DWord) : (x.goto pc).t.busy = x.t.busy := rfl
@[simp] theorem Ctx.goto_t_earliest (pc : DWord) : (x.goto pc).t.earliest = x.t.earliest := rfl
@[simp] theorem Ctx.goto_t_readySince (pc : DWord) : (x.goto pc).t.readySince = x.t.readySince := rfl
@[simp] theorem Ctx.goto_t_promoted (pc : DWord) : (x.goto pc).t.promoted = x.t.promoted := rfl
@[simp] theorem Ctx.goto_t_yielding (pc : DWord) : (x.goto pc).t.yielding = x.t.yielding := rfl
@[simp] theorem Ctx.goto_t_wait (pc : DWord) : (x.goto pc).t.wait = x.t.wait := rfl
@[simp] theorem Ctx.goto_t_qturn (pc : DWord) : (x.goto pc).t.qturn = x.t.qturn := rfl
@[simp] theorem Ctx.goto_t_phaseBit (pc : DWord) : (x.goto pc).t.phaseBit = x.t.phaseBit := rfl
@[simp] theorem Ctx.goto_t_inhandler (pc : DWord) : (x.goto pc).t.inhandler = x.t.inhandler := rfl
@[simp] theorem Ctx.goto_t_frame (pc : DWord) : (x.goto pc).t.frame = x.t.frame := rfl
@[simp] theorem Ctx.goto_t_retry (pc : DWord) : (x.goto pc).t.retry = x.t.retry := rfl
@[simp] theorem Ctx.goto_t_held (pc : DWord) : (x.goto pc).t.held = x.t.held := rfl
@[simp] theorem Ctx.goto_t_noroll (pc : DWord) : (x.goto pc).t.noroll = x.t.noroll := rfl
@[simp] theorem Ctx.goto_t_ckpt (pc : DWord) : (x.goto pc).t.ckpt = x.t.ckpt := rfl
@[simp] theorem Ctx.goto_t_resume (pc : DWord) : (x.goto pc).t.resume = x.t.resume := rfl
@[simp] theorem Ctx.goto_t_buf (pc : DWord) : (x.goto pc).t.buf = x.t.buf := rfl
@[simp] theorem Ctx.goto_t_spill (pc : DWord) : (x.goto pc).t.spill = x.t.spill := rfl
@[simp] theorem Ctx.goto_t_spois (pc : DWord) : (x.goto pc).t.spois = x.t.spois := rfl
@[simp] theorem Ctx.goto_t_tiles (pc : DWord) : (x.goto pc).t.tiles = x.t.tiles := rfl
@[simp] theorem Ctx.goto_t_latch (pc : DWord) : (x.goto pc).t.latch = x.t.latch := rfl
@[simp] theorem Ctx.goto_t_step (pc : DWord) : (x.goto pc).t.step = x.t.step := rfl
@[simp] theorem Ctx.goto_t_spawns (pc : DWord) : (x.goto pc).t.spawns = x.t.spawns := rfl
@[simp] theorem Ctx.goto_t_burst (pc : DWord) : (x.goto pc).t.burst = x.t.burst := rfl
@[simp] theorem Ctx.goto_t_mburstAt (pc : DWord) : (x.goto pc).t.mburstAt = x.t.mburstAt := rfl
@[simp] theorem Ctx.goto_t_ramp (pc : DWord) : (x.goto pc).t.ramp = x.t.ramp := rfl
@[simp] theorem Ctx.goto_t_quota (pc : DWord) : (x.goto pc).t.quota = x.t.quota := rfl
@[simp] theorem Ctx.goto_t_t0 (pc : DWord) : (x.goto pc).t.t0 = x.t.t0 := rfl
@[simp] theorem Ctx.issued_t_idx (k n : Nat) : (x.issued k n).t.idx = x.t.idx := rfl
@[simp] theorem Ctx.issued_t_stage (k n : Nat) : (x.issued k n).t.stage = x.t.stage := rfl
@[simp] theorem Ctx.issued_t_phase (k n : Nat) : (x.issued k n).t.phase = x.t.phase := rfl
@[simp] theorem Ctx.issued_t_slot (k n : Nat) : (x.issued k n).t.slot = x.t.slot := rfl
@[simp] theorem Ctx.issued_t_pos (k n : Nat) : (x.issued k n).t.pos = x.t.pos := rfl
@[simp] theorem Ctx.issued_t_nregs (k n : Nat) : (x.issued k n).t.nregs = x.t.nregs := rfl
@[simp] theorem Ctx.issued_t_v (k n : Nat) : (x.issued k n).t.v = x.t.v := rfl
@[simp] theorem Ctx.issued_t_p (k n : Nat) : (x.issued k n).t.p = x.t.p := rfl
@[simp] theorem Ctx.issued_t_s (k n : Nat) : (x.issued k n).t.s = x.t.s := rfl
@[simp] theorem Ctx.issued_t_vx (k n : Nat) : (x.issued k n).t.vx = x.t.vx := rfl
@[simp] theorem Ctx.issued_t_px (k n : Nat) : (x.issued k n).t.px = x.t.px := rfl
@[simp] theorem Ctx.issued_t_sx (k n : Nat) : (x.issued k n).t.sx = x.t.sx := rfl
@[simp] theorem Ctx.issued_t_pc (k n : Nat) : (x.issued k n).t.pc = x.t.pc := rfl
@[simp] theorem Ctx.issued_t_mask (k n : Nat) : (x.issued k n).t.mask = x.t.mask := rfl
@[simp] theorem Ctx.issued_t_mstack (k n : Nat) : (x.issued k n).t.mstack = x.t.mstack := rfl
@[simp] theorem Ctx.issued_t_rstack (k n : Nat) : (x.issued k n).t.rstack = x.t.rstack := rfl
@[simp] theorem Ctx.issued_t_flags (k n : Nat) : (x.issued k n).t.flags = x.t.flags := rfl
@[simp] theorem Ctx.issued_t_tctl (k n : Nat) : (x.issued k n).t.tctl = x.t.tctl := rfl
@[simp] theorem Ctx.issued_t_pend (k n : Nat) : (x.issued k n).t.pend = x.t.pend := rfl
@[simp] theorem Ctx.issued_t_loads (k n : Nat) : (x.issued k n).t.loads = x.t.loads := rfl
@[simp] theorem Ctx.issued_t_atoms (k n : Nat) : (x.issued k n).t.atoms = x.t.atoms := rfl
@[simp] theorem Ctx.issued_t_mats (k n : Nat) : (x.issued k n).t.mats = x.t.mats := rfl
@[simp] theorem Ctx.issued_t_phaseBit (k n : Nat) : (x.issued k n).t.phaseBit = x.t.phaseBit := rfl
@[simp] theorem Ctx.issued_t_inhandler (k n : Nat) : (x.issued k n).t.inhandler = x.t.inhandler := rfl
@[simp] theorem Ctx.issued_t_frame (k n : Nat) : (x.issued k n).t.frame = x.t.frame := rfl
@[simp] theorem Ctx.issued_t_held (k n : Nat) : (x.issued k n).t.held = x.t.held := rfl
@[simp] theorem Ctx.issued_t_noroll (k n : Nat) : (x.issued k n).t.noroll = x.t.noroll := rfl
@[simp] theorem Ctx.issued_t_ckpt (k n : Nat) : (x.issued k n).t.ckpt = x.t.ckpt := rfl
@[simp] theorem Ctx.issued_t_resume (k n : Nat) : (x.issued k n).t.resume = x.t.resume := rfl
@[simp] theorem Ctx.issued_t_buf (k n : Nat) : (x.issued k n).t.buf = x.t.buf := rfl
@[simp] theorem Ctx.issued_t_spill (k n : Nat) : (x.issued k n).t.spill = x.t.spill := rfl
@[simp] theorem Ctx.issued_t_spois (k n : Nat) : (x.issued k n).t.spois = x.t.spois := rfl
@[simp] theorem Ctx.issued_t_tiles (k n : Nat) : (x.issued k n).t.tiles = x.t.tiles := rfl
@[simp] theorem Ctx.issued_t_latch (k n : Nat) : (x.issued k n).t.latch = x.t.latch := rfl
@[simp] theorem Ctx.issued_t_step (k n : Nat) : (x.issued k n).t.step = x.t.step := rfl
@[simp] theorem Ctx.issued_t_spawns (k n : Nat) : (x.issued k n).t.spawns = x.t.spawns := rfl
@[simp] theorem Ctx.issued_t_burst (k n : Nat) : (x.issued k n).t.burst = x.t.burst := rfl
@[simp] theorem Ctx.issued_t_mburstAt (k n : Nat) : (x.issued k n).t.mburstAt = x.t.mburstAt := rfl
@[simp] theorem Ctx.issued_t_ramp (k n : Nat) : (x.issued k n).t.ramp = x.t.ramp := rfl
@[simp] theorem Ctx.issued_t_t0 (k n : Nat) : (x.issued k n).t.t0 = x.t.t0 := rfl
@[simp] theorem Ctx.emit_t_idx (k : Nat) (ws : List RegWrite) : (x.emit k ws).t.idx = x.t.idx := rfl
@[simp] theorem Ctx.emit_t_stage (k : Nat) (ws : List RegWrite) : (x.emit k ws).t.stage = x.t.stage := rfl
@[simp] theorem Ctx.emit_t_phase (k : Nat) (ws : List RegWrite) : (x.emit k ws).t.phase = x.t.phase := rfl
@[simp] theorem Ctx.emit_t_slot (k : Nat) (ws : List RegWrite) : (x.emit k ws).t.slot = x.t.slot := rfl
@[simp] theorem Ctx.emit_t_pos (k : Nat) (ws : List RegWrite) : (x.emit k ws).t.pos = x.t.pos := rfl
@[simp] theorem Ctx.emit_t_nregs (k : Nat) (ws : List RegWrite) : (x.emit k ws).t.nregs = x.t.nregs := rfl
@[simp] theorem Ctx.emit_t_v (k : Nat) (ws : List RegWrite) : (x.emit k ws).t.v = x.t.v := rfl
@[simp] theorem Ctx.emit_t_p (k : Nat) (ws : List RegWrite) : (x.emit k ws).t.p = x.t.p := rfl
@[simp] theorem Ctx.emit_t_s (k : Nat) (ws : List RegWrite) : (x.emit k ws).t.s = x.t.s := rfl
@[simp] theorem Ctx.emit_t_vx (k : Nat) (ws : List RegWrite) : (x.emit k ws).t.vx = x.t.vx := rfl
@[simp] theorem Ctx.emit_t_px (k : Nat) (ws : List RegWrite) : (x.emit k ws).t.px = x.t.px := rfl
@[simp] theorem Ctx.emit_t_sx (k : Nat) (ws : List RegWrite) : (x.emit k ws).t.sx = x.t.sx := rfl
@[simp] theorem Ctx.emit_t_pc (k : Nat) (ws : List RegWrite) : (x.emit k ws).t.pc = x.t.pc := rfl
@[simp] theorem Ctx.emit_t_mask (k : Nat) (ws : List RegWrite) : (x.emit k ws).t.mask = x.t.mask := rfl
@[simp] theorem Ctx.emit_t_mstack (k : Nat) (ws : List RegWrite) : (x.emit k ws).t.mstack = x.t.mstack := rfl
@[simp] theorem Ctx.emit_t_rstack (k : Nat) (ws : List RegWrite) : (x.emit k ws).t.rstack = x.t.rstack := rfl
@[simp] theorem Ctx.emit_t_flags (k : Nat) (ws : List RegWrite) : (x.emit k ws).t.flags = x.t.flags := rfl
@[simp] theorem Ctx.emit_t_tctl (k : Nat) (ws : List RegWrite) : (x.emit k ws).t.tctl = x.t.tctl := rfl
@[simp] theorem Ctx.emit_t_loads (k : Nat) (ws : List RegWrite) : (x.emit k ws).t.loads = x.t.loads := rfl
@[simp] theorem Ctx.emit_t_atoms (k : Nat) (ws : List RegWrite) : (x.emit k ws).t.atoms = x.t.atoms := rfl
@[simp] theorem Ctx.emit_t_mats (k : Nat) (ws : List RegWrite) : (x.emit k ws).t.mats = x.t.mats := rfl
@[simp] theorem Ctx.emit_t_late (k : Nat) (ws : List RegWrite) : (x.emit k ws).t.late = x.t.late := rfl
@[simp] theorem Ctx.emit_t_busy (k : Nat) (ws : List RegWrite) : (x.emit k ws).t.busy = x.t.busy := rfl
@[simp] theorem Ctx.emit_t_earliest (k : Nat) (ws : List RegWrite) : (x.emit k ws).t.earliest = x.t.earliest := rfl
@[simp] theorem Ctx.emit_t_readySince (k : Nat) (ws : List RegWrite) : (x.emit k ws).t.readySince = x.t.readySince := rfl
@[simp] theorem Ctx.emit_t_promoted (k : Nat) (ws : List RegWrite) : (x.emit k ws).t.promoted = x.t.promoted := rfl
@[simp] theorem Ctx.emit_t_yielding (k : Nat) (ws : List RegWrite) : (x.emit k ws).t.yielding = x.t.yielding := rfl
@[simp] theorem Ctx.emit_t_wait (k : Nat) (ws : List RegWrite) : (x.emit k ws).t.wait = x.t.wait := rfl
@[simp] theorem Ctx.emit_t_qturn (k : Nat) (ws : List RegWrite) : (x.emit k ws).t.qturn = x.t.qturn := rfl
@[simp] theorem Ctx.emit_t_phaseBit (k : Nat) (ws : List RegWrite) : (x.emit k ws).t.phaseBit = x.t.phaseBit := rfl
@[simp] theorem Ctx.emit_t_inhandler (k : Nat) (ws : List RegWrite) : (x.emit k ws).t.inhandler = x.t.inhandler := rfl
@[simp] theorem Ctx.emit_t_frame (k : Nat) (ws : List RegWrite) : (x.emit k ws).t.frame = x.t.frame := rfl
@[simp] theorem Ctx.emit_t_retry (k : Nat) (ws : List RegWrite) : (x.emit k ws).t.retry = x.t.retry := rfl
@[simp] theorem Ctx.emit_t_held (k : Nat) (ws : List RegWrite) : (x.emit k ws).t.held = x.t.held := rfl
@[simp] theorem Ctx.emit_t_noroll (k : Nat) (ws : List RegWrite) : (x.emit k ws).t.noroll = x.t.noroll := rfl
@[simp] theorem Ctx.emit_t_ckpt (k : Nat) (ws : List RegWrite) : (x.emit k ws).t.ckpt = x.t.ckpt := rfl
@[simp] theorem Ctx.emit_t_resume (k : Nat) (ws : List RegWrite) : (x.emit k ws).t.resume = x.t.resume := rfl
@[simp] theorem Ctx.emit_t_buf (k : Nat) (ws : List RegWrite) : (x.emit k ws).t.buf = x.t.buf := rfl
@[simp] theorem Ctx.emit_t_spill (k : Nat) (ws : List RegWrite) : (x.emit k ws).t.spill = x.t.spill := rfl
@[simp] theorem Ctx.emit_t_spois (k : Nat) (ws : List RegWrite) : (x.emit k ws).t.spois = x.t.spois := rfl
@[simp] theorem Ctx.emit_t_tiles (k : Nat) (ws : List RegWrite) : (x.emit k ws).t.tiles = x.t.tiles := rfl
@[simp] theorem Ctx.emit_t_latch (k : Nat) (ws : List RegWrite) : (x.emit k ws).t.latch = x.t.latch := rfl
@[simp] theorem Ctx.emit_t_step (k : Nat) (ws : List RegWrite) : (x.emit k ws).t.step = x.t.step := rfl
@[simp] theorem Ctx.emit_t_spawns (k : Nat) (ws : List RegWrite) : (x.emit k ws).t.spawns = x.t.spawns := rfl
@[simp] theorem Ctx.emit_t_burst (k : Nat) (ws : List RegWrite) : (x.emit k ws).t.burst = x.t.burst := rfl
@[simp] theorem Ctx.emit_t_mburstAt (k : Nat) (ws : List RegWrite) : (x.emit k ws).t.mburstAt = x.t.mburstAt := rfl
@[simp] theorem Ctx.emit_t_ramp (k : Nat) (ws : List RegWrite) : (x.emit k ws).t.ramp = x.t.ramp := rfl
@[simp] theorem Ctx.emit_t_quota (k : Nat) (ws : List RegWrite) : (x.emit k ws).t.quota = x.t.quota := rfl
@[simp] theorem Ctx.emit_t_t0 (k : Nat) (ws : List RegWrite) : (x.emit k ws).t.t0 = x.t.t0 := rfl
@[simp] theorem Ctx.emitNow_t_idx (k : Nat) (ws : List RegWrite) : (x.emitNow k ws).t.idx = x.t.idx := rfl
@[simp] theorem Ctx.emitNow_t_stage (k : Nat) (ws : List RegWrite) : (x.emitNow k ws).t.stage = x.t.stage := rfl
@[simp] theorem Ctx.emitNow_t_phase (k : Nat) (ws : List RegWrite) : (x.emitNow k ws).t.phase = x.t.phase := rfl
@[simp] theorem Ctx.emitNow_t_slot (k : Nat) (ws : List RegWrite) : (x.emitNow k ws).t.slot = x.t.slot := rfl
@[simp] theorem Ctx.emitNow_t_pos (k : Nat) (ws : List RegWrite) : (x.emitNow k ws).t.pos = x.t.pos := rfl
@[simp] theorem Ctx.emitNow_t_nregs (k : Nat) (ws : List RegWrite) : (x.emitNow k ws).t.nregs = x.t.nregs := rfl
@[simp] theorem Ctx.emitNow_t_v (k : Nat) (ws : List RegWrite) : (x.emitNow k ws).t.v = x.t.v := rfl
@[simp] theorem Ctx.emitNow_t_p (k : Nat) (ws : List RegWrite) : (x.emitNow k ws).t.p = x.t.p := rfl
@[simp] theorem Ctx.emitNow_t_s (k : Nat) (ws : List RegWrite) : (x.emitNow k ws).t.s = x.t.s := rfl
@[simp] theorem Ctx.emitNow_t_vx (k : Nat) (ws : List RegWrite) : (x.emitNow k ws).t.vx = x.t.vx := rfl
@[simp] theorem Ctx.emitNow_t_px (k : Nat) (ws : List RegWrite) : (x.emitNow k ws).t.px = x.t.px := rfl
@[simp] theorem Ctx.emitNow_t_sx (k : Nat) (ws : List RegWrite) : (x.emitNow k ws).t.sx = x.t.sx := rfl
@[simp] theorem Ctx.emitNow_t_pc (k : Nat) (ws : List RegWrite) : (x.emitNow k ws).t.pc = x.t.pc := rfl
@[simp] theorem Ctx.emitNow_t_mask (k : Nat) (ws : List RegWrite) : (x.emitNow k ws).t.mask = x.t.mask := rfl
@[simp] theorem Ctx.emitNow_t_mstack (k : Nat) (ws : List RegWrite) : (x.emitNow k ws).t.mstack = x.t.mstack := rfl
@[simp] theorem Ctx.emitNow_t_rstack (k : Nat) (ws : List RegWrite) : (x.emitNow k ws).t.rstack = x.t.rstack := rfl
@[simp] theorem Ctx.emitNow_t_flags (k : Nat) (ws : List RegWrite) : (x.emitNow k ws).t.flags = x.t.flags := rfl
@[simp] theorem Ctx.emitNow_t_tctl (k : Nat) (ws : List RegWrite) : (x.emitNow k ws).t.tctl = x.t.tctl := rfl
@[simp] theorem Ctx.emitNow_t_loads (k : Nat) (ws : List RegWrite) : (x.emitNow k ws).t.loads = x.t.loads := rfl
@[simp] theorem Ctx.emitNow_t_atoms (k : Nat) (ws : List RegWrite) : (x.emitNow k ws).t.atoms = x.t.atoms := rfl
@[simp] theorem Ctx.emitNow_t_mats (k : Nat) (ws : List RegWrite) : (x.emitNow k ws).t.mats = x.t.mats := rfl
@[simp] theorem Ctx.emitNow_t_late (k : Nat) (ws : List RegWrite) : (x.emitNow k ws).t.late = x.t.late := rfl
@[simp] theorem Ctx.emitNow_t_busy (k : Nat) (ws : List RegWrite) : (x.emitNow k ws).t.busy = x.t.busy := rfl
@[simp] theorem Ctx.emitNow_t_earliest (k : Nat) (ws : List RegWrite) : (x.emitNow k ws).t.earliest = x.t.earliest := rfl
@[simp] theorem Ctx.emitNow_t_readySince (k : Nat) (ws : List RegWrite) : (x.emitNow k ws).t.readySince = x.t.readySince := rfl
@[simp] theorem Ctx.emitNow_t_promoted (k : Nat) (ws : List RegWrite) : (x.emitNow k ws).t.promoted = x.t.promoted := rfl
@[simp] theorem Ctx.emitNow_t_yielding (k : Nat) (ws : List RegWrite) : (x.emitNow k ws).t.yielding = x.t.yielding := rfl
@[simp] theorem Ctx.emitNow_t_wait (k : Nat) (ws : List RegWrite) : (x.emitNow k ws).t.wait = x.t.wait := rfl
@[simp] theorem Ctx.emitNow_t_qturn (k : Nat) (ws : List RegWrite) : (x.emitNow k ws).t.qturn = x.t.qturn := rfl
@[simp] theorem Ctx.emitNow_t_phaseBit (k : Nat) (ws : List RegWrite) : (x.emitNow k ws).t.phaseBit = x.t.phaseBit := rfl
@[simp] theorem Ctx.emitNow_t_inhandler (k : Nat) (ws : List RegWrite) : (x.emitNow k ws).t.inhandler = x.t.inhandler := rfl
@[simp] theorem Ctx.emitNow_t_frame (k : Nat) (ws : List RegWrite) : (x.emitNow k ws).t.frame = x.t.frame := rfl
@[simp] theorem Ctx.emitNow_t_retry (k : Nat) (ws : List RegWrite) : (x.emitNow k ws).t.retry = x.t.retry := rfl
@[simp] theorem Ctx.emitNow_t_held (k : Nat) (ws : List RegWrite) : (x.emitNow k ws).t.held = x.t.held := rfl
@[simp] theorem Ctx.emitNow_t_noroll (k : Nat) (ws : List RegWrite) : (x.emitNow k ws).t.noroll = x.t.noroll := rfl
@[simp] theorem Ctx.emitNow_t_ckpt (k : Nat) (ws : List RegWrite) : (x.emitNow k ws).t.ckpt = x.t.ckpt := rfl
@[simp] theorem Ctx.emitNow_t_resume (k : Nat) (ws : List RegWrite) : (x.emitNow k ws).t.resume = x.t.resume := rfl
@[simp] theorem Ctx.emitNow_t_buf (k : Nat) (ws : List RegWrite) : (x.emitNow k ws).t.buf = x.t.buf := rfl
@[simp] theorem Ctx.emitNow_t_spill (k : Nat) (ws : List RegWrite) : (x.emitNow k ws).t.spill = x.t.spill := rfl
@[simp] theorem Ctx.emitNow_t_spois (k : Nat) (ws : List RegWrite) : (x.emitNow k ws).t.spois = x.t.spois := rfl
@[simp] theorem Ctx.emitNow_t_tiles (k : Nat) (ws : List RegWrite) : (x.emitNow k ws).t.tiles = x.t.tiles := rfl
@[simp] theorem Ctx.emitNow_t_latch (k : Nat) (ws : List RegWrite) : (x.emitNow k ws).t.latch = x.t.latch := rfl
@[simp] theorem Ctx.emitNow_t_step (k : Nat) (ws : List RegWrite) : (x.emitNow k ws).t.step = x.t.step := rfl
@[simp] theorem Ctx.emitNow_t_spawns (k : Nat) (ws : List RegWrite) : (x.emitNow k ws).t.spawns = x.t.spawns := rfl
@[simp] theorem Ctx.emitNow_t_burst (k : Nat) (ws : List RegWrite) : (x.emitNow k ws).t.burst = x.t.burst := rfl
@[simp] theorem Ctx.emitNow_t_mburstAt (k : Nat) (ws : List RegWrite) : (x.emitNow k ws).t.mburstAt = x.t.mburstAt := rfl
@[simp] theorem Ctx.emitNow_t_ramp (k : Nat) (ws : List RegWrite) : (x.emitNow k ws).t.ramp = x.t.ramp := rfl
@[simp] theorem Ctx.emitNow_t_quota (k : Nat) (ws : List RegWrite) : (x.emitNow k ws).t.quota = x.t.quota := rfl
@[simp] theorem Ctx.emitNow_t_t0 (k : Nat) (ws : List RegWrite) : (x.emitNow k ws).t.t0 = x.t.t0 := rfl
@[simp] theorem Ctx.emitFlags_t_idx (k : Nat) (fs : List (Nat × Word)) : (x.emitFlags k fs).t.idx = x.t.idx := rfl
@[simp] theorem Ctx.emitFlags_t_stage (k : Nat) (fs : List (Nat × Word)) : (x.emitFlags k fs).t.stage = x.t.stage := rfl
@[simp] theorem Ctx.emitFlags_t_phase (k : Nat) (fs : List (Nat × Word)) : (x.emitFlags k fs).t.phase = x.t.phase := rfl
@[simp] theorem Ctx.emitFlags_t_slot (k : Nat) (fs : List (Nat × Word)) : (x.emitFlags k fs).t.slot = x.t.slot := rfl
@[simp] theorem Ctx.emitFlags_t_pos (k : Nat) (fs : List (Nat × Word)) : (x.emitFlags k fs).t.pos = x.t.pos := rfl
@[simp] theorem Ctx.emitFlags_t_nregs (k : Nat) (fs : List (Nat × Word)) : (x.emitFlags k fs).t.nregs = x.t.nregs := rfl
@[simp] theorem Ctx.emitFlags_t_v (k : Nat) (fs : List (Nat × Word)) : (x.emitFlags k fs).t.v = x.t.v := rfl
@[simp] theorem Ctx.emitFlags_t_p (k : Nat) (fs : List (Nat × Word)) : (x.emitFlags k fs).t.p = x.t.p := rfl
@[simp] theorem Ctx.emitFlags_t_s (k : Nat) (fs : List (Nat × Word)) : (x.emitFlags k fs).t.s = x.t.s := rfl
@[simp] theorem Ctx.emitFlags_t_vx (k : Nat) (fs : List (Nat × Word)) : (x.emitFlags k fs).t.vx = x.t.vx := rfl
@[simp] theorem Ctx.emitFlags_t_px (k : Nat) (fs : List (Nat × Word)) : (x.emitFlags k fs).t.px = x.t.px := rfl
@[simp] theorem Ctx.emitFlags_t_sx (k : Nat) (fs : List (Nat × Word)) : (x.emitFlags k fs).t.sx = x.t.sx := rfl
@[simp] theorem Ctx.emitFlags_t_pc (k : Nat) (fs : List (Nat × Word)) : (x.emitFlags k fs).t.pc = x.t.pc := rfl
@[simp] theorem Ctx.emitFlags_t_mask (k : Nat) (fs : List (Nat × Word)) : (x.emitFlags k fs).t.mask = x.t.mask := rfl
@[simp] theorem Ctx.emitFlags_t_mstack (k : Nat) (fs : List (Nat × Word)) : (x.emitFlags k fs).t.mstack = x.t.mstack := rfl
@[simp] theorem Ctx.emitFlags_t_rstack (k : Nat) (fs : List (Nat × Word)) : (x.emitFlags k fs).t.rstack = x.t.rstack := rfl
@[simp] theorem Ctx.emitFlags_t_flags (k : Nat) (fs : List (Nat × Word)) : (x.emitFlags k fs).t.flags = x.t.flags := rfl
@[simp] theorem Ctx.emitFlags_t_tctl (k : Nat) (fs : List (Nat × Word)) : (x.emitFlags k fs).t.tctl = x.t.tctl := rfl
@[simp] theorem Ctx.emitFlags_t_loads (k : Nat) (fs : List (Nat × Word)) : (x.emitFlags k fs).t.loads = x.t.loads := rfl
@[simp] theorem Ctx.emitFlags_t_atoms (k : Nat) (fs : List (Nat × Word)) : (x.emitFlags k fs).t.atoms = x.t.atoms := rfl
@[simp] theorem Ctx.emitFlags_t_mats (k : Nat) (fs : List (Nat × Word)) : (x.emitFlags k fs).t.mats = x.t.mats := rfl
@[simp] theorem Ctx.emitFlags_t_late (k : Nat) (fs : List (Nat × Word)) : (x.emitFlags k fs).t.late = x.t.late := rfl
@[simp] theorem Ctx.emitFlags_t_busy (k : Nat) (fs : List (Nat × Word)) : (x.emitFlags k fs).t.busy = x.t.busy := rfl
@[simp] theorem Ctx.emitFlags_t_earliest (k : Nat) (fs : List (Nat × Word)) : (x.emitFlags k fs).t.earliest = x.t.earliest := rfl
@[simp] theorem Ctx.emitFlags_t_readySince (k : Nat) (fs : List (Nat × Word)) : (x.emitFlags k fs).t.readySince = x.t.readySince := rfl
@[simp] theorem Ctx.emitFlags_t_promoted (k : Nat) (fs : List (Nat × Word)) : (x.emitFlags k fs).t.promoted = x.t.promoted := rfl
@[simp] theorem Ctx.emitFlags_t_yielding (k : Nat) (fs : List (Nat × Word)) : (x.emitFlags k fs).t.yielding = x.t.yielding := rfl
@[simp] theorem Ctx.emitFlags_t_wait (k : Nat) (fs : List (Nat × Word)) : (x.emitFlags k fs).t.wait = x.t.wait := rfl
@[simp] theorem Ctx.emitFlags_t_qturn (k : Nat) (fs : List (Nat × Word)) : (x.emitFlags k fs).t.qturn = x.t.qturn := rfl
@[simp] theorem Ctx.emitFlags_t_phaseBit (k : Nat) (fs : List (Nat × Word)) : (x.emitFlags k fs).t.phaseBit = x.t.phaseBit := rfl
@[simp] theorem Ctx.emitFlags_t_inhandler (k : Nat) (fs : List (Nat × Word)) : (x.emitFlags k fs).t.inhandler = x.t.inhandler := rfl
@[simp] theorem Ctx.emitFlags_t_frame (k : Nat) (fs : List (Nat × Word)) : (x.emitFlags k fs).t.frame = x.t.frame := rfl
@[simp] theorem Ctx.emitFlags_t_retry (k : Nat) (fs : List (Nat × Word)) : (x.emitFlags k fs).t.retry = x.t.retry := rfl
@[simp] theorem Ctx.emitFlags_t_held (k : Nat) (fs : List (Nat × Word)) : (x.emitFlags k fs).t.held = x.t.held := rfl
@[simp] theorem Ctx.emitFlags_t_noroll (k : Nat) (fs : List (Nat × Word)) : (x.emitFlags k fs).t.noroll = x.t.noroll := rfl
@[simp] theorem Ctx.emitFlags_t_ckpt (k : Nat) (fs : List (Nat × Word)) : (x.emitFlags k fs).t.ckpt = x.t.ckpt := rfl
@[simp] theorem Ctx.emitFlags_t_resume (k : Nat) (fs : List (Nat × Word)) : (x.emitFlags k fs).t.resume = x.t.resume := rfl
@[simp] theorem Ctx.emitFlags_t_buf (k : Nat) (fs : List (Nat × Word)) : (x.emitFlags k fs).t.buf = x.t.buf := rfl
@[simp] theorem Ctx.emitFlags_t_spill (k : Nat) (fs : List (Nat × Word)) : (x.emitFlags k fs).t.spill = x.t.spill := rfl
@[simp] theorem Ctx.emitFlags_t_spois (k : Nat) (fs : List (Nat × Word)) : (x.emitFlags k fs).t.spois = x.t.spois := rfl
@[simp] theorem Ctx.emitFlags_t_tiles (k : Nat) (fs : List (Nat × Word)) : (x.emitFlags k fs).t.tiles = x.t.tiles := rfl
@[simp] theorem Ctx.emitFlags_t_latch (k : Nat) (fs : List (Nat × Word)) : (x.emitFlags k fs).t.latch = x.t.latch := rfl
@[simp] theorem Ctx.emitFlags_t_step (k : Nat) (fs : List (Nat × Word)) : (x.emitFlags k fs).t.step = x.t.step := rfl
@[simp] theorem Ctx.emitFlags_t_spawns (k : Nat) (fs : List (Nat × Word)) : (x.emitFlags k fs).t.spawns = x.t.spawns := rfl
@[simp] theorem Ctx.emitFlags_t_burst (k : Nat) (fs : List (Nat × Word)) : (x.emitFlags k fs).t.burst = x.t.burst := rfl
@[simp] theorem Ctx.emitFlags_t_mburstAt (k : Nat) (fs : List (Nat × Word)) : (x.emitFlags k fs).t.mburstAt = x.t.mburstAt := rfl
@[simp] theorem Ctx.emitFlags_t_ramp (k : Nat) (fs : List (Nat × Word)) : (x.emitFlags k fs).t.ramp = x.t.ramp := rfl
@[simp] theorem Ctx.emitFlags_t_quota (k : Nat) (fs : List (Nat × Word)) : (x.emitFlags k fs).t.quota = x.t.quota := rfl
@[simp] theorem Ctx.emitFlags_t_t0 (k : Nat) (fs : List (Nat × Word)) : (x.emitFlags k fs).t.t0 = x.t.t0 := rfl
@[simp] theorem Ctx.retire_t_idx (k : Nat) (n : BitVec 4) : (x.retire k n).t.idx = x.t.idx := rfl
@[simp] theorem Ctx.retire_t_stage (k : Nat) (n : BitVec 4) : (x.retire k n).t.stage = x.t.stage := rfl
@[simp] theorem Ctx.retire_t_phase (k : Nat) (n : BitVec 4) : (x.retire k n).t.phase = x.t.phase := rfl
@[simp] theorem Ctx.retire_t_slot (k : Nat) (n : BitVec 4) : (x.retire k n).t.slot = x.t.slot := rfl
@[simp] theorem Ctx.retire_t_pos (k : Nat) (n : BitVec 4) : (x.retire k n).t.pos = x.t.pos := rfl
@[simp] theorem Ctx.retire_t_nregs (k : Nat) (n : BitVec 4) : (x.retire k n).t.nregs = x.t.nregs := rfl
@[simp] theorem Ctx.retire_t_v (k : Nat) (n : BitVec 4) : (x.retire k n).t.v = x.t.v := rfl
@[simp] theorem Ctx.retire_t_p (k : Nat) (n : BitVec 4) : (x.retire k n).t.p = x.t.p := rfl
@[simp] theorem Ctx.retire_t_s (k : Nat) (n : BitVec 4) : (x.retire k n).t.s = x.t.s := rfl
@[simp] theorem Ctx.retire_t_vx (k : Nat) (n : BitVec 4) : (x.retire k n).t.vx = x.t.vx := rfl
@[simp] theorem Ctx.retire_t_px (k : Nat) (n : BitVec 4) : (x.retire k n).t.px = x.t.px := rfl
@[simp] theorem Ctx.retire_t_sx (k : Nat) (n : BitVec 4) : (x.retire k n).t.sx = x.t.sx := rfl
@[simp] theorem Ctx.retire_t_mask (k : Nat) (n : BitVec 4) : (x.retire k n).t.mask = x.t.mask := rfl
@[simp] theorem Ctx.retire_t_mstack (k : Nat) (n : BitVec 4) : (x.retire k n).t.mstack = x.t.mstack := rfl
@[simp] theorem Ctx.retire_t_rstack (k : Nat) (n : BitVec 4) : (x.retire k n).t.rstack = x.t.rstack := rfl
@[simp] theorem Ctx.retire_t_flags (k : Nat) (n : BitVec 4) : (x.retire k n).t.flags = x.t.flags := rfl
@[simp] theorem Ctx.retire_t_tctl (k : Nat) (n : BitVec 4) : (x.retire k n).t.tctl = x.t.tctl := rfl
@[simp] theorem Ctx.retire_t_pend (k : Nat) (n : BitVec 4) : (x.retire k n).t.pend = x.t.pend := rfl
@[simp] theorem Ctx.retire_t_loads (k : Nat) (n : BitVec 4) : (x.retire k n).t.loads = x.t.loads := rfl
@[simp] theorem Ctx.retire_t_atoms (k : Nat) (n : BitVec 4) : (x.retire k n).t.atoms = x.t.atoms := rfl
@[simp] theorem Ctx.retire_t_mats (k : Nat) (n : BitVec 4) : (x.retire k n).t.mats = x.t.mats := rfl
@[simp] theorem Ctx.retire_t_phaseBit (k : Nat) (n : BitVec 4) : (x.retire k n).t.phaseBit = x.t.phaseBit := rfl
@[simp] theorem Ctx.retire_t_inhandler (k : Nat) (n : BitVec 4) : (x.retire k n).t.inhandler = x.t.inhandler := rfl
@[simp] theorem Ctx.retire_t_frame (k : Nat) (n : BitVec 4) : (x.retire k n).t.frame = x.t.frame := rfl
@[simp] theorem Ctx.retire_t_held (k : Nat) (n : BitVec 4) : (x.retire k n).t.held = x.t.held := rfl
@[simp] theorem Ctx.retire_t_noroll (k : Nat) (n : BitVec 4) : (x.retire k n).t.noroll = x.t.noroll := rfl
@[simp] theorem Ctx.retire_t_ckpt (k : Nat) (n : BitVec 4) : (x.retire k n).t.ckpt = x.t.ckpt := rfl
@[simp] theorem Ctx.retire_t_resume (k : Nat) (n : BitVec 4) : (x.retire k n).t.resume = x.t.resume := rfl
@[simp] theorem Ctx.retire_t_buf (k : Nat) (n : BitVec 4) : (x.retire k n).t.buf = x.t.buf := rfl
@[simp] theorem Ctx.retire_t_spill (k : Nat) (n : BitVec 4) : (x.retire k n).t.spill = x.t.spill := rfl
@[simp] theorem Ctx.retire_t_spois (k : Nat) (n : BitVec 4) : (x.retire k n).t.spois = x.t.spois := rfl
@[simp] theorem Ctx.retire_t_tiles (k : Nat) (n : BitVec 4) : (x.retire k n).t.tiles = x.t.tiles := rfl
@[simp] theorem Ctx.retire_t_latch (k : Nat) (n : BitVec 4) : (x.retire k n).t.latch = x.t.latch := rfl
@[simp] theorem Ctx.retire_t_step (k : Nat) (n : BitVec 4) : (x.retire k n).t.step = x.t.step := rfl
@[simp] theorem Ctx.retire_t_spawns (k : Nat) (n : BitVec 4) : (x.retire k n).t.spawns = x.t.spawns := rfl
@[simp] theorem Ctx.retire_t_burst (k : Nat) (n : BitVec 4) : (x.retire k n).t.burst = x.t.burst := rfl
@[simp] theorem Ctx.retire_t_mburstAt (k : Nat) (n : BitVec 4) : (x.retire k n).t.mburstAt = x.t.mburstAt := rfl
@[simp] theorem Ctx.retire_t_ramp (k : Nat) (n : BitVec 4) : (x.retire k n).t.ramp = x.t.ramp := rfl
@[simp] theorem Ctx.retire_t_t0 (k : Nat) (n : BitVec 4) : (x.retire k n).t.t0 = x.t.t0 := rfl
@[simp] theorem Ctx.retireLanes_t_idx (k : Nat) (n : BitVec 4) (ls : List Nat) : (x.retireLanes k n ls).t.idx = x.t.idx := rfl
@[simp] theorem Ctx.retireLanes_t_stage (k : Nat) (n : BitVec 4) (ls : List Nat) : (x.retireLanes k n ls).t.stage = x.t.stage := rfl
@[simp] theorem Ctx.retireLanes_t_phase (k : Nat) (n : BitVec 4) (ls : List Nat) : (x.retireLanes k n ls).t.phase = x.t.phase := rfl
@[simp] theorem Ctx.retireLanes_t_slot (k : Nat) (n : BitVec 4) (ls : List Nat) : (x.retireLanes k n ls).t.slot = x.t.slot := rfl
@[simp] theorem Ctx.retireLanes_t_pos (k : Nat) (n : BitVec 4) (ls : List Nat) : (x.retireLanes k n ls).t.pos = x.t.pos := rfl
@[simp] theorem Ctx.retireLanes_t_nregs (k : Nat) (n : BitVec 4) (ls : List Nat) : (x.retireLanes k n ls).t.nregs = x.t.nregs := rfl
@[simp] theorem Ctx.retireLanes_t_v (k : Nat) (n : BitVec 4) (ls : List Nat) : (x.retireLanes k n ls).t.v = x.t.v := rfl
@[simp] theorem Ctx.retireLanes_t_p (k : Nat) (n : BitVec 4) (ls : List Nat) : (x.retireLanes k n ls).t.p = x.t.p := rfl
@[simp] theorem Ctx.retireLanes_t_s (k : Nat) (n : BitVec 4) (ls : List Nat) : (x.retireLanes k n ls).t.s = x.t.s := rfl
@[simp] theorem Ctx.retireLanes_t_vx (k : Nat) (n : BitVec 4) (ls : List Nat) : (x.retireLanes k n ls).t.vx = x.t.vx := rfl
@[simp] theorem Ctx.retireLanes_t_px (k : Nat) (n : BitVec 4) (ls : List Nat) : (x.retireLanes k n ls).t.px = x.t.px := rfl
@[simp] theorem Ctx.retireLanes_t_sx (k : Nat) (n : BitVec 4) (ls : List Nat) : (x.retireLanes k n ls).t.sx = x.t.sx := rfl
@[simp] theorem Ctx.retireLanes_t_mask (k : Nat) (n : BitVec 4) (ls : List Nat) : (x.retireLanes k n ls).t.mask = x.t.mask := rfl
@[simp] theorem Ctx.retireLanes_t_mstack (k : Nat) (n : BitVec 4) (ls : List Nat) : (x.retireLanes k n ls).t.mstack = x.t.mstack := rfl
@[simp] theorem Ctx.retireLanes_t_rstack (k : Nat) (n : BitVec 4) (ls : List Nat) : (x.retireLanes k n ls).t.rstack = x.t.rstack := rfl
@[simp] theorem Ctx.retireLanes_t_flags (k : Nat) (n : BitVec 4) (ls : List Nat) : (x.retireLanes k n ls).t.flags = x.t.flags := rfl
@[simp] theorem Ctx.retireLanes_t_tctl (k : Nat) (n : BitVec 4) (ls : List Nat) : (x.retireLanes k n ls).t.tctl = x.t.tctl := rfl
@[simp] theorem Ctx.retireLanes_t_pend (k : Nat) (n : BitVec 4) (ls : List Nat) : (x.retireLanes k n ls).t.pend = x.t.pend := rfl
@[simp] theorem Ctx.retireLanes_t_loads (k : Nat) (n : BitVec 4) (ls : List Nat) : (x.retireLanes k n ls).t.loads = x.t.loads := rfl
@[simp] theorem Ctx.retireLanes_t_atoms (k : Nat) (n : BitVec 4) (ls : List Nat) : (x.retireLanes k n ls).t.atoms = x.t.atoms := rfl
@[simp] theorem Ctx.retireLanes_t_mats (k : Nat) (n : BitVec 4) (ls : List Nat) : (x.retireLanes k n ls).t.mats = x.t.mats := rfl
@[simp] theorem Ctx.retireLanes_t_phaseBit (k : Nat) (n : BitVec 4) (ls : List Nat) : (x.retireLanes k n ls).t.phaseBit = x.t.phaseBit := rfl
@[simp] theorem Ctx.retireLanes_t_inhandler (k : Nat) (n : BitVec 4) (ls : List Nat) : (x.retireLanes k n ls).t.inhandler = x.t.inhandler := rfl
@[simp] theorem Ctx.retireLanes_t_frame (k : Nat) (n : BitVec 4) (ls : List Nat) : (x.retireLanes k n ls).t.frame = x.t.frame := rfl
@[simp] theorem Ctx.retireLanes_t_held (k : Nat) (n : BitVec 4) (ls : List Nat) : (x.retireLanes k n ls).t.held = x.t.held := rfl
@[simp] theorem Ctx.retireLanes_t_noroll (k : Nat) (n : BitVec 4) (ls : List Nat) : (x.retireLanes k n ls).t.noroll = x.t.noroll := rfl
@[simp] theorem Ctx.retireLanes_t_ckpt (k : Nat) (n : BitVec 4) (ls : List Nat) : (x.retireLanes k n ls).t.ckpt = x.t.ckpt := rfl
@[simp] theorem Ctx.retireLanes_t_resume (k : Nat) (n : BitVec 4) (ls : List Nat) : (x.retireLanes k n ls).t.resume = x.t.resume := rfl
@[simp] theorem Ctx.retireLanes_t_buf (k : Nat) (n : BitVec 4) (ls : List Nat) : (x.retireLanes k n ls).t.buf = x.t.buf := rfl
@[simp] theorem Ctx.retireLanes_t_spill (k : Nat) (n : BitVec 4) (ls : List Nat) : (x.retireLanes k n ls).t.spill = x.t.spill := rfl
@[simp] theorem Ctx.retireLanes_t_spois (k : Nat) (n : BitVec 4) (ls : List Nat) : (x.retireLanes k n ls).t.spois = x.t.spois := rfl
@[simp] theorem Ctx.retireLanes_t_tiles (k : Nat) (n : BitVec 4) (ls : List Nat) : (x.retireLanes k n ls).t.tiles = x.t.tiles := rfl
@[simp] theorem Ctx.retireLanes_t_latch (k : Nat) (n : BitVec 4) (ls : List Nat) : (x.retireLanes k n ls).t.latch = x.t.latch := rfl
@[simp] theorem Ctx.retireLanes_t_step (k : Nat) (n : BitVec 4) (ls : List Nat) : (x.retireLanes k n ls).t.step = x.t.step := rfl
@[simp] theorem Ctx.retireLanes_t_spawns (k : Nat) (n : BitVec 4) (ls : List Nat) : (x.retireLanes k n ls).t.spawns = x.t.spawns := rfl
@[simp] theorem Ctx.retireLanes_t_burst (k : Nat) (n : BitVec 4) (ls : List Nat) : (x.retireLanes k n ls).t.burst = x.t.burst := rfl
@[simp] theorem Ctx.retireLanes_t_mburstAt (k : Nat) (n : BitVec 4) (ls : List Nat) : (x.retireLanes k n ls).t.mburstAt = x.t.mburstAt := rfl
@[simp] theorem Ctx.retireLanes_t_ramp (k : Nat) (n : BitVec 4) (ls : List Nat) : (x.retireLanes k n ls).t.ramp = x.t.ramp := rfl
@[simp] theorem Ctx.retireLanes_t_t0 (k : Nat) (n : BitVec 4) (ls : List Nat) : (x.retireLanes k n ls).t.t0 = x.t.t0 := rfl
@[simp] theorem Ctx.leaveHandler_t_idx : (x.leaveHandler).t.idx = x.t.idx := rfl
@[simp] theorem Ctx.leaveHandler_t_stage : (x.leaveHandler).t.stage = x.t.stage := rfl
@[simp] theorem Ctx.leaveHandler_t_phase : (x.leaveHandler).t.phase = x.t.phase := rfl
@[simp] theorem Ctx.leaveHandler_t_slot : (x.leaveHandler).t.slot = x.t.slot := rfl
@[simp] theorem Ctx.leaveHandler_t_pos : (x.leaveHandler).t.pos = x.t.pos := rfl
@[simp] theorem Ctx.leaveHandler_t_nregs : (x.leaveHandler).t.nregs = x.t.nregs := rfl
@[simp] theorem Ctx.leaveHandler_t_v : (x.leaveHandler).t.v = x.t.v := rfl
@[simp] theorem Ctx.leaveHandler_t_p : (x.leaveHandler).t.p = x.t.p := rfl
@[simp] theorem Ctx.leaveHandler_t_s : (x.leaveHandler).t.s = x.t.s := rfl
@[simp] theorem Ctx.leaveHandler_t_vx : (x.leaveHandler).t.vx = x.t.vx := rfl
@[simp] theorem Ctx.leaveHandler_t_px : (x.leaveHandler).t.px = x.t.px := rfl
@[simp] theorem Ctx.leaveHandler_t_sx : (x.leaveHandler).t.sx = x.t.sx := rfl
@[simp] theorem Ctx.leaveHandler_t_pc : (x.leaveHandler).t.pc = x.t.pc := rfl
@[simp] theorem Ctx.leaveHandler_t_mstack : (x.leaveHandler).t.mstack = x.t.mstack := rfl
@[simp] theorem Ctx.leaveHandler_t_rstack : (x.leaveHandler).t.rstack = x.t.rstack := rfl
@[simp] theorem Ctx.leaveHandler_t_flags : (x.leaveHandler).t.flags = x.t.flags := rfl
@[simp] theorem Ctx.leaveHandler_t_pend : (x.leaveHandler).t.pend = x.t.pend := rfl
@[simp] theorem Ctx.leaveHandler_t_loads : (x.leaveHandler).t.loads = x.t.loads := rfl
@[simp] theorem Ctx.leaveHandler_t_atoms : (x.leaveHandler).t.atoms = x.t.atoms := rfl
@[simp] theorem Ctx.leaveHandler_t_mats : (x.leaveHandler).t.mats = x.t.mats := rfl
@[simp] theorem Ctx.leaveHandler_t_late : (x.leaveHandler).t.late = x.t.late := rfl
@[simp] theorem Ctx.leaveHandler_t_busy : (x.leaveHandler).t.busy = x.t.busy := rfl
@[simp] theorem Ctx.leaveHandler_t_earliest : (x.leaveHandler).t.earliest = x.t.earliest := rfl
@[simp] theorem Ctx.leaveHandler_t_readySince : (x.leaveHandler).t.readySince = x.t.readySince := rfl
@[simp] theorem Ctx.leaveHandler_t_promoted : (x.leaveHandler).t.promoted = x.t.promoted := rfl
@[simp] theorem Ctx.leaveHandler_t_yielding : (x.leaveHandler).t.yielding = x.t.yielding := rfl
@[simp] theorem Ctx.leaveHandler_t_wait : (x.leaveHandler).t.wait = x.t.wait := rfl
@[simp] theorem Ctx.leaveHandler_t_qturn : (x.leaveHandler).t.qturn = x.t.qturn := rfl
@[simp] theorem Ctx.leaveHandler_t_phaseBit : (x.leaveHandler).t.phaseBit = x.t.phaseBit := rfl
@[simp] theorem Ctx.leaveHandler_t_retry : (x.leaveHandler).t.retry = x.t.retry := rfl
@[simp] theorem Ctx.leaveHandler_t_held : (x.leaveHandler).t.held = x.t.held := rfl
@[simp] theorem Ctx.leaveHandler_t_noroll : (x.leaveHandler).t.noroll = x.t.noroll := rfl
@[simp] theorem Ctx.leaveHandler_t_ckpt : (x.leaveHandler).t.ckpt = x.t.ckpt := rfl
@[simp] theorem Ctx.leaveHandler_t_resume : (x.leaveHandler).t.resume = x.t.resume := rfl
@[simp] theorem Ctx.leaveHandler_t_buf : (x.leaveHandler).t.buf = x.t.buf := rfl
@[simp] theorem Ctx.leaveHandler_t_spill : (x.leaveHandler).t.spill = x.t.spill := rfl
@[simp] theorem Ctx.leaveHandler_t_spois : (x.leaveHandler).t.spois = x.t.spois := rfl
@[simp] theorem Ctx.leaveHandler_t_tiles : (x.leaveHandler).t.tiles = x.t.tiles := rfl
@[simp] theorem Ctx.leaveHandler_t_latch : (x.leaveHandler).t.latch = x.t.latch := rfl
@[simp] theorem Ctx.leaveHandler_t_step : (x.leaveHandler).t.step = x.t.step := rfl
@[simp] theorem Ctx.leaveHandler_t_spawns : (x.leaveHandler).t.spawns = x.t.spawns := rfl
@[simp] theorem Ctx.leaveHandler_t_burst : (x.leaveHandler).t.burst = x.t.burst := rfl
@[simp] theorem Ctx.leaveHandler_t_mburstAt : (x.leaveHandler).t.mburstAt = x.t.mburstAt := rfl
@[simp] theorem Ctx.leaveHandler_t_ramp : (x.leaveHandler).t.ramp = x.t.ramp := rfl
@[simp] theorem Ctx.leaveHandler_t_quota : (x.leaveHandler).t.quota = x.t.quota := rfl
@[simp] theorem Ctx.leaveHandler_t_t0 : (x.leaveHandler).t.t0 = x.t.t0 := rfl
@[simp] theorem Ctx.measure_g_gid (ls : List Nat) : (x.measure ls).g.gid = x.g.gid := rfl
@[simp] theorem Ctx.measure_g_launch (ls : List Nat) : (x.measure ls).g.launch = x.g.launch := rfl
@[simp] theorem Ctx.measure_g_chart (ls : List Nat) : (x.measure ls).g.chart = x.g.chart := rfl
@[simp] theorem Ctx.measure_g_isRec (ls : List Nat) : (x.measure ls).g.isRec = x.g.isRec := rfl
@[simp] theorem Ctx.measure_g_recs (ls : List Nat) : (x.measure ls).g.recs = x.g.recs := rfl
@[simp] theorem Ctx.measure_g_key (ls : List Nat) : (x.measure ls).g.key = x.g.key := rfl
@[simp] theorem Ctx.measure_g_ts (ls : List Nat) : (x.measure ls).g.ts = x.g.ts := rfl
@[simp] theorem Ctx.measure_g_org (ls : List Nat) : (x.measure ls).g.org = x.g.org := rfl
@[simp] theorem Ctx.measure_g_ext (ls : List Nat) : (x.measure ls).g.ext = x.g.ext := rfl
@[simp] theorem Ctx.measure_g_cutno (ls : List Nat) : (x.measure ls).g.cutno = x.g.cutno := rfl
@[simp] theorem Ctx.measure_g_status (ls : List Nat) : (x.measure ls).g.status = x.g.status := rfl
@[simp] theorem Ctx.measure_g_saved (ls : List Nat) : (x.measure ls).g.saved = x.g.saved := rfl
@[simp] theorem Ctx.measure_g_die (ls : List Nat) : (x.measure ls).g.die = x.g.die := rfl
@[simp] theorem Ctx.measure_g_core (ls : List Nat) : (x.measure ls).g.core = x.g.core := rfl
@[simp] theorem Ctx.measure_g_teams (ls : List Nat) : (x.measure ls).g.teams = x.g.teams := rfl
@[simp] theorem Ctx.measure_g_window (ls : List Nat) : (x.measure ls).g.window = x.g.window := rfl
@[simp] theorem Ctx.measure_g_wpois (ls : List Nat) : (x.measure ls).g.wpois = x.g.wpois := rfl
@[simp] theorem Ctx.measure_g_harea (ls : List Nat) : (x.measure ls).g.harea = x.g.harea := rfl
@[simp] theorem Ctx.measure_g_hpois (ls : List Nat) : (x.measure ls).g.hpois = x.g.hpois := rfl
@[simp] theorem Ctx.measure_g_handles (ls : List Nat) : (x.measure ls).g.handles = x.g.handles := rfl
@[simp] theorem Ctx.measure_g_cmds (ls : List Nat) : (x.measure ls).g.cmds = x.g.cmds := rfl
@[simp] theorem Ctx.measure_g_carea (ls : List Nat) : (x.measure ls).g.carea = x.g.carea := rfl
@[simp] theorem Ctx.measure_g_contested (ls : List Nat) : (x.measure ls).g.contested = x.g.contested := rfl
@[simp] theorem Ctx.measure_g_queues (ls : List Nat) : (x.measure ls).g.queues = x.g.queues := rfl
@[simp] theorem Ctx.measure_g_bars (ls : List Nat) : (x.measure ls).g.bars = x.g.bars := rfl
@[simp] theorem Ctx.measure_g_committers (ls : List Nat) : (x.measure ls).g.committers = x.g.committers := rfl
@[simp] theorem Ctx.measure_g_turn (ls : List Nat) : (x.measure ls).g.turn = x.g.turn := rfl
@[simp] theorem Ctx.measure_g_committed (ls : List Nat) : (x.measure ls).g.committed = x.g.committed := rfl
@[simp] theorem Ctx.measure_g_gcommitted (ls : List Nat) : (x.measure ls).g.gcommitted = x.g.gcommitted := rfl
@[simp] theorem Ctx.measure_g_freed (ls : List Nat) : (x.measure ls).g.freed = x.g.freed := rfl
@[simp] theorem Ctx.measure_g_written (ls : List Nat) : (x.measure ls).g.written = x.g.written := rfl
@[simp] theorem Ctx.measure_g_nonspec (ls : List Nat) : (x.measure ls).g.nonspec = x.g.nonspec := rfl
@[simp] theorem Ctx.measure_g_bkconf (ls : List Nat) : (x.measure ls).g.bkconf = x.g.bkconf := rfl
@[simp] theorem Ctx.measure_g_gconf (ls : List Nat) : (x.measure ls).g.gconf = x.g.gconf := rfl
@[simp] theorem Ctx.measure_g_reads (ls : List Nat) : (x.measure ls).g.reads = x.g.reads := rfl
@[simp] theorem Ctx.measure_g_drawn (ls : List Nat) : (x.measure ls).g.drawn = x.g.drawn := rfl
@[simp] theorem Ctx.measure_g_drawAt (ls : List Nat) : (x.measure ls).g.drawAt = x.g.drawAt := rfl
@[simp] theorem Ctx.measure_g_posts (ls : List Nat) : (x.measure ls).g.posts = x.g.posts := rfl
@[simp] theorem Ctx.measure_g_pres (ls : List Nat) : (x.measure ls).g.pres = x.g.pres := rfl
@[simp] theorem Ctx.measure_g_preFault (ls : List Nat) : (x.measure ls).g.preFault = x.g.preFault := rfl
@[simp] theorem Ctx.measure_g_parked (ls : List Nat) : (x.measure ls).g.parked = x.g.parked := rfl
@[simp] theorem Ctx.measure_g_grow (ls : List Nat) : (x.measure ls).g.grow = x.g.grow := rfl
@[simp] theorem Ctx.measure_g_stop (ls : List Nat) : (x.measure ls).g.stop = x.g.stop := rfl
@[simp] theorem Ctx.measure_g_grace (ls : List Nat) : (x.measure ls).g.grace = x.g.grace := rfl
@[simp] theorem Ctx.retireLanes_g_gid (k : Nat) (n : BitVec 4) (ls : List Nat) : (x.retireLanes k n ls).g.gid = x.g.gid := rfl
@[simp] theorem Ctx.retireLanes_g_launch (k : Nat) (n : BitVec 4) (ls : List Nat) : (x.retireLanes k n ls).g.launch = x.g.launch := rfl
@[simp] theorem Ctx.retireLanes_g_chart (k : Nat) (n : BitVec 4) (ls : List Nat) : (x.retireLanes k n ls).g.chart = x.g.chart := rfl
@[simp] theorem Ctx.retireLanes_g_isRec (k : Nat) (n : BitVec 4) (ls : List Nat) : (x.retireLanes k n ls).g.isRec = x.g.isRec := rfl
@[simp] theorem Ctx.retireLanes_g_recs (k : Nat) (n : BitVec 4) (ls : List Nat) : (x.retireLanes k n ls).g.recs = x.g.recs := rfl
@[simp] theorem Ctx.retireLanes_g_key (k : Nat) (n : BitVec 4) (ls : List Nat) : (x.retireLanes k n ls).g.key = x.g.key := rfl
@[simp] theorem Ctx.retireLanes_g_ts (k : Nat) (n : BitVec 4) (ls : List Nat) : (x.retireLanes k n ls).g.ts = x.g.ts := rfl
@[simp] theorem Ctx.retireLanes_g_org (k : Nat) (n : BitVec 4) (ls : List Nat) : (x.retireLanes k n ls).g.org = x.g.org := rfl
@[simp] theorem Ctx.retireLanes_g_ext (k : Nat) (n : BitVec 4) (ls : List Nat) : (x.retireLanes k n ls).g.ext = x.g.ext := rfl
@[simp] theorem Ctx.retireLanes_g_cutno (k : Nat) (n : BitVec 4) (ls : List Nat) : (x.retireLanes k n ls).g.cutno = x.g.cutno := rfl
@[simp] theorem Ctx.retireLanes_g_status (k : Nat) (n : BitVec 4) (ls : List Nat) : (x.retireLanes k n ls).g.status = x.g.status := rfl
@[simp] theorem Ctx.retireLanes_g_saved (k : Nat) (n : BitVec 4) (ls : List Nat) : (x.retireLanes k n ls).g.saved = x.g.saved := rfl
@[simp] theorem Ctx.retireLanes_g_die (k : Nat) (n : BitVec 4) (ls : List Nat) : (x.retireLanes k n ls).g.die = x.g.die := rfl
@[simp] theorem Ctx.retireLanes_g_core (k : Nat) (n : BitVec 4) (ls : List Nat) : (x.retireLanes k n ls).g.core = x.g.core := rfl
@[simp] theorem Ctx.retireLanes_g_teams (k : Nat) (n : BitVec 4) (ls : List Nat) : (x.retireLanes k n ls).g.teams = x.g.teams := rfl
@[simp] theorem Ctx.retireLanes_g_window (k : Nat) (n : BitVec 4) (ls : List Nat) : (x.retireLanes k n ls).g.window = x.g.window := rfl
@[simp] theorem Ctx.retireLanes_g_wpois (k : Nat) (n : BitVec 4) (ls : List Nat) : (x.retireLanes k n ls).g.wpois = x.g.wpois := rfl
@[simp] theorem Ctx.retireLanes_g_harea (k : Nat) (n : BitVec 4) (ls : List Nat) : (x.retireLanes k n ls).g.harea = x.g.harea := rfl
@[simp] theorem Ctx.retireLanes_g_hpois (k : Nat) (n : BitVec 4) (ls : List Nat) : (x.retireLanes k n ls).g.hpois = x.g.hpois := rfl
@[simp] theorem Ctx.retireLanes_g_handles (k : Nat) (n : BitVec 4) (ls : List Nat) : (x.retireLanes k n ls).g.handles = x.g.handles := rfl
@[simp] theorem Ctx.retireLanes_g_cmds (k : Nat) (n : BitVec 4) (ls : List Nat) : (x.retireLanes k n ls).g.cmds = x.g.cmds := rfl
@[simp] theorem Ctx.retireLanes_g_carea (k : Nat) (n : BitVec 4) (ls : List Nat) : (x.retireLanes k n ls).g.carea = x.g.carea := rfl
@[simp] theorem Ctx.retireLanes_g_contested (k : Nat) (n : BitVec 4) (ls : List Nat) : (x.retireLanes k n ls).g.contested = x.g.contested := rfl
@[simp] theorem Ctx.retireLanes_g_queues (k : Nat) (n : BitVec 4) (ls : List Nat) : (x.retireLanes k n ls).g.queues = x.g.queues := rfl
@[simp] theorem Ctx.retireLanes_g_bars (k : Nat) (n : BitVec 4) (ls : List Nat) : (x.retireLanes k n ls).g.bars = x.g.bars := rfl
@[simp] theorem Ctx.retireLanes_g_committers (k : Nat) (n : BitVec 4) (ls : List Nat) : (x.retireLanes k n ls).g.committers = x.g.committers := rfl
@[simp] theorem Ctx.retireLanes_g_turn (k : Nat) (n : BitVec 4) (ls : List Nat) : (x.retireLanes k n ls).g.turn = x.g.turn := rfl
@[simp] theorem Ctx.retireLanes_g_committed (k : Nat) (n : BitVec 4) (ls : List Nat) : (x.retireLanes k n ls).g.committed = x.g.committed := rfl
@[simp] theorem Ctx.retireLanes_g_gcommitted (k : Nat) (n : BitVec 4) (ls : List Nat) : (x.retireLanes k n ls).g.gcommitted = x.g.gcommitted := rfl
@[simp] theorem Ctx.retireLanes_g_freed (k : Nat) (n : BitVec 4) (ls : List Nat) : (x.retireLanes k n ls).g.freed = x.g.freed := rfl
@[simp] theorem Ctx.retireLanes_g_written (k : Nat) (n : BitVec 4) (ls : List Nat) : (x.retireLanes k n ls).g.written = x.g.written := rfl
@[simp] theorem Ctx.retireLanes_g_nonspec (k : Nat) (n : BitVec 4) (ls : List Nat) : (x.retireLanes k n ls).g.nonspec = x.g.nonspec := rfl
@[simp] theorem Ctx.retireLanes_g_bkconf (k : Nat) (n : BitVec 4) (ls : List Nat) : (x.retireLanes k n ls).g.bkconf = x.g.bkconf := rfl
@[simp] theorem Ctx.retireLanes_g_gconf (k : Nat) (n : BitVec 4) (ls : List Nat) : (x.retireLanes k n ls).g.gconf = x.g.gconf := rfl
@[simp] theorem Ctx.retireLanes_g_reads (k : Nat) (n : BitVec 4) (ls : List Nat) : (x.retireLanes k n ls).g.reads = x.g.reads := rfl
@[simp] theorem Ctx.retireLanes_g_drawn (k : Nat) (n : BitVec 4) (ls : List Nat) : (x.retireLanes k n ls).g.drawn = x.g.drawn := rfl
@[simp] theorem Ctx.retireLanes_g_drawAt (k : Nat) (n : BitVec 4) (ls : List Nat) : (x.retireLanes k n ls).g.drawAt = x.g.drawAt := rfl
@[simp] theorem Ctx.retireLanes_g_posts (k : Nat) (n : BitVec 4) (ls : List Nat) : (x.retireLanes k n ls).g.posts = x.g.posts := rfl
@[simp] theorem Ctx.retireLanes_g_pres (k : Nat) (n : BitVec 4) (ls : List Nat) : (x.retireLanes k n ls).g.pres = x.g.pres := rfl
@[simp] theorem Ctx.retireLanes_g_preFault (k : Nat) (n : BitVec 4) (ls : List Nat) : (x.retireLanes k n ls).g.preFault = x.g.preFault := rfl
@[simp] theorem Ctx.retireLanes_g_parked (k : Nat) (n : BitVec 4) (ls : List Nat) : (x.retireLanes k n ls).g.parked = x.g.parked := rfl
@[simp] theorem Ctx.retireLanes_g_grow (k : Nat) (n : BitVec 4) (ls : List Nat) : (x.retireLanes k n ls).g.grow = x.g.grow := rfl
@[simp] theorem Ctx.retireLanes_g_stop (k : Nat) (n : BitVec 4) (ls : List Nat) : (x.retireLanes k n ls).g.stop = x.g.stop := rfl
@[simp] theorem Ctx.retireLanes_g_grace (k : Nat) (n : BitVec 4) (ls : List Nat) : (x.retireLanes k n ls).g.grace = x.g.grace := rfl
@[simp] theorem Ctx.setHandle_g_gid (h : BitVec 5) (q : Handle) : (x.setHandle h q).g.gid = x.g.gid := rfl
@[simp] theorem Ctx.setHandle_g_launch (h : BitVec 5) (q : Handle) : (x.setHandle h q).g.launch = x.g.launch := rfl
@[simp] theorem Ctx.setHandle_g_chart (h : BitVec 5) (q : Handle) : (x.setHandle h q).g.chart = x.g.chart := rfl
@[simp] theorem Ctx.setHandle_g_isRec (h : BitVec 5) (q : Handle) : (x.setHandle h q).g.isRec = x.g.isRec := rfl
@[simp] theorem Ctx.setHandle_g_recs (h : BitVec 5) (q : Handle) : (x.setHandle h q).g.recs = x.g.recs := rfl
@[simp] theorem Ctx.setHandle_g_key (h : BitVec 5) (q : Handle) : (x.setHandle h q).g.key = x.g.key := rfl
@[simp] theorem Ctx.setHandle_g_ts (h : BitVec 5) (q : Handle) : (x.setHandle h q).g.ts = x.g.ts := rfl
@[simp] theorem Ctx.setHandle_g_org (h : BitVec 5) (q : Handle) : (x.setHandle h q).g.org = x.g.org := rfl
@[simp] theorem Ctx.setHandle_g_ext (h : BitVec 5) (q : Handle) : (x.setHandle h q).g.ext = x.g.ext := rfl
@[simp] theorem Ctx.setHandle_g_cutno (h : BitVec 5) (q : Handle) : (x.setHandle h q).g.cutno = x.g.cutno := rfl
@[simp] theorem Ctx.setHandle_g_status (h : BitVec 5) (q : Handle) : (x.setHandle h q).g.status = x.g.status := rfl
@[simp] theorem Ctx.setHandle_g_saved (h : BitVec 5) (q : Handle) : (x.setHandle h q).g.saved = x.g.saved := rfl
@[simp] theorem Ctx.setHandle_g_die (h : BitVec 5) (q : Handle) : (x.setHandle h q).g.die = x.g.die := rfl
@[simp] theorem Ctx.setHandle_g_core (h : BitVec 5) (q : Handle) : (x.setHandle h q).g.core = x.g.core := rfl
@[simp] theorem Ctx.setHandle_g_teams (h : BitVec 5) (q : Handle) : (x.setHandle h q).g.teams = x.g.teams := rfl
@[simp] theorem Ctx.setHandle_g_window (h : BitVec 5) (q : Handle) : (x.setHandle h q).g.window = x.g.window := rfl
@[simp] theorem Ctx.setHandle_g_wpois (h : BitVec 5) (q : Handle) : (x.setHandle h q).g.wpois = x.g.wpois := rfl
@[simp] theorem Ctx.setHandle_g_harea (h : BitVec 5) (q : Handle) : (x.setHandle h q).g.harea = x.g.harea := rfl
@[simp] theorem Ctx.setHandle_g_hpois (h : BitVec 5) (q : Handle) : (x.setHandle h q).g.hpois = x.g.hpois := rfl
@[simp] theorem Ctx.setHandle_g_cmds (h : BitVec 5) (q : Handle) : (x.setHandle h q).g.cmds = x.g.cmds := rfl
@[simp] theorem Ctx.setHandle_g_carea (h : BitVec 5) (q : Handle) : (x.setHandle h q).g.carea = x.g.carea := rfl
@[simp] theorem Ctx.setHandle_g_contested (h : BitVec 5) (q : Handle) : (x.setHandle h q).g.contested = x.g.contested := rfl
@[simp] theorem Ctx.setHandle_g_queues (h : BitVec 5) (q : Handle) : (x.setHandle h q).g.queues = x.g.queues := rfl
@[simp] theorem Ctx.setHandle_g_bars (h : BitVec 5) (q : Handle) : (x.setHandle h q).g.bars = x.g.bars := rfl
@[simp] theorem Ctx.setHandle_g_committers (h : BitVec 5) (q : Handle) : (x.setHandle h q).g.committers = x.g.committers := rfl
@[simp] theorem Ctx.setHandle_g_turn (h : BitVec 5) (q : Handle) : (x.setHandle h q).g.turn = x.g.turn := rfl
@[simp] theorem Ctx.setHandle_g_committed (h : BitVec 5) (q : Handle) : (x.setHandle h q).g.committed = x.g.committed := rfl
@[simp] theorem Ctx.setHandle_g_gcommitted (h : BitVec 5) (q : Handle) : (x.setHandle h q).g.gcommitted = x.g.gcommitted := rfl
@[simp] theorem Ctx.setHandle_g_freed (h : BitVec 5) (q : Handle) : (x.setHandle h q).g.freed = x.g.freed := rfl
@[simp] theorem Ctx.setHandle_g_written (h : BitVec 5) (q : Handle) : (x.setHandle h q).g.written = x.g.written := rfl
@[simp] theorem Ctx.setHandle_g_nonspec (h : BitVec 5) (q : Handle) : (x.setHandle h q).g.nonspec = x.g.nonspec := rfl
@[simp] theorem Ctx.setHandle_g_bkconf (h : BitVec 5) (q : Handle) : (x.setHandle h q).g.bkconf = x.g.bkconf := rfl
@[simp] theorem Ctx.setHandle_g_gconf (h : BitVec 5) (q : Handle) : (x.setHandle h q).g.gconf = x.g.gconf := rfl
@[simp] theorem Ctx.setHandle_g_reads (h : BitVec 5) (q : Handle) : (x.setHandle h q).g.reads = x.g.reads := rfl
@[simp] theorem Ctx.setHandle_g_meas (h : BitVec 5) (q : Handle) : (x.setHandle h q).g.meas = x.g.meas := rfl
@[simp] theorem Ctx.setHandle_g_drawn (h : BitVec 5) (q : Handle) : (x.setHandle h q).g.drawn = x.g.drawn := rfl
@[simp] theorem Ctx.setHandle_g_drawAt (h : BitVec 5) (q : Handle) : (x.setHandle h q).g.drawAt = x.g.drawAt := rfl
@[simp] theorem Ctx.setHandle_g_posts (h : BitVec 5) (q : Handle) : (x.setHandle h q).g.posts = x.g.posts := rfl
@[simp] theorem Ctx.setHandle_g_pres (h : BitVec 5) (q : Handle) : (x.setHandle h q).g.pres = x.g.pres := rfl
@[simp] theorem Ctx.setHandle_g_preFault (h : BitVec 5) (q : Handle) : (x.setHandle h q).g.preFault = x.g.preFault := rfl
@[simp] theorem Ctx.setHandle_g_parked (h : BitVec 5) (q : Handle) : (x.setHandle h q).g.parked = x.g.parked := rfl
@[simp] theorem Ctx.setHandle_g_grow (h : BitVec 5) (q : Handle) : (x.setHandle h q).g.grow = x.g.grow := rfl
@[simp] theorem Ctx.setHandle_g_stop (h : BitVec 5) (q : Handle) : (x.setHandle h q).g.stop = x.g.stop := rfl
@[simp] theorem Ctx.setHandle_g_grace (h : BitVec 5) (q : Handle) : (x.setHandle h q).g.grace = x.g.grace := rfl
@[simp] theorem Group.setTeam_gid : (g.setTeam t).gid = g.gid := rfl
@[simp] theorem Group.setTeam_launch : (g.setTeam t).launch = g.launch := rfl
@[simp] theorem Group.setTeam_chart : (g.setTeam t).chart = g.chart := rfl
@[simp] theorem Group.setTeam_isRec : (g.setTeam t).isRec = g.isRec := rfl
@[simp] theorem Group.setTeam_recs : (g.setTeam t).recs = g.recs := rfl
@[simp] theorem Group.setTeam_key : (g.setTeam t).key = g.key := rfl
@[simp] theorem Group.setTeam_ts : (g.setTeam t).ts = g.ts := rfl
@[simp] theorem Group.setTeam_org : (g.setTeam t).org = g.org := rfl
@[simp] theorem Group.setTeam_ext : (g.setTeam t).ext = g.ext := rfl
@[simp] theorem Group.setTeam_cutno : (g.setTeam t).cutno = g.cutno := rfl
@[simp] theorem Group.setTeam_status : (g.setTeam t).status = g.status := rfl
@[simp] theorem Group.setTeam_saved : (g.setTeam t).saved = g.saved := rfl
@[simp] theorem Group.setTeam_die : (g.setTeam t).die = g.die := rfl
@[simp] theorem Group.setTeam_core : (g.setTeam t).core = g.core := rfl
@[simp] theorem Group.setTeam_window : (g.setTeam t).window = g.window := rfl
@[simp] theorem Group.setTeam_wpois : (g.setTeam t).wpois = g.wpois := rfl
@[simp] theorem Group.setTeam_harea : (g.setTeam t).harea = g.harea := rfl
@[simp] theorem Group.setTeam_hpois : (g.setTeam t).hpois = g.hpois := rfl
@[simp] theorem Group.setTeam_handles : (g.setTeam t).handles = g.handles := rfl
@[simp] theorem Group.setTeam_cmds : (g.setTeam t).cmds = g.cmds := rfl
@[simp] theorem Group.setTeam_carea : (g.setTeam t).carea = g.carea := rfl
@[simp] theorem Group.setTeam_contested : (g.setTeam t).contested = g.contested := rfl
@[simp] theorem Group.setTeam_queues : (g.setTeam t).queues = g.queues := rfl
@[simp] theorem Group.setTeam_bars : (g.setTeam t).bars = g.bars := rfl
@[simp] theorem Group.setTeam_committers : (g.setTeam t).committers = g.committers := rfl
@[simp] theorem Group.setTeam_turn : (g.setTeam t).turn = g.turn := rfl
@[simp] theorem Group.setTeam_committed : (g.setTeam t).committed = g.committed := rfl
@[simp] theorem Group.setTeam_gcommitted : (g.setTeam t).gcommitted = g.gcommitted := rfl
@[simp] theorem Group.setTeam_freed : (g.setTeam t).freed = g.freed := rfl
@[simp] theorem Group.setTeam_written : (g.setTeam t).written = g.written := rfl
@[simp] theorem Group.setTeam_nonspec : (g.setTeam t).nonspec = g.nonspec := rfl
@[simp] theorem Group.setTeam_bkconf : (g.setTeam t).bkconf = g.bkconf := rfl
@[simp] theorem Group.setTeam_gconf : (g.setTeam t).gconf = g.gconf := rfl
@[simp] theorem Group.setTeam_reads : (g.setTeam t).reads = g.reads := rfl
@[simp] theorem Group.setTeam_meas : (g.setTeam t).meas = g.meas := rfl
@[simp] theorem Group.setTeam_drawn : (g.setTeam t).drawn = g.drawn := rfl
@[simp] theorem Group.setTeam_drawAt : (g.setTeam t).drawAt = g.drawAt := rfl
@[simp] theorem Group.setTeam_posts : (g.setTeam t).posts = g.posts := rfl
@[simp] theorem Group.setTeam_pres : (g.setTeam t).pres = g.pres := rfl
@[simp] theorem Group.setTeam_preFault : (g.setTeam t).preFault = g.preFault := rfl
@[simp] theorem Group.setTeam_parked : (g.setTeam t).parked = g.parked := rfl
@[simp] theorem Group.setTeam_grow : (g.setTeam t).grow = g.grow := rfl
@[simp] theorem Group.setTeam_stop : (g.setTeam t).stop = g.stop := rfl
@[simp] theorem Group.setTeam_grace : (g.setTeam t).grace = g.grace := rfl

/-! ### What those updates set -/

@[simp] theorem Ctx.goto_t_pc (pc : DWord) : (x.goto pc).t.pc = pc := rfl
@[simp] theorem Ctx.retire_t_pc (k : Nat) (n : BitVec 4) : (x.retire k n).t.pc = x.t.pc + dwordOf k := rfl
@[simp] theorem Ctx.retireLanes_t_pc (k : Nat) (n : BitVec 4) (ls : List Nat) : (x.retireLanes k n ls).t.pc = x.t.pc + dwordOf k := rfl
@[simp] theorem Ctx.issued_t_wait (k n : Nat) : (x.issued k n).t.wait = none := rfl
@[simp] theorem Ctx.retire_t_wait (k : Nat) (n : BitVec 4) : (x.retire k n).t.wait = none := rfl
@[simp] theorem Ctx.retireLanes_t_wait (k : Nat) (n : BitVec 4) (ls : List Nat) : (x.retireLanes k n ls).t.wait = none := rfl
@[simp] theorem Ctx.retire_t_earliest (k : Nat) (n : BitVec 4) : (x.retire k n).t.earliest = x.t.t0 + 1 + n.toNat := rfl
@[simp] theorem Ctx.retireLanes_t_earliest (k : Nat) (n : BitVec 4) (ls : List Nat) : (x.retireLanes k n ls).t.earliest = x.t.t0 + x.passes + n.toNat := rfl
@[simp] theorem Group.setTeam_teams : (g.setTeam t).teams = g.teams.set t.idx t := rfl

end Sys2Proof.Machine
end

