-- ==== Sys2Proof/Laws/Base.lean ====
section
/-!
SUPPORT. What the shared operations of a native instruction do to the whole state: main memory keeps its canonical form, and what
belongs to the service stands.
-/
namespace Sys2Proof.Machine

/-- A change of the state that keeps main memory canonical and the service's part as it is. -/
structure Base (s t : State) : Prop where
  wf : s.mem.wf = true → t.mem.wf = true
  service : t.service = s.service

/-- An outcome that is a next state, reached by such a change. -/
def Ok (s : State) (o : Out) : Prop := ∃ t, o = .next t ∧ Base s t

namespace Base

theorem refl (s : State) : Base s s := ⟨id, rfl⟩

theorem trans {s t u : State} (h : Base s t) (k : Base t u) : Base s u := ⟨fun w => k.wf (h.wf w), k.service.trans h.service⟩

/-- A change that leaves memory and the service's part alone. -/
theorem of_eq {s t : State} (hm : t.mem = s.mem) (hs : t.service = s.service) : Base s t := ⟨fun w => hm ▸ w, hs⟩

theorem foldl {β : Type} (f : State → β → State) (h : ∀ s b, Base s (f s b)) (l : List β) (s : State) : Base s (l.foldl f s) := by
  induction l generalizing s with
  | nil => exact refl s
  | cons b r ih => exact (h s b).trans (ih (f s b))

theorem ite {s t u : State} {c : Prop} [Decidable c] (h : Base s t) (k : Base s u) : Base s (if c then t else u) := by
  split <;> assumption

end Base

theorem Ok.next {s t : State} (h : Base s t) : Ok s (.next t) := ⟨t, rfl, h⟩

theorem Ok.from {s t : State} {o : Out} (h : Base s t) (k : Ok t o) : Ok s o := by
  obtain ⟨u, e, b⟩ := k
  exact ⟨u, e, h.trans b⟩

theorem Ok.ite {s : State} {c : Prop} [Decidable c] {o p : Out} (h : Ok s o) (k : Ok s p) : Ok s (if c then o else p) := by
  split <;> assumption

/-! ### Records written back -/

theorem base_setGroup (s : State) (g : Group) : Base s (s.setGroup g) := .of_eq rfl rfl
theorem base_setLaunch (s : State) (l : Launch) : Base s (s.setLaunch l) := .of_eq rfl rfl
theorem base_setCore (s : State) (d k : Nat) (c : Core) : Base s (s.setCore d k c) := .of_eq rfl rfl
theorem base_setSlot (s : State) (k : Nat) (x : Slot) : Base s (s.setSlot k x) := .of_eq rfl rfl
theorem base_setRouter (s : State) (d k : Nat) (r : Router) : Base s (s.setRouter d k r) := .of_eq rfl rfl
theorem base_bump (s : State) : Base s s.bump := .of_eq rfl rfl
theorem base_save (x : Ctx) : Base x.s x.save := .of_eq rfl rfl

/-! ### The network -/

theorem base_touch (s : State) (r : RouterAt) : Base s (s.touch r) := by
  unfold State.touch
  exact (Base.refl s).ite (base_setRouter s _ _ _)

theorem base_send (s : State) (a b : Nat) (w : Parcel) : Base s (s.send a b w) :=
  Base.trans (t := { s with packets := s.packets ++ [_], nextId := s.nextId + 1 }) (.of_eq rfl rfl) (Base.foldl _ base_touch _ _)

/-! ### Groups -/

theorem base_requeueGroup (s : State) (g : Group) : Base s (s.requeueGroup g) := by
  unfold State.requeueGroup
  split
  · exact .refl s
  · rename_i l _
    exact Base.trans (t := s.setLaunch (l.requeue g.die g.gid)) (base_setLaunch s _) (.of_eq rfl rfl)

theorem base_binLaunch (s : State) (l : Launch) (im : Image) (d n : Nat) (ts : Option DWord) : Base s (s.binLaunch l im d n ts) := by
  unfold State.binLaunch
  split
  · simp only
    generalize (Launch.bin l d n).set ts = all
    generalize (if ts.isSome = true then _ else _ : List Rec) = chosen
    cases chosen.isEmpty
    · exact .of_eq rfl rfl
    · exact .refl s
  · exact .refl s

theorem base_binFlush (l d n : Nat) (ts : Option DWord) (k : Nat) (s : State) : Base s (s.binFlush l d n ts k) := by
  induction k generalizing s with
  | zero => exact .refl s
  | succ k ih =>
    unfold State.binFlush
    split
    · exact .refl s
    · split
      · exact .refl s
      · exact ((base_binLaunch s _ _ _ _ _).trans (ih _)).ite (.refl s)

theorem base_binEnter (s : State) (l : Nat) (o : Bool) (d n : Nat) (r : Rec) : Base s (s.binEnter l o d n r) := by
  unfold State.binEnter
  split
  · exact .refl s
  · exact (base_setLaunch s _).trans (base_binFlush _ _ _ _ _ _)

theorem base_unlist (s : State) (g : Nat) : Base s (s.unlist g) := .of_eq rfl rfl

theorem base_withdraw (s : State) (l : Nat) (set : List Nat) : Base s (s.withdraw l set) := by
  unfold State.withdraw
  split
  · exact .refl s
  · exact base_setLaunch s _

theorem base_dropDescendant (s : State) (o : Bool) (set : List Nat) (g : Nat) : Base s (s.dropDescendant o set g) := by
  unfold State.dropDescendant
  split
  · exact .refl s
  · split
    · exact .refl s
    · dsimp only
      have h : ∀ q : Group, Base s ((s.unlist g).setGroup q) := fun q => (base_unlist s g).trans (base_setGroup _ _)
      split
      · exact h _
      · exact (h _).trans (Base.foldl _ (fun s r => base_binEnter s _ _ _ _ r) _ _)

theorem base_abortDescendants (s : State) (l g : Nat) (o : Bool) : Base s (s.abortDescendants l g o) :=
  (base_withdraw s l _).trans (Base.foldl _ (fun s x => base_dropDescendant s _ _ x) _ _)

theorem base_refile (s : State) (g : Group) (f : Meas → Option Meas) : Base s (s.refile g f) := by
  unfold State.refile
  split
  · exact .refl s
  · exact .of_eq rfl rfl

theorem base_unmeasure (s : State) (g : Group) : Base s (s.unmeasure g) := base_refile s g _

theorem base_abortGroup (s : State) (g : Nat) : Base s (s.abortGroup g) := by
  unfold State.abortGroup
  split
  · exact .refl s
  · split
    · exact .refl s
    · exact ((((base_unmeasure s _).trans (base_abortDescendants _ _ _ _)).trans (base_unlist _ _)).trans (base_setGroup _ _)).trans
        (base_requeueGroup _ _)

theorem base_dropGroup (s : State) (g : Nat) : Base s (s.dropGroup g) := by
  unfold State.dropGroup
  split
  · exact .refl s
  · split
    · exact .refl s
    · dsimp only
      have h : ∀ (w : Group) (f : Meas → Option Meas) (q : Group) l o,
          Base s ((((s.refile w f).abortDescendants l g o).unlist g).setGroup q) := fun w f q l o =>
        (((base_refile s w f).trans (base_abortDescendants _ _ _ _)).trans (base_unlist _ _)).trans (base_setGroup _ _)
      split
      · exact h _ _ _ _ _
      · exact Base.ite ((h _ _ _ _ _).trans (base_setLaunch _ _)) (h _ _ _ _ _)

theorem base_endGroup (s : State) (g : Nat) (c : Cause) (t : Word) (a b : DWord) : Base s (s.endGroup g c t a b) := by
  unfold State.endGroup
  split
  · exact .refl s
  · dsimp only
    split
    · exact base_dropGroup s g
    · exact (base_dropGroup s g).trans (base_setLaunch _ _)

/-! ### Group commit -/

theorem base_logErr (s : State) (k : ErrKind) (d c o : Nat) (ks : List Key) : Base s (s.logErr k d c o ks) := .of_eq rfl rfl

theorem base_meet (s : State) (a n : Nat) : Base s (s.meet a n) := by
  unfold State.meet
  refine Base.foldl _ (fun s w => ?_) _ _
  exact .of_eq rfl rfl

theorem base_writeElem (r : LRec) (op : Nat) (src : Memory) (poi : NSet) (b : Nat) (acc : State × List Nat) (x : Int × Nat) :
    Base acc.1 (r.writeElem op src poi b acc x).1 := by
  have meet : Base acc.1 (if op = 0 then acc.1 else acc.1.meet x.1.toNat r.es) := (Base.refl _).ite (base_meet _ _ _)
  have wrote : ∀ (s : State) bs (p q : NSet), Base s { s with mem := s.mem.writeN x.1.toNat bs, mpois := p, mbad := q } :=
    fun s bs _ _ => ⟨fun h => Memory.wf_writeN _ _ bs h, rfl⟩
  unfold LRec.writeElem
  dsimp only
  generalize (if op = 0 then acc.1 else acc.1.meet x.1.toNat r.es) = s at meet
  split
  · exact meet
  · split
    · exact meet.trans (wrote _ _ _ _)
    · exact meet.trans (wrote _ _ _ _)

theorem base_writeMain (s : State) (r : LRec) (op : Nat) (m : List (Int × Nat)) (src : Memory) (poi : NSet) (b : Nat) :
    Base s (s.writeMain r op m src poi b) := by
  have go : ∀ (m : List (Int × Nat)) (acc : State × List Nat), Base acc.1 (m.foldl (r.writeElem op src poi b) acc).1 := by
    intro m
    induction m with
    | nil => exact fun acc => .refl acc.1
    | cons x m ih => exact fun acc => (base_writeElem r op src poi b acc x).trans (ih _)
  exact go m (s, [])

theorem base_applyDrain (s : State) (g : Group) (c : Chart) (k : Cmd) : Base s (s.applyDrain g c k) := base_writeMain s _ _ _ _ _ _

theorem base_poisonGran (s : State) (l : Nat) (k : GranKey) : Base s (s.poisonGran l k) := by
  unfold State.poisonGran
  split
  · exact .of_eq rfl rfl
  · split
    · exact .refl s
    · exact (base_setLaunch s _).trans (base_logErr _ _ _ _ _ _)
  · exact .refl s

theorem base_conflicts (s : State) (g : Group) (d m : List (Nat × Nat)) : Base s (s.conflicts g d m) :=
  Base.foldl _ (fun s (h : Group) => (base_abortGroup s h.gid).ite (.refl s)) _ _

theorem base_dropLines (s : State) (l d : Nat) (gs : List Nat) : Base s (s.dropLines l d gs) := .of_eq rfl rfl

theorem base_groupCommit (s : State) (gid : Nat) (final : Bool) : Base s (s.groupCommit gid final) := by
  unfold State.groupCommit
  split
  · exact .refl s
  · split
    · exact .refl s
    · dsimp only
      rename_i g _ _ c _
      have h1 : ∀ (k : Bool) (f : Group → Group), Base s (if k then s else { s with groups := s.groups.map f }) :=
        fun k f => (Base.refl s).ite (.of_eq rfl rfl)
      have fin : ∀ (t : State) (q : Group) a b, Base s t →
          Base s (if c.ordered then (t.setGroup q).conflicts g a b else t.setGroup q) := fun t q _ _ h => Base.ite ((h.trans (base_setGroup _ _)).trans (base_conflicts _ _ _ _)) (h.trans (base_setGroup _ _))
      have launch : ∀ (t : State) (o : Option Launch) (f : Launch → Launch), Base s t →
          Base s (match o with | none => t | some l => t.setLaunch (f l)) := by
        intro t o f h
        cases o
        · exact h
        · exact h.trans (base_setLaunch _ _)
      refine fin _ _ _ _ (launch _ _ _ ?_)
      refine Base.trans ?_ (Base.foldl _ (fun s k => base_poisonGran s _ k) _ _)
      have drains : ∀ t, Base s t → Base s (g.drains.foldl (fun s d => s.applyDrain g c d) t) :=
        fun t h => h.trans (Base.foldl _ (fun s d => base_applyDrain s g c d) _ _)
      have posts : ∀ t, Base s t → Base s (if final then (g.goodPosts c).foldl (fun s p =>
          s.writeMain (LRec.ofBits p.1) (LRec.ofBits p.1).red ((LRec.ofBits p.1).drainMap 0) g.window g.wpois p.2) t else t) :=
        fun t h => Base.ite (h.trans (Base.foldl _ (fun s p => base_writeMain s _ _ _ _ _ _) _ _)) h
      refine posts _ (drains _ (launch _ _ _ ?_))
      exact (h1 _ _).trans (Base.foldl _ (fun s d => base_dropLines s _ _ _) _ _)

end Sys2Proof.Machine
end

