-- ==== Sys2Proof/Laws/Lanes.lean ====
section
/-!
SUPPORT. What an element-wise lane-guarded instruction and a scalar instruction do, said once: the state they leave and what the
team reads afterwards.
-/
namespace Sys2Proof.Machine

/-! ### The executing team's context -/

theorem find_gid {gs : List Group} {k : Nat} {g : Group} (h : gs.find? (fun x => x.gid == k) = some g) : g.gid = k := by
  simpa using List.find?_some h

theorem find_id {ls : List Launch} {k : Nat} {l : Launch} (h : ls.find? (fun x => x.id == k) = some l) : l.id = k := by
  simpa using List.find?_some h

/-- What the context of the executing team is. -/
theorem ctx_spec {s : State} {x : Ctx} (h : s.ctx? = some x) :
    x.s = s ∧ s.group? x.g.gid = some x.g ∧ s.launch? x.l.id = some x.l ∧ s.cur.map Prod.fst = some x.g.gid ∧
    s.cur.bind (fun c => x.g.team? c.2) = some x.t ∧ x.l.id = x.g.launch ∧ s.image? x.l.image = some x.im ∧
    x.im.charts[x.g.chart]? = some x.c := by
  unfold State.ctx? at h
  split at h
  · cases h
  · split at h
    · cases h
    · rename_i gi ti hc _ g hg
      split at h
      · split at h
        · cases h
        · split at h
          · cases h
          · rename_i t l ht hl _ im him _ c hch
            cases h
            have h1 := find_gid hg
            have h2 := find_id hl
            refine ⟨rfl, h1.symm ▸ hg, h2.symm ▸ hl, ?_, ?_, h2, him, hch⟩
            · simp [hc, h1]
            · simpa [hc] using ht
      · cases h

/-- A meaning on the executing team. -/
theorem run_ctx {s : State} {x : Ctx} (h : s.ctx? = some x) (f : Ctx → Out) : s.run f = f x := by
  unfold State.run
  rw [h]

/-- A record written back in a list: found under its own key, every other key as before. -/
theorem find_map_key {α : Type} (key : α → Nat) (v : α) (j : Nat) (l : List α) :
    (l.map fun x => if key x == key v then v else x).find? (fun x => key x == j) =
      if j = key v then (if (l.find? fun x => key x == j).isSome then some v else none) else l.find? fun x => key x == j := by
  induction l with
  | nil => simp
  | cons a r ih =>
    rw [List.map_cons, List.find?_cons, List.find?_cons, ih]
    by_cases ha : key a = key v
    · by_cases hj : j = key v
      · simp [ha, hj]
      · have e : (key v == j) = false := by simpa using fun h => hj h.symm
        simp [ha, e, hj]
    · by_cases hj : j = key v
      · have e : (key a == key v) = false := by simpa using ha
        subst hj
        simp [e]
      · have e : (key a == key v) = false := by simpa using ha
        simp [e, hj]

theorem group_setGroup_same (s : State) (g : Group) (h : (s.group? g.gid).isSome) : (s.setGroup g).group? g.gid = some g := by
  unfold State.group? State.setGroup at *
  rw [find_map_key Group.gid g g.gid s.groups, if_pos rfl, if_pos h]

theorem group_setGroup_other (s : State) (g : Group) {j : Nat} (h : j ≠ g.gid) : (s.setGroup g).group? j = s.group? j := by
  unfold State.group? State.setGroup at *
  rw [find_map_key Group.gid g j s.groups, if_neg h]

/-- A launch written back as it stands: every launch reads as before. -/
theorem launch_setLaunch_same (s : State) (l : Launch) (h : s.launch? l.id = some l) (j : Nat) :
    (s.setLaunch l).launch? j = s.launch? j := by
  unfold State.launch? State.setLaunch at *
  rw [find_map_key Launch.id l j s.launches]
  split
  · rename_i e
    rw [e, h]
    rfl
  · rfl

/-- What is left when only the team, its group's record and its slot's issue have changed. -/
theorem only_save {s : State} {x y : Ctx} (h : s.ctx? = some x) (hl : y.l = x.l) (hg : y.g.gid = x.g.gid) (n : Nat)
    (hs : y.s = x.s.setSlot x.slot { x.s.slotOf x.slot with nextFree := n, last := (x.s.slotOf x.slot).last.set x.tier x.t.pos }) : x.Only y.save y.g y.t := by
  obtain ⟨e, eg, el, -⟩ := ctx_spec h
  subst e
  have base : y.save = (((x.s.setSlot x.slot { x.s.slotOf x.slot with nextFree := n, last := (x.s.slotOf x.slot).last.set x.tier x.t.pos }).setGroup
      (y.g.setTeam y.t)).setLaunch x.l) := by
    unfold Ctx.save
    rw [hl, hs]
  rw [base]
  have gg : (y.g.setTeam y.t).gid = x.g.gid := hg
  refine ⟨rfl, ?_, ?_, ?_, ?_, ?_⟩
  · show State.group? _ x.g.gid = _
    rw [← gg]
    exact group_setGroup_same (x.s.setSlot x.slot _) (y.g.setTeam y.t) (by rw [gg]; show (State.group? x.s _).isSome = true; rw [eg]; rfl)
  · intro k hk
    exact group_setGroup_other (x.s.setSlot x.slot _) (y.g.setTeam y.t) (by rw [gg]; exact hk)
  · intro k
    exact launch_setLaunch_same ((x.s.setSlot x.slot _).setGroup _) x.l el k
  · have e1 : ∀ v : Slot, State.slotOf (((x.s.setSlot x.slot v).setGroup (y.g.setTeam y.t)).setLaunch x.l) x.slot = v := fun v =>
      Store.get_put_same _ _ _ _
    rw [e1]
  · intro k hk
    exact Store.get_put_other _ _ _ _ _ hk

/-! ### Results read back -/

/-- The lane, the number and the value of a vector register's write. -/
def pickV : RegWrite → Option (Nat × Nat × VReg)
  | .v l r y => some (l, r, y)
  | _ => none

/-- The lane, the number and the value of a predicate's write. -/
def pickP : RegWrite → Option (Nat × Nat × PReg)
  | .p l r y => some (l, r, y)
  | _ => none

/-- The number and the value of a scalar's write. -/
def pickS : RegWrite → Option (Nat × Nat × SReg)
  | .s r y => some (0, r, y)
  | _ => none

/-- One pending result looked at by a read. -/
def readStep {α : Type} (pick : RegWrite → Option (Nat × Nat × α)) (cyc lane r : Nat) (acc : α) (e : Pending) : α :=
  match pick e.w with
  | some (l, r', y) => if l = lane ∧ r' = r ∧ e.ready ≤ cyc then y else acc
  | none => acc

/-- One pending result looked at for its flags. -/
def flagStep (cyc : Nat) (acc : Word) (e : Pending) : Word :=
  match e.w with
  | .flags f => if e.ready ≤ cyc then acc ||| f else acc
  | _ => acc

/-- The newest of the writes of a register in a list. -/
def newest {α : Type} (pick : RegWrite → Option (Nat × Nat × α)) (ws : List RegWrite) (r : Nat) : Option α :=
  ws.foldl (fun m w => match pick w with
    | some (_, r', y) => if r' = r then some y else m
    | none => m) none

theorem readV_eq (t : Team) (cyc lane r : Nat) : t.readV cyc lane r = t.pend.foldl (readStep pickV cyc lane r) (t.fileV lane r) := by
  unfold Team.readV
  congr 1
  funext acc e
  unfold readStep
  cases e.w <;> rfl

theorem readP_eq (t : Team) (cyc lane r : Nat) (h : r < 48) :
    t.readP cyc lane r = t.pend.foldl (readStep pickP cyc lane r) (t.fileP lane r) := by
  unfold Team.readP
  rw [if_neg (by omega)]
  congr 1
  funext acc e
  unfold readStep
  cases e.w <;> rfl

theorem readS_eq (t : Team) (cyc r : Nat) : t.readS cyc r = t.pend.foldl (readStep pickS cyc 0 r) (t.fileS r) := by
  unfold Team.readS
  congr 1
  funext acc e
  unfold readStep
  cases e.w <;> simp [pickS]

theorem flagsAt_eq (t : Team) (cyc : Nat) : t.flagsAt cyc = t.pend.foldl (flagStep cyc) t.flags := rfl

/-- A write of a vector register or a predicate of one lane, one that is kept. -/
def RegWrite.ofLane (l : Nat) : RegWrite → Prop
  | .v l' _ _ => l' = l
  | .p l' r _ => l' = l ∧ r < 48
  | _ => False

/-- What picks the writes of one kind of lane register: the lane is the write's own, the cycle that of the lane's pass. -/
structure LanePick {α : Type} (pick : RegWrite → Option (Nat × Nat × α)) : Prop where
  own : ∀ w l, w.ofLane l → ∀ l' r y, pick w = some (l', r, y) → l' = l
  w : ∀ (x : Ctx) lat w, (x.pendOf lat w).w = w

theorem pendOf_w (x : Ctx) (lat : Nat) (w : RegWrite) : (x.pendOf lat w).w = w := by cases w <;> rfl

theorem pendOf_ready (x : Ctx) (lat : Nat) (w : RegWrite) (l : Nat) (h : w.ofLane l) : (x.pendOf lat w).ready = x.at_ l + lat := by
  cases w with
  | v l' r y => cases h; rfl
  | p l' r y => cases h.1; rfl
  | s r y => exact h.elim
  | flags f => exact h.elim

theorem kept_ofLane (w : RegWrite) (l : Nat) (h : w.ofLane l) : w.kept = true := by
  cases w with
  | v l' r y => rfl
  | p l' r y => exact decide_eq_true h.2
  | s r y => exact h.elim
  | flags f => exact h.elim

theorem pickV_own : ∀ w l, RegWrite.ofLane l w → ∀ l' r y, pickV w = some (l', r, y) → l' = l := by
  intro w l h l' r y e
  cases w <;> simp_all [pickV, RegWrite.ofLane]

theorem pickP_own : ∀ w l, RegWrite.ofLane l w → ∀ l' r y, pickP w = some (l', r, y) → l' = l := by
  intro w l h l' r y e
  cases w <;> simp_all [pickP, RegWrite.ofLane]

section
variable {α : Type} {pick : RegWrite → Option (Nat × Nat × α)} (own : ∀ w l, RegWrite.ofLane l w → ∀ l' r y, pick w = some (l', r, y) → l' = l)
  (x : Ctx) (lat cyc r : Nat)
include own

/-- The writes of one lane, read in another. -/
theorem foldl_other_lane {l l0 : Nat} (h : l0 ≠ l) (ws : List RegWrite) (hw : ∀ w ∈ ws, w.ofLane l0) (acc : α) :
    (ws.map (x.pendOf lat)).foldl (readStep pick cyc l r) acc = acc := by
  induction ws generalizing acc with
  | nil => rfl
  | cons w q ih =>
    rw [List.map_cons, List.foldl_cons, ih (fun w h => hw w (List.mem_cons_of_mem _ h))]
    unfold readStep
    rw [pendOf_w]
    split
    · rename_i l' r' y e
      rw [if_neg fun c => h ((own w l0 (hw w (List.mem_cons_self ..)) _ _ _ e).symm.trans c.1)]
    · rfl

/-- The writes of one lane, read in it: the newest, once the lane's pass has it ready. -/
theorem foldl_same_lane (l : Nat) (ws : List RegWrite) (hw : ∀ w ∈ ws, w.ofLane l) (acc : α) :
    (ws.map (x.pendOf lat)).foldl (readStep pick cyc l r) acc =
      match newest pick ws r with
      | some y => if x.at_ l + lat ≤ cyc then y else acc
      | none => acc := by
  have key : ∀ (ws : List RegWrite) (m : Option α) (acc0 acc : α), (∀ w ∈ ws, w.ofLane l) →
      acc = (match m with
        | some y => if x.at_ l + lat ≤ cyc then y else acc0
        | none => acc0) →
      (ws.map (x.pendOf lat)).foldl (readStep pick cyc l r) acc =
        match ws.foldl (fun m w => match pick w with
          | some (_, r', y) => if r' = r then some y else m
          | none => m) m with
        | some y => if x.at_ l + lat ≤ cyc then y else acc0
        | none => acc0 := by
    intro ws
    induction ws with
    | nil => intro m acc0 acc _ h; exact h
    | cons w q ih =>
      intro m acc0 acc hw h
      rw [List.map_cons, List.foldl_cons, List.foldl_cons]
      refine ih _ acc0 _ (fun w h => hw w (List.mem_cons_of_mem _ h)) ?_
      have h0 := hw w (List.mem_cons_self ..)
      unfold readStep
      rw [pendOf_w, pendOf_ready x lat w l h0]
      cases e : pick w with
      | none => exact h
      | some t =>
        obtain ⟨l', r', y⟩ := t
        have el := own w l h0 _ _ _ e
        subst el
        by_cases hr : r' = r
        · by_cases hc : x.at_ l' + lat ≤ cyc
          · simp [hr, hc]
          · cases m <;> simp_all
        · cases m <;> simp_all
  exact key ws none acc acc hw rfl

/-- The writes of many lanes: a lane of the list reads its own newest, any other lane as before. -/
theorem foldl_lanes (ls : List Nat) (nd : ls.Nodup) (g : Nat → List RegWrite) (hg : ∀ l ∈ ls, ∀ w ∈ g l, w.ofLane l) (l : Nat) (acc : α) :
    ((ls.flatMap g).map (x.pendOf lat)).foldl (readStep pick cyc l r) acc =
      match (if l ∈ ls then newest pick (g l) r else none) with
      | some y => if x.at_ l + lat ≤ cyc then y else acc
      | none => acc := by
  induction ls generalizing acc with
  | nil => rfl
  | cons k q ih =>
    rw [List.flatMap_cons, List.map_append, List.foldl_append]
    have hq := ih (List.nodup_cons.1 nd).2 (fun l h => hg l (List.mem_cons_of_mem _ h))
    rw [hq]
    by_cases hk : k = l
    · subst hk
      have hn : k ∉ q := (List.nodup_cons.1 nd).1
      rw [if_neg hn, if_pos (List.mem_cons_self ..)]
      exact foldl_same_lane own x lat cyc r k (g k) (hg k (List.mem_cons_self ..)) acc
    · rw [foldl_other_lane own x lat cyc r hk (g k) (hg k (List.mem_cons_self ..)) acc]
      have e : (l ∈ k :: q) = (l ∈ q) := by
        simp only [List.mem_cons, eq_iff_iff, or_iff_right_iff_imp]
        exact fun h => absurd h.symm hk
      simp only [e]

end

/-- The writes of a lane-guarded instruction, of one lane's registers only. -/
def RegWrite.inLane (l : Nat) : RegWrite → Prop
  | .v l' _ _ => l' = l
  | .p l' _ _ => l' = l
  | _ => False

theorem inLane_kept {w : RegWrite} {l : Nat} (h : w.inLane l) (k : w.kept = true) : w.ofLane l := by
  cases w with
  | v l' r y => exact h
  | p l' r y => exact ⟨h, of_decide_eq_true k⟩
  | s r y => exact h.elim
  | flags f => exact h.elim

/-- The flags of lanes among the pending results. -/
def Ctx.flagPend (x : Ctx) (lat : Nat) (fs : List (Nat × Word)) : List Pending :=
  (fs.filter fun f => f.2 != 0#32).map fun f => { ready := x.at_ f.1 + lat, w := .flags f.2 }

theorem flagPend_read {α : Type} (pick : RegWrite → Option (Nat × Nat × α)) (hp : ∀ f, pick (.flags f) = none) (x : Ctx) (lat cyc l r : Nat)
    (fs : List (Nat × Word)) (acc : α) : (x.flagPend lat fs).foldl (readStep pick cyc l r) acc = acc := by
  unfold Ctx.flagPend
  induction (fs.filter fun f => f.2 != 0#32) generalizing acc with
  | nil => rfl
  | cons f q ih =>
    rw [List.map_cons, List.foldl_cons, ih]
    simp [readStep, hp]

theorem flagPend_flags (x : Ctx) (lat cyc : Nat) (fs : List (Nat × Word)) (acc : Word) :
    (x.flagPend lat fs).foldl (flagStep cyc) acc =
      (fs.map fun f => (x.at_ f.1 + lat, f.2)).foldl (fun m e => if e.1 ≤ cyc then m ||| e.2 else m) acc := by
  unfold Ctx.flagPend
  induction fs generalizing acc with
  | nil => rfl
  | cons f q ih =>
    rw [List.filter_cons]
    by_cases hz : f.2 = 0#32
    · rw [if_neg (by simp [hz]), ih]
      simp [hz]
    · rw [if_pos (by simp [hz]), List.map_cons, List.foldl_cons, ih, List.map_cons, List.foldl_cons]
      rfl

theorem lanePend_flags (x : Ctx) (lat cyc : Nat) (ws : List RegWrite) (hw : ∀ w ∈ ws, ∃ l, w.ofLane l) (acc : Word) :
    (ws.map (x.pendOf lat)).foldl (flagStep cyc) acc = acc := by
  induction ws generalizing acc with
  | nil => rfl
  | cons w q ih =>
    rw [List.map_cons, List.foldl_cons, ih (fun w h => hw w (List.mem_cons_of_mem _ h))]
    obtain ⟨l, h⟩ := hw w (List.mem_cons_self ..)
    cases w with
    | v l' r y => rfl
    | p l' r y => rfl
    | s r y => exact h.elim
    | flags f => exact h.elim

theorem lanePend_scalar (x : Ctx) (lat cyc r : Nat) (ws : List RegWrite) (hw : ∀ w ∈ ws, ∃ l, w.ofLane l) (acc : SReg) :
    (ws.map (x.pendOf lat)).foldl (readStep pickS cyc 0 r) acc = acc := by
  induction ws generalizing acc with
  | nil => rfl
  | cons w q ih =>
    rw [List.map_cons, List.foldl_cons, ih (fun w h => hw w (List.mem_cons_of_mem _ h))]
    obtain ⟨l, h⟩ := hw w (List.mem_cons_self ..)
    cases w with
    | v l' r y => rfl
    | p l' r y => rfl
    | s r y => exact h.elim
    | flags f => exact h.elim

theorem lanes_nodup (x : Ctx) : x.lanes.Nodup := List.nodup_range.sublist List.filter_sublist

theorem sel_nodup (x : Ctx) (h : Head) : (x.sel h).Nodup := (lanes_nodup x).sublist List.filter_sublist

theorem mem_sel {x : Ctx} {h : Head} (hg : x.Guarded h) (l : Nat) : l ∈ x.sel h ↔ x.On h l = true := by
  unfold Ctx.sel Ctx.On
  constructor
  · intro m
    obtain ⟨a, b⟩ := List.mem_filter.1 m
    simp only [Bool.and_eq_true] at b ⊢
    exact ⟨by simpa using a, b.2⟩
  · intro m
    simp only [Bool.and_eq_true] at m
    have a : l ∈ x.lanes := by simpa using m.1
    refine List.mem_filter.2 ⟨a, ?_⟩
    have := hg l a
    simp [this, m.2]

theorem guardFaults_nil {x : Ctx} {h : Head} (hg : x.Guarded h) : x.guardFaults h = [] := by
  unfold Ctx.guardFaults
  rw [List.map_eq_nil_iff, List.filter_eq_nil_iff]
  intro l m
  simp [hg l m]

/-- An element-wise lane-guarded instruction completes. -/
theorem each_done {x : Ctx} (hx : x.s.ctx? = some x) {h : Head} (hg : x.Guarded h) (size lat : Nat) (f : Nat → LaneResult)
    (hf : ∀ l, ∀ w ∈ (f l).1, w.inLane l) :
    ∃ t u, x.each h size lat f = .next t ∧ x.Only t (x.measured (x.sel h).length) u ∧
      u = x.passed x.passes h.stall.toNat (x.t.pc + dwordOf size) u.pend ∧
      Reads x.t u
        (fun l r => if x.On h l then (newest pickV ((f l).1.filter RegWrite.kept) r).map fun y => (x.at_ l + lat, y) else none)
        (fun l r => if x.On h l then (newest pickP ((f l).1.filter RegWrite.kept) r).map fun y => (x.at_ l + lat, y) else none)
        (fun _ => none)
        ((x.sel h).map fun l => (x.at_ l + lat, (f l).2)) := by
  let g : Nat → List RegWrite := fun l => (f l).1.filter RegWrite.kept
  let pend := x.t.pend ++ ((x.sel h).flatMap g).map (x.pendOf lat) ++ x.flagPend lat ((x.sel h).map fun l => (l, (f l).2))
  let u := x.passed x.passes h.stall.toNat (x.t.pc + dwordOf size) pend
  let y : Ctx :=
    { x with
      s := x.s.setSlot x.slot { x.s.slotOf x.slot with nextFree := x.t.t0 + x.passes, last := (x.s.slotOf x.slot).last.set x.tier x.t.pos }
      g := x.measured (x.sel h).length
      t := u }
  have e : x.each h size lat f = .next y.save := by
    unfold Ctx.each Ctx.finish
    rw [guardFaults_nil hg]
    show Host.Outcome.next _ = Host.Outcome.next y.save
    congr 2
    show Ctx.mk _ _ _ _ _ _ = Ctx.mk _ _ _ _ _ _
    have ep : ((x.sel h).map fun l => (l, f l)).flatMap (fun r => r.2.1) = (x.sel h).flatMap fun l => (f l).1 := by
      rw [List.flatMap_map]
    have ef : (((x.sel h).map fun l => (l, f l)).map fun r : Nat × LaneResult => (r.1, r.2.2)) = (x.sel h).map fun l => (l, (f l).2) := by
      rw [List.map_map]
      rfl
    have eg : ((x.sel h).flatMap fun l => (f l).1).filter RegWrite.kept = (x.sel h).flatMap g := by
      rw [List.filter_flatMap]
    simp only [ep, ef]
    simp only [Ctx.emit, Ctx.emitFlags, eg]
    rfl
  have mg : ∀ l, ∀ w ∈ g l, w.ofLane l := by
    intro l w hw
    obtain ⟨a, b⟩ := List.mem_filter.1 hw
    exact inLane_kept (hf l w a) b
  have some : ∀ w ∈ (x.sel h).flatMap g, ∃ l, w.ofLane l := by
    intro w hw
    obtain ⟨l, _, b⟩ := List.mem_flatMap.1 hw
    exact ⟨l, mg l w b⟩
  have on : ∀ (α : Type) l (z : Option α), (if l ∈ x.sel h then z else none) = (if x.On h l then z else none) := by
    intro α l z
    by_cases hl : l ∈ x.sel h
    · rw [if_pos hl, if_pos ((mem_sel hg l).1 hl)]
    · rw [if_neg hl, if_neg (fun c => hl ((mem_sel hg l).2 c))]
  refine ⟨y.save, u, e, only_save hx rfl rfl _ rfl, rfl, ⟨?_, ?_, ?_, ?_⟩⟩
  · intro cyc l r
    rw [readV_eq, readV_eq]
    show (pend.foldl _ _) = _
    rw [List.foldl_append, List.foldl_append, flagPend_read pickV (fun _ => rfl),
      foldl_lanes pickV_own x lat cyc r (x.sel h) (sel_nodup x h) g (fun l _ => mg l) l, on]
    by_cases hl : x.On h l = true
    · simp only [hl, if_true]
      cases newest pickV (g l) r <;> rfl
    · simp only [hl]
      rfl
  · intro cyc l r hr
    rw [readP_eq _ _ _ _ hr, readP_eq _ _ _ _ hr]
    show (pend.foldl _ _) = _
    rw [List.foldl_append, List.foldl_append, flagPend_read pickP (fun _ => rfl),
      foldl_lanes pickP_own x lat cyc r (x.sel h) (sel_nodup x h) g (fun l _ => mg l) l, on]
    by_cases hl : x.On h l = true
    · simp only [hl, if_true]
      cases newest pickP (g l) r <;> rfl
    · simp only [hl]
      rfl
  · intro cyc r
    rw [readS_eq, readS_eq]
    show (pend.foldl _ _) = _
    rw [List.foldl_append, List.foldl_append, flagPend_read pickS (fun _ => rfl), lanePend_scalar x lat cyc r _ some]
    rfl
  · intro cyc
    rw [flagsAt_eq, flagsAt_eq]
    show (pend.foldl _ _) = _
    rw [List.foldl_append, List.foldl_append, flagPend_flags, lanePend_flags x lat cyc _ some, List.map_map]
    rfl

/-- Writes of lane registers that are all kept. -/
theorem kept_v (ws : List RegWrite) (h : ∀ w ∈ ws, ∃ l r y, w = .v l r y) : ws.filter RegWrite.kept = ws :=
  List.filter_eq_self.2 fun w m => by obtain ⟨l, r, y, e⟩ := h w m; subst e; rfl

theorem newest_one (l a r : Nat) (y : VReg) :
    newest pickV ([RegWrite.v l a y].filter RegWrite.kept) r = if a = r then some y else none := rfl

theorem newest_two (l a b r : Nat) (y z : VReg) :
    newest pickV ([RegWrite.v l a y, .v l b z].filter RegWrite.kept) r =
      if b = r then some z else if a = r then some y else none := rfl

theorem oneV_newest (l : Nat) (d : BitVec 8) (y : VReg) (r : Nat) :
    newest pickV ([RegWrite.v l d.toNat y].filter RegWrite.kept) r = oneV d y r := by
  rw [newest_one]
  simp only [oneV, eq_comm]

theorem intWrites_newest (l : Nat) (wide : Bool) (d : BitVec 8) (v : DWord) (poi : Bool) (r : Nat) :
    newest pickV ((Ctx.intWrites l wide d v poi).filter RegWrite.kept) r =
      (if wide then pairV d { val := v, poi := poi } else oneV d { val := v.setWidth 32, poi := poi }) r := by
  cases wide
  · exact oneV_newest l d _ r
  · refine (newest_two l d.toNat (d.toNat + 1) r _ _).trans ?_
    simp only [pairV, if_true]
    by_cases h : r = d.toNat
    · subst h
      simp
    · by_cases k : r = d.toNat + 1
      · subst k
        simp
      · rw [if_neg (Ne.symm k), if_neg (Ne.symm h), if_neg h, if_neg k]

theorem intWrites_noP (l : Nat) (wide : Bool) (d : BitVec 8) (v : DWord) (poi : Bool) (r : Nat) :
    newest pickP ((Ctx.intWrites l wide d v poi).filter RegWrite.kept) r = none := by
  cases wide <;> rfl

theorem intWrites_lane (l : Nat) (wide : Bool) (d : BitVec 8) (v : DWord) (poi : Bool) :
    ∀ w ∈ Ctx.intWrites l wide d v poi, w.inLane l := by
  cases wide <;> simp [Ctx.intWrites, RegWrite.inLane]

theorem newest_p (l a r : Nat) (y : PReg) :
    newest pickP ([RegWrite.p l a y].filter RegWrite.kept) r = if a < 48 ∧ a = r then some y else none := by
  by_cases k : a < 48
  · have e : RegWrite.kept (.p l a y) = true := decide_eq_true k
    rw [List.filter_cons, if_pos e]
    show (if a = r then some y else none) = _
    simp [k]
  · have e : ¬ RegWrite.kept (.p l a y) = true := fun c => k (of_decide_eq_true c)
    rw [List.filter_cons, if_neg e]
    simp [k]
    rfl

theorem oneP_newest (l : Nat) (d : BitVec 8) (y : PReg) (r : Nat) :
    newest pickP ([RegWrite.p l d.toNat y].filter RegWrite.kept) r = oneP d y r := by
  rw [newest_p]
  unfold oneP
  by_cases h : r = d.toNat
  · subst h
    simp
  · rw [if_neg fun e => h e.2.symm, if_neg fun e => h e.1]

/-- From what an instruction does in each lane to what it leaves. -/
theorem lane_done {i : Instr} {x : Ctx} (hx : x.s.ctx? = some x) {h : Head} (hg : x.Guarded h) {size lat : Nat} (f : Nat → LaneResult)
    (hf : ∀ l, ∀ w ∈ (f l).1, w.inLane l) (hi : exec i x.s = x.each h size lat f) {v : Nat → Nat → Option VReg}
    {p : Nat → Nat → Option PReg} {fl : Nat → Word} (hv : ∀ l r, v l r = newest pickV ((f l).1.filter RegWrite.kept) r)
    (hp : ∀ l r, p l r = newest pickP ((f l).1.filter RegWrite.kept) r) (hfl : ∀ l, fl l = (f l).2) :
    LaneDone i x h size lat v p fl := by
  obtain ⟨t, u, a, b, c, d⟩ := each_done hx hg size lat f hf
  refine ⟨t, u, hi.trans a, b, c, ?_⟩
  simp only [hv, hp, hfl, List.map_map]
  exact d

/-! ### The shapes of lane-guarded instructions -/

theorem int_bin {i : Instr} {x : Ctx} {o : VInt} {size lat : Nat} {sat : Bool} {f : DWord → DWord → Int} (hx : x.s.ctx? = some x) (hg : x.Guarded o.h)
    (hi : exec i x.s = x.each o.h size lat (x.intBin o sat f)) :
    IntDone i x o size lat sat (fun l => f (x.vAt l o.ty.wide o.a).val (x.bAt l o.ty.wide o.b).val)
      (fun l => (x.vAt l o.ty.wide o.a).poi || (x.bAt l o.ty.wide o.b).poi) fun _ => 0#32 :=
  lane_done hx hg _ (fun _ => intWrites_lane _ _ _ _ _) hi (fun _ _ => (intWrites_newest _ _ _ _ _ _).symm)
    (fun _ _ => (intWrites_noP _ _ _ _ _ _).symm) (fun _ => rfl)

theorem int_un {i : Instr} {x : Ctx} {o : VInt} {size lat : Nat} {f : DWord → Int} (hx : x.s.ctx? = some x) (hg : x.Guarded o.h)
    (hi : exec i x.s = x.each o.h size lat (x.intUn o f)) :
    IntDone i x o size lat o.sat (fun l => f (x.vAt l o.ty.wide o.a).val)
      (fun l => (x.vAt l o.ty.wide o.a).poi) fun _ => 0#32 :=
  lane_done hx hg _ (fun _ => intWrites_lane _ _ _ _ _) hi (fun _ _ => (intWrites_newest _ _ _ _ _ _).symm)
    (fun _ _ => (intWrites_noP _ _ _ _ _ _).symm) (fun _ => rfl)

theorem int_tern {i : Instr} {x : Ctx} {o : VInt} {size lat : Nat} {f : DWord → DWord → DWord → Int × Word} (hx : x.s.ctx? = some x) (hg : x.Guarded o.h)
    (hi : exec i x.s = x.each o.h size lat (x.intTern o f)) :
    IntDone i x o size lat o.sat (fun l => (f (x.vAt l o.ty.wide o.a).val (x.bAt l o.ty.wide o.b).val (x.vAt l o.ty.wide o.c).val).1)
      (fun l => (x.vAt l o.ty.wide o.a).poi || (x.bAt l o.ty.wide o.b).poi || (x.vAt l o.ty.wide o.c).poi)
      fun l => (f (x.vAt l o.ty.wide o.a).val (x.bAt l o.ty.wide o.b).val (x.vAt l o.ty.wide o.c).val).2 :=
  lane_done hx hg _ (fun _ => intWrites_lane _ _ _ _ _) hi (fun _ _ => (intWrites_newest _ _ _ _ _ _).symm)
    (fun _ _ => (intWrites_noP _ _ _ _ _ _).symm) (fun _ => rfl)

theorem int_shift {i : Instr} {x : Ctx} {o : VInt} {size lat : Nat} {f : DWord → Nat → Int} (hx : x.s.ctx? = some x) (hg : x.Guarded o.h)
    (hi : exec i x.s = x.each o.h size lat (x.intShift o f)) :
    IntDone i x o size lat o.sat (fun l => f (x.vAt l o.ty.wide o.a).val (x.b32 l o.b).val.toNat)
      (fun l => (x.vAt l o.ty.wide o.a).poi || (x.b32 l o.b).poi) fun _ => 0#32 :=
  lane_done hx hg _ (fun _ => intWrites_lane _ _ _ _ _) hi (fun _ _ => (intWrites_newest _ _ _ _ _ _).symm)
    (fun _ _ => (intWrites_noP _ _ _ _ _ _).symm) (fun _ => rfl)


/-- An instruction that writes one vector register in each lane. -/
theorem lane_oneV {i : Instr} {x : Ctx} {h : Head} {size lat : Nat} {d : BitVec 8} {y : Nat → VReg} {fl : Nat → Word}
    (hx : x.s.ctx? = some x) (hg : x.Guarded h) (hi : exec i x.s = x.each h size lat fun l => ([.v l d.toNat (y l)], fl l)) :
    LaneDone i x h size lat (fun l => oneV d (y l)) noP fl :=
  lane_done hx hg _ (fun l w hw => by cases List.mem_singleton.1 hw; exact rfl) hi (fun l _ => (oneV_newest l _ _ _).symm)
    (fun _ _ => rfl) (fun _ => rfl)

/-- An instruction that writes one predicate in each lane. -/
theorem lane_oneP {i : Instr} {x : Ctx} {h : Head} {size lat : Nat} {d : BitVec 8} {y : Nat → PReg} {fl : Nat → Word}
    (hx : x.s.ctx? = some x) (hg : x.Guarded h) (hi : exec i x.s = x.each h size lat fun l => ([.p l d.toNat (y l)], fl l)) :
    LaneDone i x h size lat noV (fun l => oneP d (y l)) fl := by
  refine lane_done hx hg _ (fun l w hw => by cases List.mem_singleton.1 hw; exact rfl) hi (fun l r => ?_)
    (fun l _ => (oneP_newest l _ _ _).symm) (fun _ => rfl)
  by_cases k : d.toNat < 48
  · simp [RegWrite.kept, k]
    rfl
  · simp [RegWrite.kept, k]
    rfl

theorem runWrites_lane (l : Nat) (d : BitVec 8) (poi : Bool) (ws : List Word) : ∀ w ∈ Ctx.runWrites l d poi ws, w.inLane l := by
  intro w hw
  obtain ⟨j, _, e⟩ := List.mem_map.1 hw
  subst e
  exact rfl

theorem runWrites_newest (l : Nat) (d : BitVec 8) (poi : Bool) (ws : List Word) (r : Nat) :
    newest pickV ((Ctx.runWrites l d poi ws).filter RegWrite.kept) r = runV d poi ws r := by
  rw [kept_v _ fun w hw => by obtain ⟨j, _, e⟩ := List.mem_map.1 hw; exact ⟨_, _, _, e.symm⟩]
  have key : ∀ n, n ≤ ws.length → newest pickV ((List.range n).map fun j =>
      (.v l (d.toNat + j) { val := (ws[j]?).getD 0#32, poi := poi } : RegWrite)) r =
      if d.toNat ≤ r ∧ r - d.toNat < n then (ws[r - d.toNat]?).map fun w => { val := w, poi := poi } else none := by
    intro n hn
    induction n with
    | zero => simp; rfl
    | succ n ih =>
      rw [List.range_succ, List.map_append]
      unfold newest at ih ⊢
      rw [List.foldl_append, ih (by omega)]
      show (if d.toNat + n = r then some _ else _) = _
      by_cases h : d.toNat + n = r
      · subst h
        have e : d.toNat + n - d.toNat = n := by omega
        rw [if_pos rfl, e, if_pos ⟨by omega, by omega⟩, List.getElem?_eq_getElem (by omega)]
        rfl
      · rw [if_neg h]
        by_cases k : d.toNat ≤ r ∧ r - d.toNat < n
        · rw [if_pos k, if_pos ⟨k.1, by omega⟩]
        · rw [if_neg k, if_neg (by omega)]
  unfold Ctx.runWrites runV
  rw [key _ (Nat.le_refl _)]
  by_cases h : d.toNat ≤ r
  · by_cases k : r - d.toNat < ws.length
    · rw [if_pos ⟨h, k⟩, if_pos h]
    · rw [if_neg (fun c => k c.2), if_pos h, List.getElem?_eq_none (by omega)]
      rfl
  · rw [if_neg (fun c => h c.1), if_neg h]

theorem runWrites_noP (l : Nat) (d : BitVec 8) (poi : Bool) (ws : List Word) (r : Nat) :
    newest pickP ((Ctx.runWrites l d poi ws).filter RegWrite.kept) r = none := by
  unfold Ctx.runWrites
  generalize List.range ws.length = is
  unfold newest
  induction is with
  | nil => rfl
  | cons j q ih => exact ih

/-- An instruction that writes a run of vector registers in each lane. -/
theorem lane_run {i : Instr} {x : Ctx} {h : Head} {size lat : Nat} {d : BitVec 8} {poi : Nat → Bool} {ws : Nat → List Word}
    {fl : Nat → Word} (hx : x.s.ctx? = some x) (hg : x.Guarded h)
    (hi : exec i x.s = x.each h size lat fun l => (Ctx.runWrites l d (poi l) (ws l), fl l)) :
    LaneDone i x h size lat (fun l => runV d (poi l) (ws l)) noP fl :=
  lane_done hx hg _ (fun l => runWrites_lane l _ _ _) hi (fun l _ => (runWrites_newest l _ _ _ _).symm)
    (fun l _ => (runWrites_noP l _ _ _ _).symm) (fun _ => rfl)

end Sys2Proof.Machine
end

