-- ==== Sys2Proof/Laws/PerInstr.lean ====
section
/-!
SUPPORT. What holds of every instruction as syntax, constructor by constructor: an instruction of sixteen bytes is one whose FORM
says so (02 R33).
-/
namespace Sys2Proof.Laws

/-- FORM of a word (02 R24). -/
def formOf (w : DWord) : BitVec 2 := w.extractLsb' 48 2

/-- FORM is 01 or 10 where the instruction has a second word, and 00 where it has none, the raw word of an unassigned opcode apart
(02 R33). -/
def Form.Statement (i : Instr) : Prop :=
  ∀ w, i.wf = true → encode i = some w →
    (w.2.isSome = true → formOf w.1 = 1#2 ∨ formOf w.1 = 2#2) ∧ (w.2 = none → formOf w.1 = 0#2 ∨ ∃ v, i = .unassignedOpcode v)

theorem pack_form (r : Raw) : formOf r.pack = r.form := by
  obtain ⟨opc, stall, form, neg, pred, dst, a, b, c, kind, mod⟩ := r
  apply BitVec.eq_of_getLsbD_eq
  intro i hi
  have h : i = 0 ∨ i = 1 := by omega
  have e : ∀ j, j < 2 → (formOf (Raw.pack ⟨opc, stall, form, neg, pred, dst, a, b, c, kind, mod⟩)).getLsbD j =
      BitVec.getLsbD (w := 10 + 4 + 2 + 1 + 6 + 8 + 8 + 8 + 8 + 2 + 7)
        (opc ++ stall ++ form ++ neg ++ pred ++ dst ++ a ++ b ++ c ++ kind ++ mod) (48 + j) := by
    intro j hj
    unfold formOf
    rw [BitVec.getLsbD_extractLsb']
    simp [hj]
    rfl
  rw [e i hi]
  rcases h with rfl | rfl <;> simp only [BitVec.getLsbD_append] <;> rfl

theorem wordsOf_form (opc : BitVec 10) (h : Head) (dst a b c : BitVec 8) (kind : BitVec 2) (mod : BitVec 7) (ext : Option DWord) :
    formOf (wordsOf opc h dst a b c kind mod ext).1 = if ext.isSome = true then 1#2 else 0#2 := pack_form _

/-- An instruction whose words are made of fields. -/
theorem Form.of_words {i : Instr} {opc : BitVec 10} {h : Head} {dst a b c : BitVec 8} {kind : BitVec 2} {mod : BitVec 7}
    {ext : Option DWord} (e : encode i = some (wordsOf opc h dst a b c kind mod ext)) : Form.Statement i := by
  intro w _ hw
  cases e.symm.trans hw
  refine ⟨fun k => .inl ((wordsOf_form ..).trans (if_pos k)), fun k => .inl ((wordsOf_form ..).trans (if_neg ?_))⟩
  show ¬ ext.isSome = true
  have k' : ext = none := k
  rw [k']
  exact fun h => nomatch h

/-- A step of the device, or a command: it has no words. -/
theorem Form.of_none {i : Instr} (e : encode i = none) : Form.Statement i := fun _ _ hw => nomatch e.symm.trans hw

/-- One operation of a pair stands in a word of FORM 00. -/
theorem half_form (x : PairHalf) (h : x.wf = true) : formOf (encHalf x) = 0#2 := by
  have ext : ∀ b : SrcB, b.notImm32 = true → b.ext.isSome ≠ true := by
    intro b hb
    cases b <;> simp_all [SrcB.notImm32, SrcB.ext]
  have scl : ∀ b : SrcB, b.sclImm8 = true → b.ext.isSome ≠ true := by
    intro b hb
    cases b <;> simp_all [SrcB.sclImm8, SrcB.ext]
  cases x with
  | int op o =>
    simp only [PairHalf.wf, Bool.and_eq_true] at h
    exact (wordsOf_form ..).trans (if_neg (ext o.b h.1.2))
  | flt op o =>
    simp only [PairHalf.wf, Bool.and_eq_true] at h
    exact (wordsOf_form ..).trans (if_neg (ext o.b h.1.2))
  | smov o =>
    simp only [PairHalf.wf, Bool.and_eq_true] at h
    exact (wordsOf_form ..).trans (if_neg (ext o.b h.1))
  | vbcast o =>
    simp only [PairHalf.wf, Bool.and_eq_true] at h
    exact (wordsOf_form ..).trans (if_neg (scl o.b h.2))

theorem setPaired_form (w : DWord) (h : formOf w = 0#2) : formOf (setPaired w) = 2#2 := by
  have e : formOf (setPaired w) = formOf w ||| 2#2 := by
    apply BitVec.eq_of_getLsbD_eq
    intro i hi
    have k : i = 0 ∨ i = 1 := by omega
    unfold formOf setPaired
    rcases k with rfl | rfl <;> simp
  rw [e, h]
  rfl

theorem Form.iadd (o : VInt) : Form.Statement (.iadd o) := Form.of_words rfl
theorem Form.isub (o : VInt) : Form.Statement (.isub o) := Form.of_words rfl
theorem Form.imul (o : VInt) : Form.Statement (.imul o) := Form.of_words rfl
theorem Form.imulh (o : VInt) : Form.Statement (.imulh o) := Form.of_words rfl
theorem Form.imad (o : VInt) : Form.Statement (.imad o) := Form.of_words rfl
theorem Form.iadd64 (o : VInt) : Form.Statement (.iadd64 o) := Form.of_words rfl
theorem Form.isub64 (o : VInt) : Form.Statement (.isub64 o) := Form.of_words rfl
theorem Form.imin (o : VInt) : Form.Statement (.imin o) := Form.of_words rfl
theorem Form.imax (o : VInt) : Form.Statement (.imax o) := Form.of_words rfl
theorem Form.iabs (o : VInt) : Form.Statement (.iabs o) := Form.of_words rfl
theorem Form.ineg (o : VInt) : Form.Statement (.ineg o) := Form.of_words rfl
theorem Form.iaddsat (o : VInt) : Form.Statement (.iaddsat o) := Form.of_words rfl
theorem Form.isubsat (o : VInt) : Form.Statement (.isubsat o) := Form.of_words rfl
theorem Form.and (o : VInt) : Form.Statement (.and o) := Form.of_words rfl
theorem Form.or (o : VInt) : Form.Statement (.or o) := Form.of_words rfl
theorem Form.xor (o : VInt) : Form.Statement (.xor o) := Form.of_words rfl
theorem Form.not (o : VInt) : Form.Statement (.not o) := Form.of_words rfl
theorem Form.andn (o : VInt) : Form.Statement (.andn o) := Form.of_words rfl
theorem Form.shl (o : VInt) : Form.Statement (.shl o) := Form.of_words rfl
theorem Form.shr (o : VInt) : Form.Statement (.shr o) := Form.of_words rfl
theorem Form.sar (o : VInt) : Form.Statement (.sar o) := Form.of_words rfl
theorem Form.rol (o : VInt) : Form.Statement (.rol o) := Form.of_words rfl
theorem Form.bfx (o : VInt) : Form.Statement (.bfx o) := Form.of_words rfl
theorem Form.bfi (o : VInt) : Form.Statement (.bfi o) := Form.of_words rfl
theorem Form.popc (o : VInt) : Form.Statement (.popc o) := Form.of_words rfl
theorem Form.clz (o : VInt) : Form.Statement (.clz o) := Form.of_words rfl
theorem Form.ctz (o : VInt) : Form.Statement (.ctz o) := Form.of_words rfl
theorem Form.brev (o : VInt) : Form.Statement (.brev o) := Form.of_words rfl
theorem Form.sel (o : VInt) : Form.Statement (.sel o) := Form.of_words rfl
theorem Form.icmp (o : VInt) : Form.Statement (.icmp o) := Form.of_words rfl
theorem Form.clamp (o : VInt) : Form.Statement (.clamp o) := Form.of_words rfl
theorem Form.idot4 (o : VInt) : Form.Statement (.idot4 o) := Form.of_words rfl
theorem Form.idot8 (o : VInt) : Form.Statement (.idot8 o) := Form.of_words rfl
theorem Form.srshr (o : VInt) : Form.Statement (.srshr o) := Form.of_words rfl
theorem Form.fadd (o : VFlt) : Form.Statement (.fadd o) := Form.of_words rfl
theorem Form.fsub (o : VFlt) : Form.Statement (.fsub o) := Form.of_words rfl
theorem Form.fmul (o : VFlt) : Form.Statement (.fmul o) := Form.of_words rfl
theorem Form.ffma (o : VFlt) : Form.Statement (.ffma o) := Form.of_words rfl
theorem Form.fmin (o : VFlt) : Form.Statement (.fmin o) := Form.of_words rfl
theorem Form.fmax (o : VFlt) : Form.Statement (.fmax o) := Form.of_words rfl
theorem Form.fabs (o : VFlt) : Form.Statement (.fabs o) := Form.of_words rfl
theorem Form.fneg (o : VFlt) : Form.Statement (.fneg o) := Form.of_words rfl
theorem Form.fcmp (o : VFlt) : Form.Statement (.fcmp o) := Form.of_words rfl
theorem Form.fclass (o : VFlt) : Form.Statement (.fclass o) := Form.of_words rfl
theorem Form.hadd2 (o : VFlt) : Form.Statement (.hadd2 o) := Form.of_words rfl
theorem Form.hmul2 (o : VFlt) : Form.Statement (.hmul2 o) := Form.of_words rfl
theorem Form.hfma2 (o : VFlt) : Form.Statement (.hfma2 o) := Form.of_words rfl
theorem Form.frcp (o : VFlt) : Form.Statement (.frcp o) := Form.of_words rfl
theorem Form.frsq (o : VFlt) : Form.Statement (.frsq o) := Form.of_words rfl
theorem Form.fsqrt (o : VFlt) : Form.Statement (.fsqrt o) := Form.of_words rfl
theorem Form.fexp2 (o : VFlt) : Form.Statement (.fexp2 o) := Form.of_words rfl
theorem Form.flog2 (o : VFlt) : Form.Statement (.flog2 o) := Form.of_words rfl
theorem Form.fsin (o : VFlt) : Form.Statement (.fsin o) := Form.of_words rfl
theorem Form.fcos (o : VFlt) : Form.Statement (.fcos o) := Form.of_words rfl
theorem Form.ftanh (o : VFlt) : Form.Statement (.ftanh o) := Form.of_words rfl
theorem Form.pchk (o : VFlt) : Form.Statement (.pchk o) := Form.of_words rfl
theorem Form.cvt (o : VCvt) : Form.Statement (.cvt o) := Form.of_words rfl
theorem Form.qpack4 (o : VCvt) : Form.Statement (.qpack4 o) := Form.of_words rfl
theorem Form.qunpack4 (o : VCvt) : Form.Statement (.qunpack4 o) := Form.of_words rfl
theorem Form.scalepick (o : VCvt) : Form.Statement (.scalepick o) := Form.of_words rfl
theorem Form.cvt8x4 (o : VCvt) : Form.Statement (.cvt8x4 o) := Form.of_words rfl
theorem Form.cvtq (o : VCvt) : Form.Statement (.cvtq o) := Form.of_words rfl
theorem Form.sadd (o : SOp) : Form.Statement (.sadd o) := Form.of_words rfl
theorem Form.ssub (o : SOp) : Form.Statement (.ssub o) := Form.of_words rfl
theorem Form.smul (o : SOp) : Form.Statement (.smul o) := Form.of_words rfl
theorem Form.smad (o : SOp) : Form.Statement (.smad o) := Form.of_words rfl
theorem Form.sand (o : SOp) : Form.Statement (.sand o) := Form.of_words rfl
theorem Form.sor (o : SOp) : Form.Statement (.sor o) := Form.of_words rfl
theorem Form.sxor (o : SOp) : Form.Statement (.sxor o) := Form.of_words rfl
theorem Form.sshl (o : SOp) : Form.Statement (.sshl o) := Form.of_words rfl
theorem Form.sshr (o : SOp) : Form.Statement (.sshr o) := Form.of_words rfl
theorem Form.ssar (o : SOp) : Form.Statement (.ssar o) := Form.of_words rfl
theorem Form.smin (o : SOp) : Form.Statement (.smin o) := Form.of_words rfl
theorem Form.smax (o : SOp) : Form.Statement (.smax o) := Form.of_words rfl
theorem Form.scmp (o : SOp) : Form.Statement (.scmp o) := Form.of_words rfl
theorem Form.smov (o : SOp) : Form.Statement (.smov o) := Form.of_words rfl
theorem Form.sli (stall : BitVec 4) (sub : BitVec 2) (d : BitVec 6) (imm : Word) : Form.Statement (.sli stall sub d imm) := Form.of_words rfl
theorem Form.sget (stall : BitVec 4) (d : BitVec 8) (sel : BitVec 8) : Form.Statement (.sget stall d sel) := Form.of_words rfl
theorem Form.sset (stall : BitVec 4) (sel : BitVec 8) (b : SrcB) : Form.Statement (.sset stall sel b) := Form.of_words rfl
theorem Form.vbcast (o : VBcast) : Form.Statement (.vbcast o) := Form.of_words rfl
theorem Form.vlane (stall : BitVec 4) (sx : Bool) (d : BitVec 6) (a : BitVec 8) (b : SrcB) : Form.Statement (.vlane stall sx d a b) := Form.of_words rfl
theorem Form.bra (stall : BitVec 4) (imm : Word) : Form.Statement (.bra stall imm) := Form.of_words rfl
theorem Form.brc (stall : BitVec 4) (cond : BrCond) (x : BitVec 6) (imm : Word) : Form.Statement (.brc stall cond x imm) := Form.of_words rfl
theorem Form.call (stall : BitVec 4) (imm : Word) : Form.Statement (.call stall imm) := Form.of_words rfl
theorem Form.ret (stall : BitVec 4) : Form.Statement (.ret stall) := Form.of_words rfl
theorem Form.exit (stall : BitVec 4) : Form.Statement (.exit stall) := Form.of_words rfl
theorem Form.nop (stall : BitVec 4) : Form.Statement (.nop stall) := Form.of_words rfl
theorem Form.ifOp (stall : BitVec 4) (c : Cond) (imm : Word) : Form.Statement (.ifOp stall c imm) := Form.of_words rfl
theorem Form.elseOp (stall : BitVec 4) (imm : Word) : Form.Statement (.elseOp stall imm) := Form.of_words rfl
theorem Form.endif (stall : BitVec 4) : Form.Statement (.endif stall) := Form.of_words rfl
theorem Form.loop (stall : BitVec 4) (imm : Word) : Form.Statement (.loop stall imm) := Form.of_words rfl
theorem Form.breakOp (stall : BitVec 4) (c : Cond) (imm : Word) : Form.Statement (.breakOp stall c imm) := Form.of_words rfl
theorem Form.cont (stall : BitVec 4) (c : Cond) (imm : Word) : Form.Statement (.cont stall c imm) := Form.of_words rfl
theorem Form.endloop (stall : BitVec 4) (c : Cond) (imm : Word) : Form.Statement (.endloop stall c imm) := Form.of_words rfl
theorem Form.yield (stall : BitVec 4) : Form.Statement (.yield stall) := Form.of_words rfl
theorem Form.shfl (o : XLane) : Form.Statement (.shfl o) := Form.of_words rfl
theorem Form.ballot (o : XLane) : Form.Statement (.ballot o) := Form.of_words rfl
theorem Form.vote (o : XLane) : Form.Statement (.vote o) := Form.of_words rfl
theorem Form.popm (o : XLane) : Form.Statement (.popm o) := Form.of_words rfl
theorem Form.scan (o : XLane) : Form.Statement (.scan o) := Form.of_words rfl
theorem Form.reduce (o : XLane) : Form.Statement (.reduce o) := Form.of_words rfl
theorem Form.matchOp (o : XLane) : Form.Statement (.matchOp o) := Form.of_words rfl
theorem Form.elect (o : XLane) : Form.Statement (.elect o) := Form.of_words rfl
theorem Form.lmask (o : XLane) : Form.Statement (.lmask o) := Form.of_words rfl
theorem Form.ldl (o : MemOp) : Form.Statement (.ldl o) := by
  obtain ⟨_, _, _, _, _, _, off, _⟩ := o
  cases off <;> exact Form.of_words rfl
theorem Form.stl (o : MemOp) : Form.Statement (.stl o) := by
  obtain ⟨_, _, _, _, _, _, off, _⟩ := o
  cases off <;> exact Form.of_words rfl
theorem Form.lds (o : MemOp) : Form.Statement (.lds o) := by
  obtain ⟨_, _, _, _, _, _, off, _⟩ := o
  cases off <;> exact Form.of_words rfl
theorem Form.sts (o : MemOp) : Form.Statement (.sts o) := by
  obtain ⟨_, _, _, _, _, _, off, _⟩ := o
  cases off <;> exact Form.of_words rfl
theorem Form.ldd (o : MemOp) : Form.Statement (.ldd o) := by
  obtain ⟨_, _, _, _, _, _, off, _⟩ := o
  cases off <;> exact Form.of_words rfl
theorem Form.std (o : MemOp) : Form.Statement (.std o) := by
  obtain ⟨_, _, _, _, _, _, off, _⟩ := o
  cases off <;> exact Form.of_words rfl
theorem Form.waitp (stall : BitVec 4) (path : Path) (b : SrcB) : Form.Statement (.waitp stall path b) := Form.of_words rfl
theorem Form.atom (o : AtomOp) : Form.Statement (.atom o) := Form.of_words rfl
theorem Form.atomf (o : AtomOp) : Form.Statement (.atomf o) := Form.of_words rfl
theorem Form.red (o : AtomOp) : Form.Statement (.red o) := Form.of_words rfl
theorem Form.redf (o : AtomOp) : Form.Statement (.redf o) := Form.of_words rfl
theorem Form.tcommit (stall : BitVec 4) : Form.Statement (.tcommit stall) := Form.of_words rfl
theorem Form.tcommitCk (stall : BitVec 4) (b : SrcB) : Form.Statement (.tcommitCk stall b) := Form.of_words rfl
theorem Form.tabort (stall : BitVec 4) : Form.Statement (.tabort stall) := Form.of_words rfl
theorem Form.gcommit (stall : BitVec 4) : Form.Statement (.gcommit stall) := Form.of_words rfl
theorem Form.gabort (stall : BitVec 4) : Form.Statement (.gabort stall) := Form.of_words rfl
theorem Form.fence (h : Head) (scope : Scope) : Form.Statement (.fence h scope) := Form.of_words rfl
theorem Form.xfence (stall : BitVec 4) (hdl : BitVec 5) : Form.Statement (.xfence stall hdl) := Form.of_words rfl
theorem Form.spawn (h : Head) (a t : BitVec 8) (node : BitVec 4) (len : BitVec 4) : Form.Statement (.spawn h a t node len) := Form.of_words rfl
theorem Form.gpark (stall : BitVec 4) (on : ParkOn) (live : BitVec 9) : Form.Statement (.gpark stall on live) := by
  cases on <;> exact Form.of_words rfl
theorem Form.bar (stall : BitVec 4) (b : BitVec 3) : Form.Statement (.bar stall b) := Form.of_words rfl
theorem Form.bara (stall : BitVec 4) (b : BitVec 3) : Form.Statement (.bara stall b) := Form.of_words rfl
theorem Form.barw (stall : BitVec 4) (b : BitVec 3) : Form.Statement (.barw stall b) := Form.of_words rfl
theorem Form.qpush (stall : BitVec 4) (q : BitVec 4) (b : SrcB) : Form.Statement (.qpush stall q b) := Form.of_words rfl
theorem Form.qpop (stall : BitVec 4) (d : BitVec 6) (q : BitVec 4) : Form.Statement (.qpop stall d q) := Form.of_words rfl
theorem Form.qtryPop (stall : BitVec 4) (d f : BitVec 6) (q : BitVec 4) : Form.Statement (.qtryPop stall d f q) := Form.of_words rfl
theorem Form.qtryPush (stall : BitVec 4) (f : BitVec 6) (q : BitVec 4) (b : SrcB) : Form.Statement (.qtryPush stall f q b) := Form.of_words rfl
theorem Form.cpin (stall : BitVec 4) (hdl : BitVec 5) (rec : BitVec 16) (b : SrcB) : Form.Statement (.cpin stall hdl rec b) := Form.of_words rfl
theorem Form.cpout (stall : BitVec 4) (rop : Rop) (hdl : BitVec 5) (rec : BitVec 16) (b : SrcB) : Form.Statement (.cpout stall rop hdl rec b) := Form.of_words rfl
theorem Form.gather (h : Head) (hdl : BitVec 5) (rec : BitVec 16) (v : BitVec 8) : Form.Statement (.gather h hdl rec v) := Form.of_words rfl
theorem Form.scatter (h : Head) (hdl : BitVec 5) (rec : BitVec 16) (v : BitVec 8) : Form.Statement (.scatter h hdl rec v) := Form.of_words rfl
theorem Form.hwait (stall : BitVec 4) (hdl : BitVec 5) (smask : BitVec 4) : Form.Statement (.hwait stall hdl smask) := Form.of_words rfl
theorem Form.hrel (stall : BitVec 4) (hdl : BitVec 5) : Form.Statement (.hrel stall hdl) := Form.of_words rfl
theorem Form.hstatSt (stall : BitVec 4) (d : BitVec 6) (hdl : BitVec 5) : Form.Statement (.hstatSt stall d hdl) := Form.of_words rfl
theorem Form.hstatTag (stall : BitVec 4) (d : BitVec 6) (hdl : BitVec 5) : Form.Statement (.hstatTag stall d hdl) := Form.of_words rfl
theorem Form.lrset (stall : BitVec 4) (sr : BitVec 6) (b : SrcB) : Form.Statement (.lrset stall sr b) := Form.of_words rfl
theorem Form.lfence (stall : BitVec 4) : Form.Statement (.lfence stall) := Form.of_words rfl
theorem Form.mma (o : MmaOp) : Form.Statement (.mma o) := by
  obtain ⟨_, _, _, _, b, _⟩ := o
  cases b <;> exact Form.of_words rfl
theorem Form.mmas (o : MmaOp) (vm : BitVec 8) (sm : BitVec 6) : Form.Statement (.mmas o vm sm) := by
  obtain ⟨_, _, _, _, b, _⟩ := o
  cases b <;> exact Form.of_words rfl
theorem Form.mzero (h : Head) (tile : BitVec 4) (anchor : Option (BitVec 8)) : Form.Statement (.mzero h tile anchor) := by
  cases anchor <;> exact Form.of_words rfl
theorem Form.mload (h : Head) (tile : BitVec 4) (vs : BitVec 8) (g : BitVec 2) (anchor : BitVec 8) : Form.Statement (.mload h tile vs g anchor) := Form.of_words rfl
theorem Form.mread (h : Head) (d : BitVec 8) (tile : BitVec 4) (cv : Cv) (g : BitVec 2) : Form.Statement (.mread h d tile cv g) := Form.of_words rfl
theorem Form.mstore (h : Head) (a : BitVec 8) (off : BitVec 8) (tile : BitVec 4) (cv : Cv) (g : BitVec 2) : Form.Statement (.mstore h a off tile cv g) := Form.of_words rfl
theorem Form.mburst (stall : BitVec 4) (b : SrcB) : Form.Statement (.mburst stall b) := Form.of_words rfl
theorem Form.mstepGet (stall : BitVec 4) (d : BitVec 6) : Form.Statement (.mstepGet stall d) := Form.of_words rfl
theorem Form.mstepSet (stall : BitVec 4) (b : SrcB) : Form.Statement (.mstepSet stall b) := Form.of_words rfl
theorem Form.trap (stall : BitVec 4) (n : BitVec 4) : Form.Statement (.trap stall n) := Form.of_words rfl
theorem Form.tretAfter (stall : BitVec 4) : Form.Statement (.tretAfter stall) := Form.of_words rfl
theorem Form.tretRetry (stall : BitVec 4) : Form.Statement (.tretRetry stall) := Form.of_words rfl
theorem Form.cycle (stall : BitVec 4) (d : BitVec 6) : Form.Statement (.cycle stall d) := Form.of_words rfl
theorem Form.chkset (stall : BitVec 4) (n : Bool) : Form.Statement (.chkset stall n) := Form.of_words rfl
theorem Form.vgrow (stall : BitVec 4) (b : SrcB) : Form.Statement (.vgrow stall b) := Form.of_words rfl
theorem Form.vshrink (stall : BitVec 4) (b : SrcB) : Form.Statement (.vshrink stall b) := Form.of_words rfl
theorem Form.featq (stall : BitVec 4) (d : BitVec 6) (b : SrcB) : Form.Statement (.featq stall d b) := Form.of_words rfl
theorem Form.bkpt (stall : BitVec 4) (n : BitVec 4) : Form.Statement (.bkpt stall n) := Form.of_words rfl
theorem Form.pairedIssue (x y : PairHalf) : Form.Statement (.pairedIssue x y) := by
  intro w hwf hw
  cases hw
  simp only [Instr.wf, Bool.and_eq_true] at hwf
  exact ⟨fun _ => .inr (setPaired_form _ (half_form x hwf.1.1)), fun h => nomatch h⟩
theorem Form.resultReady (g t : Nat) : Form.Statement (.resultReady g t) := Form.of_none rfl
theorem Form.loadReturn (g t : Nat) (path : Path) (lanes : LaneSet) : Form.Statement (.loadReturn g t path lanes) := Form.of_none rfl
theorem Form.atomicReturn (g t : Nat) : Form.Statement (.atomicReturn g t) := Form.of_none rfl
theorem Form.deferredTrapDelivery (g t : Nat) : Form.Statement (.deferredTrapDelivery g t) := Form.of_none rfl
theorem Form.deadlockDetect (g : Nat) : Form.Statement (.deadlockDetect g) := Form.of_none rfl
theorem Form.teamPromotion (g t : Nat) : Form.Statement (.teamPromotion g t) := Form.of_none rfl
theorem Form.yieldExpiry (g t : Nat) : Form.Statement (.yieldExpiry g t) := Form.of_none rfl
theorem Form.vgrowGrant (g t : Nat) : Form.Statement (.vgrowGrant g t) := Form.of_none rfl
theorem Form.bandForm (l : Nat) : Form.Statement (.bandForm l) := Form.of_none rfl
theorem Form.recut (l : Nat) : Form.Statement (.recut l) := Form.of_none rfl
theorem Form.sextantForward (l die : Nat) : Form.Statement (.sextantForward l die) := Form.of_none rfl
theorem Form.shareDraw (l die core : Nat) : Form.Statement (.shareDraw l die core) := Form.of_none rfl
theorem Form.localListReturn (l die core : Nat) : Form.Statement (.localListReturn l die core) := Form.of_none rfl
theorem Form.shareCountExchange (l die : Nat) : Form.Statement (.shareCountExchange l die) := Form.of_none rfl
theorem Form.stealRequest (l die : Nat) : Form.Statement (.stealRequest l die) := Form.of_none rfl
theorem Form.stealServe (l die : Nat) : Form.Statement (.stealServe l die) := Form.of_none rfl
theorem Form.stealReply (l die : Nat) : Form.Statement (.stealReply l die) := Form.of_none rfl
theorem Form.groupDispatch (die core : Nat) : Form.Statement (.groupDispatch die core) := Form.of_none rfl
theorem Form.preloadComplete (g : Nat) : Form.Statement (.preloadComplete g) := Form.of_none rfl
theorem Form.preloadFault (g : Nat) : Form.Statement (.preloadFault g) := Form.of_none rfl
theorem Form.postloadCheckDone (g : Nat) : Form.Statement (.postloadCheckDone g) := Form.of_none rfl
theorem Form.groupCommit (g : Nat) : Form.Statement (.groupCommit g) := Form.of_none rfl
theorem Form.binTimerExpiry (l die node : Nat) (ts : DWord) : Form.Statement (.binTimerExpiry l die node ts) := Form.of_none rfl
theorem Form.frontierReport (l die : Nat) : Form.Statement (.frontierReport l die) := Form.of_none rfl
theorem Form.frontierUpdate (l : Nat) : Form.Statement (.frontierUpdate l) := Form.of_none rfl
theorem Form.gparkTimerExpiry (g : Nat) : Form.Statement (.gparkTimerExpiry g) := Form.of_none rfl
theorem Form.continuationResume (g : Nat) : Form.Statement (.continuationResume g) := Form.of_none rfl
theorem Form.copyAccept (g t : Nat) : Form.Statement (.copyAccept g t) := Form.of_none rfl
theorem Form.publish (g : Nat) (hdl : BitVec 5) : Form.Statement (.publish g hdl) := Form.of_none rfl
theorem Form.fillFault (g : Nat) (hdl : BitVec 5) : Form.Statement (.fillFault g hdl) := Form.of_none rfl
theorem Form.drainCheckDone (g : Nat) (hdl : BitVec 5) : Form.Statement (.drainCheckDone g hdl) := Form.of_none rfl
theorem Form.drainCheckFault (g : Nat) (hdl : BitVec 5) : Form.Statement (.drainCheckFault g hdl) := Form.of_none rfl
theorem Form.drainWriteDone (g : Nat) (hdl : BitVec 5) : Form.Statement (.drainWriteDone g hdl) := Form.of_none rfl
theorem Form.operandPrefetch (g t k : Nat) : Form.Statement (.operandPrefetch g t k) := Form.of_none rfl
theorem Form.translationMiss (l die core va : Nat) : Form.Statement (.translationMiss l die core va) := Form.of_none rfl
theorem Form.preempt (g : Nat) : Form.Statement (.preempt g) := Form.of_none rfl
theorem Form.preemptGraceExpiry (g : Nat) : Form.Statement (.preemptGraceExpiry g) := Form.of_none rfl
theorem Form.groupResume (die core : Nat) : Form.Statement (.groupResume die core) := Form.of_none rfl
theorem Form.budgetExpiry (l : Nat) : Form.Statement (.budgetExpiry l) := Form.of_none rfl
theorem Form.coreReset (die core : Nat) : Form.Statement (.coreReset die core) := Form.of_none rfl
theorem Form.coreResetEnd (die core : Nat) : Form.Statement (.coreResetEnd die core) := Form.of_none rfl
theorem Form.scrub (die core : Nat) (word : EccWord) (double : Bool) : Form.Statement (.scrub die core word double) := Form.of_none rfl
theorem Form.packetDelivery (id : Nat) : Form.Statement (.packetDelivery id) := Form.of_none rfl
theorem Form.drainPoint : Form.Statement .drainPoint := Form.of_none rfl
theorem Form.drainPhaseEnd : Form.Statement .drainPhaseEnd := Form.of_none rfl
theorem Form.routerPowerDown (die core : Nat) : Form.Statement (.routerPowerDown die core) := Form.of_none rfl
theorem Form.routerWake (die core : Nat) : Form.Statement (.routerWake die core) := Form.of_none rfl
theorem Form.islandControlTick (watts : Nat) (temps : List (Nat × Nat)) : Form.Statement (.islandControlTick watts temps) := Form.of_none rfl
theorem Form.islandPointChangeDone (slot : Nat) : Form.Statement (.islandPointChangeDone slot) := Form.of_none rfl
theorem Form.retainWake (island : Nat) : Form.Statement (.retainWake island) := Form.of_none rfl
theorem Form.matrixRampIdle (slot : Nat) : Form.Statement (.matrixRampIdle slot) := Form.of_none rfl
theorem Form.mburstHoldExpiry (g t : Nat) : Form.Statement (.mburstHoldExpiry g t) := Form.of_none rfl
theorem Form.sampleTick (l die : Nat) (pick : Nat) : Form.Statement (.sampleTick l die pick) := Form.of_none rfl
theorem Form.moduleReset : Form.Statement .moduleReset := Form.of_none rfl
theorem Form.unsupportedPacket (port : Nat) : Form.Statement (.unsupportedPacket port) := Form.of_none rfl
theorem Form.launchDispatchStart (l : Nat) : Form.Statement (.launchDispatchStart l) := Form.of_none rfl
theorem Form.regionImageSave (l : Nat) : Form.Statement (.regionImageSave l) := Form.of_none rfl
theorem Form.launchComplete (l : Nat) : Form.Statement (.launchComplete l) := Form.of_none rfl
theorem Form.query (h : CmdHead) : Form.Statement (.query h) := Form.of_none rfl
theorem Form.map (h : CmdHead) (o : MapOps) : Form.Statement (.map h o) := Form.of_none rfl
theorem Form.unmap (h : CmdHead) (va len : Nat) : Form.Statement (.unmap h va len) := Form.of_none rfl
theorem Form.load (h : CmdHead) (va size : Nat) (reqsig : Bool) (digest : List Byte) : Form.Statement (.load h va size reqsig digest) := Form.of_none rfl
theorem Form.unload (h : CmdHead) (image : Nat) : Form.Statement (.unload h image) := Form.of_none rfl
theorem Form.launch (h : CmdHead) (o : LaunchOps) : Form.Statement (.launch h o) := Form.of_none rfl
theorem Form.launchx (h : CmdHead) (o : LaunchOps) (x : LaunchXOps) : Form.Statement (.launchx h o x) := Form.of_none rfl
theorem Form.wait (h : CmdHead) (id timeout : Nat) : Form.Statement (.wait h id timeout) := Form.of_none rfl
theorem Form.cancel (h : CmdHead) (id : Nat) : Form.Statement (.cancel h id) := Form.of_none rfl
theorem Form.cancelKeep (h : CmdHead) (id : Nat) : Form.Statement (.cancelKeep h id) := Form.of_none rfl
theorem Form.copyPut (h : CmdHead) (va : Nat) (data : List Byte) (preds : List Nat) : Form.Statement (.copyPut h va data preds) := Form.of_none rfl
theorem Form.copyGet (h : CmdHead) (va len : Nat) (preds : List Nat) : Form.Statement (.copyGet h va len preds) := Form.of_none rfl
theorem Form.copyXfer (h : CmdHead) (out : Bool) (peer : BitVec 48) (va peerVa len : Nat) (preds : List Nat) : Form.Statement (.copyXfer h out peer va peerVa len preds) := Form.of_none rfl
theorem Form.attest (h : CmdHead) (nonce : List Byte) : Form.Statement (.attest h nonce) := Form.of_none rfl
theorem Form.log (h : CmdHead) (sel start count : Nat) : Form.Statement (.log h sel start count) := Form.of_none rfl
theorem Form.islandRead (h : CmdHead) : Form.Statement (.islandRead h) := Form.of_none rfl
theorem Form.islandSet (h : CmdHead) (limit : Option Nat) (caps : List (Nat × Nat)) : Form.Statement (.islandSet h limit caps) := Form.of_none rfl
theorem Form.unassignedOpcode (w : DWord) : Form.Statement (.unassignedOpcode w) := by
  intro v _ hv
  cases hv
  exact ⟨fun h => (nomatch h), fun _ => .inr ⟨w, rfl⟩⟩
theorem Form.unassignedCommand (h : CmdHead) (cmd : BitVec 8) : Form.Statement (.unassignedCommand h cmd) := Form.of_none rfl
theorem Form.waitTimeout (id : Nat) : Form.Statement (.waitTimeout id) := Form.of_none rfl
theorem Form.copyCompletion (id : Nat) (peer : Option PeerEnd) : Form.Statement (.copyCompletion id peer) := Form.of_none rfl
theorem Form.peerXferRequest (peer : BitVec 48) (put : Bool) (va len : Nat) (data : List Byte) : Form.Statement (.peerXferRequest peer put va len data) := Form.of_none rfl
theorem Form.retainEntry (island : Nat) : Form.Statement (.retainEntry island) := Form.of_none rfl

end Sys2Proof.Laws
end

