-- ==== Sys2Proof/Laws/Team.lean ====
section
/-!
SUPPORT. What a Team-guarded instruction does, said once: completing with scalars, completing with a change of the team's record,
waiting, and trapping.
-/
namespace Sys2Proof.Machine

/-- An issue that changed only the team and its group leaves `Only`. -/
theorem only_issued {x y : Ctx} (hx : x.s.ctx? = some x) (hs : y.s = x.s) (hl : y.l = x.l) (hg : y.g.gid = x.g.gid)
    (hk : y.slot = x.slot) (h0 : y.t.t0 = x.t.t0) (ht : y.tier = x.tier) (hi : y.t.pos = x.t.pos) (passes stall : Nat) (pc : DWord) :
    x.Only ((y.issued passes stall).goto pc).save y.g ((y.issued passes stall).goto pc).t := by
  refine only_save (y := (y.issued passes stall).goto pc) hx hl hg (x.t.t0 + passes) ?_
  show State.setSlot y.s y.slot _ = _
  rw [hs, hk, h0, ht, hi]

/-- What the team reads where every register, flag and pending result stands. -/
theorem reads_same {a b : Team} (hv : b.v = a.v) (hp : b.p = a.p) (hs : b.s = a.s) (hf : b.flags = a.flags) (he : b.pend = a.pend) :
    Reads.same a b := by
  refine ⟨fun cyc l r => ?_, fun cyc l r h => ?_, fun cyc r => ?_, fun cyc => ?_⟩
  · rw [readV_eq, readV_eq, he]; unfold Team.fileV; rw [hv]
  · rw [readP_eq _ _ _ _ h, readP_eq _ _ _ _ h, he]; unfold Team.fileP; rw [hp]
  · rw [readS_eq, readS_eq, he]; unfold Team.fileS; rw [hs]
  · rw [flagsAt_eq, flagsAt_eq, he, hf]; rfl

/-- A list of scalar writes. -/
def sWrites (ws : List (Nat × SReg)) : List RegWrite := ws.map fun w => .s w.1 w.2

/-- The newest write of a scalar in a list. -/
def lastS (ws : List (Nat × SReg)) (r : Nat) : Option SReg :=
  ws.foldl (fun m w => if w.1 = r then some w.2 else m) none

/-- What the team reads after scalar results. -/
theorem reads_scalars (x : Ctx) (lat : Nat) (ws : List (Nat × SReg)) (u : Team) (hv : u.v = x.t.v) (hp : u.p = x.t.p)
    (hs : u.s = x.t.s) (hf : u.flags = x.t.flags) (he : u.pend = x.t.pend ++ (sWrites ws).map (x.pendOf lat)) :
    Reads x.t u (fun _ _ => none) (fun _ _ => none) (fun r => (lastS ws r).map fun y => (x.t.t0 + lat, y)) [] := by
  have none_ : ∀ {α : Type} (pick : RegWrite → Option (Nat × Nat × α)) (_ : ∀ r y, pick (.s r y) = none) (cyc l r : Nat) (acc : α)
      (ws : List (Nat × SReg)), ((sWrites ws).map (x.pendOf lat)).foldl (readStep pick cyc l r) acc = acc := by
    intro α pick hpk cyc l r acc ws
    induction ws with
    | nil => rfl
    | cons w q ih =>
      show ((sWrites q).map (x.pendOf lat)).foldl _ (readStep pick cyc l r acc (x.pendOf lat (.s w.1 w.2))) = acc
      have e : readStep pick cyc l r acc (x.pendOf lat (.s w.1 w.2)) = acc := by
        unfold readStep
        rw [pendOf_w, hpk]
      rw [e]
      exact ih
  refine ⟨fun cyc l r => ?_, fun cyc l r h => ?_, fun cyc r => ?_, fun cyc => ?_⟩
  · rw [readV_eq, readV_eq, he, List.foldl_append]
    unfold Team.fileV
    rw [hv, none_ pickV (fun _ _ => rfl)]
  · rw [readP_eq _ _ _ _ h, readP_eq _ _ _ _ h, he, List.foldl_append]
    unfold Team.fileP
    rw [hp, none_ pickP (fun _ _ => rfl)]
  · rw [readS_eq, readS_eq, he, List.foldl_append]
    unfold Team.fileS
    rw [hs]
    generalize x.t.pend.foldl (readStep pickS cyc 0 r) _ = acc0
    have key : ∀ (ws : List (Nat × SReg)) (m : Option SReg) (acc : SReg),
        acc = (match m with
          | some y => if x.t.t0 + lat ≤ cyc then y else acc0
          | none => acc0) →
        ((sWrites ws).map (x.pendOf lat)).foldl (readStep pickS cyc 0 r) acc =
          match ws.foldl (fun m w => if w.1 = r then some w.2 else m) m with
          | some y => if x.t.t0 + lat ≤ cyc then y else acc0
          | none => acc0 := by
      intro ws
      induction ws with
      | nil => intro m acc h; exact h
      | cons w q ih =>
        intro m acc h
        refine ih (if w.1 = r then some w.2 else m) _ ?_
        show (if 0 = 0 ∧ w.1 = r ∧ x.t.t0 + lat ≤ cyc then w.2 else acc) = _
        by_cases hr : w.1 = r
        · by_cases hc : x.t.t0 + lat ≤ cyc
          · simp [hr, hc]
          · cases m <;> simp_all
        · cases m <;> simp_all
    have := key ws none acc0 rfl
    rw [this]
    show _ = match (lastS ws r).map fun y => (x.t.t0 + lat, y) with
      | some (c, y) => if c ≤ cyc then y else acc0
      | none => acc0
    show (match lastS ws r with
      | some y => if x.t.t0 + lat ≤ cyc then y else acc0
      | none => acc0) = _
    cases lastS ws r <;> rfl
  · rw [flagsAt_eq, flagsAt_eq, he, List.foldl_append, hf]
    generalize x.t.pend.foldl (flagStep cyc) _ = acc0
    show ((sWrites ws).map (x.pendOf lat)).foldl (flagStep cyc) acc0 = acc0
    clear he
    induction ws with
    | nil => rfl
    | cons w q ih => exact ih

/-- Scalars put out, and the instruction done. -/
theorem scalars_done {i : Instr} {x : Ctx} (hx : x.s.ctx? = some x) {stall : BitVec 4} {pc : DWord} (ws : List (Nat × SReg))
    (hi : exec i x.s = (((x.emit 2 (sWrites ws)).issued 1 stall.toNat).goto pc).done) :
    TeamDone i x stall pc x.g id (fun r => (lastS ws r).map fun y => (x.t.t0 + 2, y)) := by
  have kept : (sWrites ws).filter RegWrite.kept = sWrites ws :=
    List.filter_eq_self.2 fun w m => by obtain ⟨a, _, e⟩ := List.mem_map.1 m; subst e; rfl
  refine ⟨_, _, hi, only_issued (y := x.emit 2 (sWrites ws)) hx rfl rfl rfl rfl rfl rfl rfl 1 stall.toNat pc, rfl, ?_⟩
  refine reads_scalars x 2 ws _ rfl rfl rfl rfl ?_
  show x.t.pend ++ ((sWrites ws).filter RegWrite.kept).map (x.pendOf 2) = _
  rw [kept]

theorem lastS_one (x : Ctx) (d : BitVec 6) (y : SReg) :
    (fun r => (lastS [(d.toNat, y)] r).map fun y => (x.t.t0 + 2, y)) = oneS x d y := by
  funext r
  show Option.map _ (if d.toNat = r then some y else none) = _
  unfold oneS
  by_cases h : d.toNat = r
  · rw [if_pos h, if_pos h.symm]; rfl
  · rw [if_neg h, if_neg (Ne.symm h)]; rfl

/-- A scalar instruction with one result. -/
theorem scl_done {i : Instr} {x : Ctx} (hx : x.s.ctx? = some x) {stall : BitVec 4} {d : BitVec 6} {v : DWord} {poi : Bool} {size : Nat}
    (hi : exec i x.s = ((x.setS d v poi).retire size stall).done) :
    TeamDone i x stall (x.t.pc + dwordOf size) x.g id (oneS x d { val := v, poi := poi }) := by
  rw [← lastS_one]
  exact scalars_done hx [(d.toNat, { val := v, poi := poi })] hi

/-- An issue that changed the team's record otherwise. -/
theorem goes_on {i : Instr} {x : Ctx} (hx : x.s.ctx? = some x) {passes : Nat} {stall : BitVec 4} {pc : DWord} (f : Team → Team)
    (y : Ctx) (hs : y.s = x.s) (hl : y.l = x.l) (hg : y.g = x.g) (hk : y.t.slot = x.t.slot) (h0 : y.t.t0 = x.t.t0)
    (ht : y.tier = x.tier) (hi : y.t.pos = x.t.pos) (hu : ((y.issued passes stall.toNat).goto pc).t = f (x.passed passes stall.toNat pc x.t.pend))
    (he : exec i x.s = ((y.issued passes stall.toNat).goto pc).done) : GoesOn i x passes stall pc f := by
  refine ⟨_, he, ?_⟩
  rw [← hu, ← hg]
  exact only_issued hx hs hl (by rw [hg]) (by unfold Ctx.slot; rw [hg, hk]) h0 ht hi passes stall.toNat pc

end Sys2Proof.Machine
end

