-- ==== Sys2Proof/Tests/Slice0.lean ====
section
/-!
SUPPORT. The model's own tests: ill-formed terms that the checks refuse, words written out from the spec's encodings, single steps
with results worked out in the spec or by hand from it, and for each statement a state that meets its hypotheses.
-/
open Sys2Proof Sys2Proof.Machine

namespace Sys2Proof.Tests

-- One theorem after another: each waits for the kernel, and the waiting ones would hold a thread each.
set_option Elab.async false

/-- A head: STALL, PRED, PNEG. -/
def hd (stall : BitVec 4) (pred : BitVec 6) (neg : Bool := false) : Head := { stall := stall, neg := neg, pred := pred }

/-- The instruction of two words at a multiple of 16. -/
def dec (w0 w1 : Nat) : Option Instr := (decodeWords (BitVec.ofNat 64 w0) (BitVec.ofNat 64 w1) false).toOption

/-! ### Decoding: a word for every constructor -/

/-- Words of the integer vector class (05 R88). -/
theorem test_decode_int1 :
    dec 0x004482080A0C0028 0 = some (.iadd ⟨hd 1 1 true, .s16, true, 0, 4, 5, .vec 6, 0⟩) ∧
    dec 0x0088040E10120090 0 = some (.isub ⟨hd 2 2 false, .n32, false, 0, 7, 8, .scl 9, 0⟩) ∧
    dec 0x00CC860205F40148 0 = some (.imul ⟨hd 3 3 true, .s8, true, 0, 1, 2, .imm8 250, 0⟩) ∧
    dec 0x01100806080A0000 0 = some (.imulh ⟨hd 4 4 false, .s32, false, 0, 3, 4, .vec 5, 0⟩) ∧
    dec 0x01548A0C0E101238 0 = some (.imad ⟨hd 5 5 true, .n16, true, 0, 6, 7, .vec 8, 9⟩) ∧
    dec 0x01980C04080C0068 0 = some (.iadd64 ⟨hd 6 6 false, .s64, true, 0, 2, 4, .vec 6, 0⟩) ∧
    dec 0x01DC8E10141800F0 0 = some (.isub64 ⟨hd 7 7 true, .n64, false, 0, 8, 10, .scl 12, 0⟩) ∧
    dec 0x02201002060A0050 0 = some (.imin ⟨hd 8 8 false, .n8, false, 0, 1, 3, .vec 5, 0⟩) ∧
    dec 0x0264920409FE0160 0 = some (.imax ⟨hd 9 9 true, .s64, false, 0, 2, 4, .imm8 255, 0⟩) ∧
    dec 0x02A8141618000008 0 = some (.iabs ⟨hd 10 10 false, .s32, true, 0, 11, 12, .vec 0, 0⟩) ∧
    dec 0x02EC961A1C000010 0 = some (.ineg ⟨hd 11 11 true, .n32, false, 0, 13, 14, .vec 0, 0⟩) ∧
    dec 0x0330181E21000110 0 = some (.iaddsat ⟨hd 12 12 false, .n32, false, 0, 15, 16, .imm8 128, 0⟩) :=
  ⟨rfl, rfl, rfl, rfl, rfl, rfl, rfl, rfl, rfl, rfl, rfl, rfl⟩

/-- Words of the integer vector class (05 R88). -/
theorem test_decode_int2 :
    dec 0x03749A22247E0080 0 = some (.isubsat ⟨hd 13 13 true, .s32, false, 0, 17, 18, .scl 63, 0⟩) ∧
    dec 0x040020282C300070 0 = some (.and ⟨hd 0 16 false, .n64, false, 0, 20, 22, .vec 24, 0⟩) ∧
    dec 0x0444A22A2E320000 0 = some (.or ⟨hd 1 17 true, .s32, false, 0, 21, 23, .vec 25, 0⟩) ∧
    dec 0x04882434363800A0 0 = some (.xor ⟨hd 2 18 false, .s16, false, 0, 26, 27, .scl 28, 0⟩) ∧
    dec 0x04CCA63A3C000000 0 = some (.not ⟨hd 3 19 true, .s32, false, 0, 29, 30, .vec 0, 0⟩) ∧
    dec 0x0510283E40420040 0 = some (.andn ⟨hd 4 20 false, .s8, false, 0, 31, 32, .vec 33, 0⟩) ∧
    dec 0x06203044484A0068 0 = some (.shl ⟨hd 8 24 false, .s64, true, 0, 34, 36, .vec 37, 0⟩) ∧
    dec 0x0664B24C4E3E0100 0 = some (.shr ⟨hd 9 25 true, .s32, false, 0, 38, 39, .imm8 31, 0⟩) ∧
    dec 0x06A8345052540020 0 = some (.sar ⟨hd 10 26 false, .s16, false, 0, 40, 41, .vec 42, 0⟩) ∧
    dec 0x06ECB656580200B0 0 = some (.rol ⟨hd 11 27 true, .n16, false, 0, 43, 44, .scl 1, 0⟩) ∧
    dec 0x0730385A5C5E0000 0 = some (.bfx ⟨hd 12 28 false, .s32, false, 0, 45, 46, .vec 47, 0⟩) ∧
    dec 0x0774BA6062646610 0 = some (.bfi ⟨hd 13 29 true, .n32, false, 0, 48, 49, .vec 50, 51⟩) :=
  ⟨rfl, rfl, rfl, rfl, rfl, rfl, rfl, rfl, rfl, rfl, rfl, rfl⟩

/-- Words of the integer vector class (05 R88). -/
theorem test_decode_int3 :
    dec 0x080040686A000000 0 = some (.popc ⟨hd 0 32 false, .s32, false, 0, 52, 53, .vec 0, 0⟩) ∧
    dec 0x0844C26C6E000040 0 = some (.clz ⟨hd 1 33 true, .s8, false, 0, 54, 55, .vec 0, 0⟩) ∧
    dec 0x0888447072000050 0 = some (.ctz ⟨hd 2 34 false, .n8, false, 0, 56, 57, .vec 0, 0⟩) ∧
    dec 0x08CCC67476000020 0 = some (.brev ⟨hd 3 35 true, .s16, false, 0, 58, 59, .vec 0, 0⟩) ∧
    dec 0x0A2050787A7C0600 0 = some (.sel ⟨hd 8 40 false, .s32, false, 0, 60, 61, .vec 62, 3⟩) ∧
    dec 0x0A64D25E80820015 0 = some (.icmp ⟨hd 9 41 true, .n32, false, 5, 47, 64, .vec 65, 0⟩) ∧
    dec 0x0AA8548486880001 0 = some (.clamp ⟨hd 10 42 false, .s32, false, 1, 66, 67, .vec 68, 0⟩) ∧
    dec 0x0C00008A8C8E900B 0 = some (.idot4 ⟨hd 0 0 false, .s32, true, 3, 69, 70, .vec 71, 72⟩) ∧
    dec 0x0C44829294969800 0 = some (.idot8 ⟨hd 1 1 true, .s32, false, 0, 73, 74, .vec 75, 76⟩) ∧
    dec 0x0C88049A9C200148 0 = some (.srshr ⟨hd 2 2 false, .s8, true, 0, 77, 78, .imm8 16, 0⟩) :=
  ⟨rfl, rfl, rfl, rfl, rfl, rfl, rfl, rfl, rfl, rfl⟩

/-- Words of the floating-point class (06 R114). -/
theorem test_decode_flt1 :
    dec 0x100020080A0C0028 0 = some (.fadd ⟨hd 0 16, .f16, .rtz, 0, 4, 5, .vec 6, 0⟩) ∧
    dec 0x1044220E1012009C 0 = some (.fsub ⟨hd 1 17, .f32, .dyn, 0, 7, 8, .scl 9, 0⟩) ∧
    dec 0x1088240204060140 0 = some (.fmul ⟨hd 2 18, .bf16, .rne, 0, 1, 2, .imm8 3, 0⟩) ∧
    dec 0x10CC2606080A0C10 0 = some (.ffma ⟨hd 3 19, .f32, .rdn, 0, 3, 4, .vec 5, 6⟩) ∧
    dec 0x11102802060A001C 0 = some (.fmin ⟨hd 4 20, .f32, .dyn, 0, 1, 3, .vec 5, 0⟩) ∧
    dec 0x11542A04080C003C 0 = some (.fmax ⟨hd 5 21, .f16, .dyn, 0, 2, 4, .vec 6, 0⟩) ∧
    dec 0x11982C0E1000001C 0 = some (.fabs ⟨hd 6 22, .f32, .dyn, 0, 7, 8, .vec 0, 0⟩) ∧
    dec 0x11DC2E121400005C 0 = some (.fneg ⟨hd 7 23, .bf16, .dyn, 0, 9, 10, .vec 0, 0⟩) ∧
    dec 0x12203016181A001E 0 = some (.fcmp ⟨hd 8 24, .f32, .dyn, 2, 11, 12, .vec 13, 0⟩) ∧
    dec 0x1264321C1E00001C 0 = some (.fclass ⟨hd 9 25, .f32, .dyn, 0, 14, 15, .vec 0, 0⟩) ∧
    dec 0x180000202224002C 0 = some (.hadd2 ⟨hd 0 0, .f16, .rup, 0, 16, 17, .vec 18, 0⟩) ∧
    dec 0x18440226282A00C4 0 = some (.hmul2 ⟨hd 1 1, .bf16, .rna, 0, 19, 20, .scl 21, 0⟩) :=
  ⟨rfl, rfl, rfl, rfl, rfl, rfl, rfl, rfl, rfl, rfl, rfl, rfl⟩

/-- Words of the floating-point class (06 R114). -/
theorem test_decode_flt2 :
    dec 0x1888042C2E30323C 0 = some (.hfma2 ⟨hd 2 2, .f16, .dyn, 0, 22, 23, .vec 24, 25⟩) ∧
    dec 0x1400403436000008 0 = some (.frcp ⟨hd 0 32, .f32, .rtz, 0, 26, 27, .vec 0, 0⟩) ∧
    dec 0x144442383A00001C 0 = some (.frsq ⟨hd 1 33, .f32, .dyn, 0, 28, 29, .vec 0, 0⟩) ∧
    dec 0x1488443C3E000000 0 = some (.fsqrt ⟨hd 2 34, .f32, .rne, 0, 30, 31, .vec 0, 0⟩) ∧
    dec 0x14CC46404200001C 0 = some (.fexp2 ⟨hd 3 35, .f32, .dyn, 0, 32, 33, .vec 0, 0⟩) ∧
    dec 0x151048444600001C 0 = some (.flog2 ⟨hd 4 36, .f32, .dyn, 0, 34, 35, .vec 0, 0⟩) ∧
    dec 0x15544A484A00001C 0 = some (.fsin ⟨hd 5 37, .f32, .dyn, 0, 36, 37, .vec 0, 0⟩) ∧
    dec 0x15984C4C4E00001C 0 = some (.fcos ⟨hd 6 38, .f32, .dyn, 0, 38, 39, .vec 0, 0⟩) ∧
    dec 0x15DC4E505200001C 0 = some (.ftanh ⟨hd 7 39, .f32, .dyn, 0, 40, 41, .vec 0, 0⟩) ∧
    dec 0x1C00200A0C00001D 0 = some (.pchk ⟨hd 0 16, .f32, .dyn, 1, 5, 6, .vec 0, 0⟩) :=
  ⟨rfl, rfl, rfl, rfl, rfl, rfl, rfl, rfl, rfl, rfl⟩

/-- Words of the conversions (06 R122 to R124). -/
theorem test_decode_cvt :
    dec 0x20007E0804001002 0 = some (.cvt ⟨hd 0 63, .s32, .rtz, 4, 2, .vec 0, 8⟩) ∧
    dec 0x20407E0A10420170 0 = some (.qpack4 ⟨hd 0 63, .q4, .rne, 5, 8, .imm8 33, 0⟩) ∧
    dec 0x20807E200C0E00C7 0 = some (.qunpack4 ⟨hd 0 63, .f32, .dyn, 16, 6, .scl 7, 0⟩) ∧
    dec 0x20C07E1280000477 0 = some (.scalepick ⟨hd 0 63, .q4, .dyn, 9, 64, .vec 0, 2⟩) ∧
    dec 0x21007E100000105F 0 = some (.cvt8x4 ⟨hd 0 63, .e4m3, .dyn, 8, 0, .vec 0, 8⟩) ∧
    dec 0x21407E1810001647 0 = some (.cvtq ⟨hd 0 63, .f32, .dyn, 12, 8, .vec 0, 11⟩) :=
  ⟨rfl, rfl, rfl, rfl, rfl, rfl⟩

/-- Words of the scalar class (05 R94 to R97). -/
theorem test_decode_scl1 :
    dec 0x28007E0204060080 0 = some (.sadd ⟨0, 0, 1, 2, .scl 3, 0⟩) ∧
    dec 0x28447E080BFC0100 0 = some (.ssub ⟨1, 0, 4, 5, .imm8 254, 0⟩) ∧
    dec 0x28887E0C0E100080 0 = some (.smul ⟨2, 0, 6, 7, .scl 8, 0⟩) ∧
    dec 0x28CC7E1214161880 0 = some (.smad ⟨3, 0, 9, 10, .scl 11, 12⟩) ∧
    dec 0x29107E1A1C1E0080 0 = some (.sand ⟨4, 0, 13, 14, .scl 15, 0⟩) ∧
    dec 0x29547E2022240080 0 = some (.sor ⟨5, 0, 16, 17, .scl 18, 0⟩) ∧
    dec 0x29987E26282A0080 0 = some (.sxor ⟨6, 0, 19, 20, .scl 21, 0⟩) ∧
    dec 0x29DC7E2C2E080100 0 = some (.sshl ⟨7, 0, 22, 23, .imm8 4, 0⟩) ∧
    dec 0x2A207E30320A0100 0 = some (.sshr ⟨8, 0, 24, 25, .imm8 5, 0⟩) ∧
    dec 0x2A647E3436380090 0 = some (.ssar ⟨9, 1, 26, 27, .scl 28, 0⟩) ∧
    dec 0x2AA87E3A3C3E0090 0 = some (.smin ⟨10, 1, 29, 30, .scl 31, 0⟩) ∧
    dec 0x2AEC7E4042440080 0 = some (.smax ⟨11, 0, 32, 33, .scl 34, 0⟩) :=
  ⟨rfl, rfl, rfl, rfl, rfl, rfl, rfl, rfl, rfl, rfl, rfl, rfl⟩

/-- Words of the scalar class (05 R94 to R97). -/
theorem test_decode_scl2 :
    dec 0x2B307E46484A00D0 0 = some (.scmp ⟨12, 5, 35, 36, .scl 37, 0⟩) ∧
    dec 0x2B747E4C004E0080 0 = some (.smov ⟨13, 0, 38, 0, .scl 39, 0⟩) ∧
    dec 0x2B817E0A00000010 0x89ABCDEF = some (.sli 0 1 5 0x89ABCDEF) ∧
    dec 0x2C087E0804000000 0 = some (.sget 2 4 2) ∧
    dec 0x2C407E5000120080 0 = some (.sset 0 0x28 (.scl 9)) ∧
    dec 0x2C80860E00120090 0 = some (.vbcast ⟨hd 0 3 true, true, 7, .scl 9⟩) ∧
    dec 0x2CC07E100A040110 0 = some (.vlane 0 true 8 5 (.imm8 2)) :=
  ⟨rfl, rfl, rfl, rfl, rfl, rfl, rfl⟩

/-- Words of control and structured divergence (05 R99, 07 R132). -/
theorem test_decode_ctl1 :
    dec 0x300D7E0000000000 0xFFFFFFF0 = some (.bra 3 0xFFFFFFF0) ∧
    dec 0x30417E0012000003 0x4 = some (.brc 0 .snz 9 4) ∧
    dec 0x30817E0000000000 0x10 = some (.call 0 16) ∧
    dec 0x30C07E0000000000 0 = some (.ret 0) ∧
    dec 0x31007E0000000000 0 = some (.exit 0) ∧
    dec 0x343C7E0000000000 0 = some (.nop 15) ∧
    dec 0x32017E000E000001 0x6 = some (.ifOp 0 ⟨7, true⟩ 6) ∧
    dec 0x32417E0000000000 0x8 = some (.elseOp 0 8) ∧
    dec 0x32807E0000000000 0 = some (.endif 0) ∧
    dec 0x32C17E0000000000 0xA = some (.loop 0 10) ∧
    dec 0x33017E0004000000 0x2 = some (.breakOp 0 ⟨2, false⟩ 2) ∧
    dec 0x33417E0006000001 0xC = some (.cont 0 ⟨3, true⟩ 12) :=
  ⟨rfl, rfl, rfl, rfl, rfl, rfl, rfl, rfl, rfl, rfl, rfl, rfl⟩

/-- Words of control and structured divergence (05 R99, 07 R132). -/
theorem test_decode_ctl2 :
    dec 0x33817E007E000000 0xFFFFFFFC = some (.endloop 0 ⟨63, false⟩ 0xFFFFFFFC) ∧
    dec 0x34407E0000000000 0 = some (.yield 0) :=
  ⟨rfl, rfl⟩

/-- Words of the cross-lane class (07 R137). -/
theorem test_decode_xlane :
    dec 0x380008080A020135 0 = some (.shfl ⟨hd 0 4, 3, 5, 4, 5, .imm8 1, 0⟩) ∧
    dec 0x3840080C040E0090 0 = some (.ballot ⟨hd 0 4, 1, 0, 6, 2, .scl 7, 0⟩) ∧
    dec 0x3880081012000023 0 = some (.vote ⟨hd 0 4, 2, 3, 8, 9, .vec 0, 0⟩) ∧
    dec 0x38C0081404000015 0 = some (.popm ⟨hd 0 4, 1, 5, 10, 2, .vec 0, 0⟩) ∧
    dec 0x3900080A08100605 0 = some (.scan ⟨hd 0 4, 0, 5, 5, 4, .vec 8, 3⟩) ∧
    dec 0x3940080C08040020 0 = some (.reduce ⟨hd 0 4, 2, 0, 6, 4, .vec 2, 0⟩) ∧
    dec 0x3980080E16000014 0 = some (.matchOp ⟨hd 0 4, 1, 4, 7, 11, .vec 0, 0⟩) ∧
    dec 0x39C0081800000005 0 = some (.elect ⟨hd 0 4, 0, 5, 12, 0, .vec 0, 0⟩) ∧
    dec 0x3A00081A00000050 0 = some (.lmask ⟨hd 0 4, 5, 0, 13, 0, .vec 0, 0⟩) :=
  ⟨rfl, rfl, rfl, rfl, rfl, rfl, rfl, rfl, rfl⟩

/-- Words of memory and atomics (05 R103, 10 R185, 13 R239). -/
theorem test_decode_mem :
    dec 0x40007E1004060020 0 = some (.ldl ⟨hd 0 63, .b32, false, false, 8, 2, .short 3, 0⟩) ∧
    dec 0x40017E100400081C 0xFFFFFFFE = some (.ldl ⟨hd 0 63, .b16, true, true, 8, 2, .long 0xFFFFFFFE, 4⟩) ∧
    dec 0x40400A1805FE0040 0 = some (.stl ⟨hd 0 5, .b128, false, false, 12, 2, .short 255, 0⟩) ∧
    dec 0x42007E1206020004 0 = some (.lds ⟨hd 0 63, .b8, false, true, 9, 3, .short 1, 0⟩) ∧
    dec 0x42407E1406040030 0 = some (.sts ⟨hd 0 63, .b64, false, false, 10, 3, .short 2, 0⟩) ∧
    dec 0x44007E1004080020 0 = some (.ldd ⟨hd 0 63, .b32, false, false, 8, 2, .short 4, 0⟩) ∧
    dec 0x44407E0A04040020 0 = some (.std ⟨hd 0 63, .b32, false, false, 5, 2, .short 2, 0⟩) ∧
    dec 0x48007E02000C0080 0 = some (.waitp 0 .die (.scl 6)) ∧
    dec 0x50007E0C0A144A4A 0 = some (.atom ⟨hd 0 63, 9, .g, 6, 5, .vec 10, 0x25, none⟩) ∧
    dec 0x50417E0402060114 0x8 = some (.atomf ⟨hd 0 63, 2, .d, 2, 1, .imm8 3, 0, some 8⟩) ∧
    dec 0x50807E0002060004 0 = some (.red ⟨hd 0 63, 0, .d, 0, 1, .vec 3, 0, none⟩) ∧
    dec 0x50C006000C0A0004 0 = some (.redf ⟨hd 0 3, 0, .d, 0, 6, .vec 5, 0, none⟩) :=
  ⟨rfl, rfl, rfl, rfl, rfl, rfl, rfl, rfl, rfl, rfl, rfl, rfl⟩

/-- Words of commit, tasks, barriers and queues (11 R201, 12 R221, R234, 08 R166, R170). -/
theorem test_decode_sync1 :
    dec 0x58007E0000000000 0 = some (.tcommit 0) ∧
    dec 0x58007E0000200101 0 = some (.tcommitCk 0 (.imm8 16)) ∧
    dec 0x58407E0000000000 0 = some (.tabort 0) ∧
    dec 0x58807E0000000000 0 = some (.gcommit 0) ∧
    dec 0x58C07E0000000000 0 = some (.gabort 0) ∧
    dec 0x5E00020000000002 0 = some (.fence (hd 0 1) .d) ∧
    dec 0x5E407E0006000000 0 = some (.xfence 0 3) ∧
    dec 0x59007E0008040A03 0 = some (.spawn (hd 0 63) 4 2 5 3) ∧
    dec 0x59417E0006000000 0x80C00000000 = some (.gpark 0 (.hstate 3 4) 12) ∧
    dec 0x59417E0004000001 0x400000000 = some (.gpark 0 (.qne 2) 4) ∧
    dec 0x59417E0000000002 0x800001388 = some (.gpark 0 (.timer 5000) 8) ∧
    dec 0x59417E000C000003 0x400000007 = some (.gpark 0 (.signal 6 7) 4) :=
  ⟨rfl, rfl, rfl, rfl, rfl, rfl, rfl, rfl, rfl, rfl, rfl, rfl⟩

/-- Words of commit, tasks, barriers and queues (11 R201, 12 R221, R234, 08 R166, R170). -/
theorem test_decode_sync2 :
    dec 0x5A007E0002000000 0 = some (.bar 0 1) ∧
    dec 0x5A407E0004000000 0 = some (.bara 0 2) ∧
    dec 0x5A807E000E000000 0 = some (.barw 0 7) ∧
    dec 0x5C007E00060A0080 0 = some (.qpush 0 3 (.scl 5)) ∧
    dec 0x5C407E0204000000 0 = some (.qpop 0 1 2) ∧
    dec 0x5C807E0406000600 0 = some (.qtryPop 0 2 3 3) ∧
    dec 0x5C807E080A0C0101 0 = some (.qtryPush 0 4 5 (.imm8 6)) :=
  ⟨rfl, rfl, rfl, rfl, rfl, rfl, rfl⟩

/-- Words of engines, handles and records (16 R264). -/
theorem test_decode_eng :
    dec 0x60017E0004080080 0x500000000 = some (.cpin 0 2 5 (.scl 4)) ∧
    dec 0x60417E0002000101 0x500000000 = some (.cpout 0 .add 1 5 (.imm8 0)) ∧
    dec 0x60810200020C0000 0x100000000 = some (.gather (hd 0 1) 1 1 6) ∧
    dec 0x60C10400080E0000 0x900000000 = some (.scatter (hd 0 2) 4 9 7) ∧
    dec 0x62007E0006000004 0 = some (.hwait 0 3 4) ∧
    dec 0x62407E000A000000 0 = some (.hrel 0 5) ∧
    dec 0x62807E0A06000000 0 = some (.hstatSt 0 5 3) ∧
    dec 0x62807E0A06000001 0 = some (.hstatTag 0 5 3) ∧
    dec 0x64007E00100E0100 0 = some (.lrset 0 8 (.imm8 7)) ∧
    dec 0x64407E0000000000 0 = some (.lfence 0) :=
  ⟨rfl, rfl, rfl, rfl, rfl, rfl, rfl, rfl, rfl, rfl⟩

/-- Words of the matrix class (17 R283). -/
theorem test_decode_mat :
    dec 0x70017E02100C1240 0x300000000 = some (.mma ⟨hd 0 63, true, 1, 8, .handle 3 6, 9⟩) ∧
    dec 0x70010200000A1280 0x6000000000 = some (.mma ⟨hd 0 1, false, 0, 0, .tile 0 3 5, 9⟩) ∧
    dec 0x70417E04200E1400 0x10000210C = some (.mmas ⟨hd 0 63, false, 2, 16, .handle 1 7, 10⟩ 12 33) ∧
    dec 0x71007E0000000000 0 = some (.mzero (hd 0 63) 0 none) ∧
    dec 0x71007E0601F00101 0 = some (.mzero (hd 0 63) 3 (some 0xF8)) ∧
    dec 0x71417E0840000002 0xFF00000000 = some (.mload (hd 0 63) 4 32 2 0xFF) ∧
    dec 0x71807E200400001F 0 = some (.mread (hd 0 63) 16 2 .fw 3) ∧
    dec 0x71C07E000FFC0605 0 = some (.mstore (hd 0 63) 7 254 3 .bf16 1) ∧
    dec 0x72007E0000200100 0 = some (.mburst 0 (.imm8 16)) ∧
    dec 0x72407E0600000000 0 = some (.mstepGet 0 3) ∧
    dec 0x72407E0000080081 0 = some (.mstepSet 0 (.scl 4)) :=
  ⟨rfl, rfl, rfl, rfl, rfl, rfl, rfl, rfl, rfl, rfl, rfl⟩

/-- Words of the system class and pairs (05 R110, 07 R140, 20 R315, 22 R358, 02 R37, R39). -/
theorem test_decode_sys :
    dec 0x80007E0000000003 0 = some (.trap 0 3) ∧
    dec 0x80407E0000000000 0 = some (.tretAfter 0) ∧
    dec 0x80407E0000000001 0 = some (.tretRetry 0) ∧
    dec 0x82407E0800000000 0 = some (.cycle 0 4) ∧
    dec 0x83007E0000000001 0 = some (.chkset 0 true) ∧
    dec 0x82807E00000C0080 0 = some (.vgrow 0 (.scl 6)) ∧
    dec 0x82C07E0000300100 0 = some (.vshrink 0 (.imm8 24)) ∧
    dec 0x82007E0800020100 0 = some (.featq 0 4 (.imm8 1)) ∧
    dec 0x84007E0000000003 0 = some (.bkpt 0 3) ∧
    dec 0x03807E0204000000 0 = some (.unassignedOpcode 0x3807e0204000000) ∧
    dec 0x108A7E0E0606001C 0x407E1002000000 = some (.pairedIssue (.flt .fmul ⟨hd 2 63, .f32, .dyn, 0, 7, 3, .vec 3, 0⟩) (.int .iadd ⟨hd 0 63, .s32, false, 0, 8, 1, .vec 0, 0⟩)) :=
  ⟨rfl, rfl, rfl, rfl, rfl, rfl, rfl, rfl, rfl, rfl, rfl⟩

/-- Bytes: the rule for the place of a 16-byte form, and too few bytes (02 R35). -/
theorem test_decode_bytes :
    (decode (Words.bytes (0x00417E0808000180#64, some 0x10000#64)) true).toOption = none ∧
    (decode (Words.bytes (0x00417E0808000180#64, some 0x10000#64)) false).toOption =
      some (.iadd ⟨hd 0 63, .s32, false, 0, 4, 4, .imm32 0x10000, 0⟩) ∧
    (decode [0#8, 0#8, 0#8] false).toOption = none ∧
    decodeTableWord 128 (0x00417E0808000180 + 0x10000 * 2 ^ 64) = some (.iadd ⟨hd 0 63, .s32, false, 0, 4, 4, .imm32 0x10000, 0⟩) :=
  ⟨rfl, rfl, rfl, rfl⟩

/-- Which trap a bad word raises first (02 R41). -/
def rej (w0 w1 : Nat) (odd : Bool := false) : Option Reject :=
  match decodeWords (BitVec.ofNat 64 w0) (BitVec.ofNat 64 w1) odd with
  | .ok _ => none
  | .error r => some r

/-- The checks of 02 R41 in order: FORM 11, FORM 10 on imul, FORM 01 on pchk, a 16-byte form at 8, an unassigned second word, a
second word with a STALL, an accepted value missed. -/
theorem test_decode_rejects :
    rej 0x0043000000000000 0 = some .reservedField ∧ rej 0x00C27E0000000000 0 = some .illegalPair ∧
    rej 0x1C017E0000000000 0 = some .reservedField ∧ rej 0x00417E0808000180 0x10000 true = some .align ∧
    rej 0x00427E0808000100 0 = some .illegalOpcode ∧ rej 0x00427E0808000100 0x00447E1008000100 = some .illegalPair ∧
    rej 0x00407E0808020101 0 = some .reservedField ∧ rej 0x30007E0000000000 0 = some .reservedField :=
  ⟨rfl, rfl, rfl, rfl, rfl, rfl, rfl, rfl⟩

/-! ### Ill-formed terms, one for each check -/

/-- Every term of the list is ill formed. -/
def ill (l : List Instr) : Bool := l.all fun i => !i.wf

/-- The integer vector class: guard, TYPE, SAT, SUB, pairs, unused fields, predicates (05 R87, R88, R91, R92; 02 R24 to R29). -/
theorem test_ill_int : ill [
    .iadd ⟨hd 0 48, .s32, false, 0, 4, 5, .vec 6, 0⟩, .iadd ⟨hd 0 63, .s64, false, 0, 4, 6, .vec 8, 0⟩,
    .iadd64 ⟨hd 0 63, .s32, false, 0, 4, 6, .vec 8, 0⟩, .iabs ⟨hd 0 63, .n32, false, 0, 4, 5, .vec 0, 0⟩,
    .idot4 ⟨hd 0 63, .n32, false, 0, 4, 5, .vec 6, 7⟩, .imulh ⟨hd 0 63, .s32, true, 0, 4, 5, .vec 6, 0⟩,
    .iaddsat ⟨hd 0 63, .s32, true, 0, 4, 5, .vec 6, 0⟩, .iadd ⟨hd 0 63, .s32, false, 1, 4, 5, .vec 6, 0⟩,
    .icmp ⟨hd 0 63, .s32, false, 6, 4, 5, .vec 6, 0⟩, .clamp ⟨hd 0 63, .n32, false, 1, 4, 5, .vec 6, 0⟩,
    .clamp ⟨hd 0 63, .s32, false, 1, 4, 5, .vec 6, 7⟩, .idot4 ⟨hd 0 63, .s32, false, 4, 4, 5, .vec 6, 7⟩,
    .idot8 ⟨hd 0 63, .s32, false, 1, 4, 5, .vec 6, 7⟩, .imin ⟨hd 0 63, .s64, false, 0, 5, 6, .vec 8, 0⟩,
    .imin ⟨hd 0 63, .s64, false, 0, 4, 7, .vec 8, 0⟩, .imin ⟨hd 0 63, .s64, false, 0, 4, 6, .vec 9, 0⟩,
    .not ⟨hd 0 63, .s32, false, 0, 4, 5, .vec 6, 0⟩, .not ⟨hd 0 63, .s32, false, 0, 4, 5, .vec 0, 1⟩,
    .iadd ⟨hd 0 63, .s32, false, 0, 4, 5, .vec 6, 1⟩, .sel ⟨hd 0 63, .s32, false, 0, 4, 5, .vec 6, 48⟩,
    .icmp ⟨hd 0 63, .s32, false, 0, 64, 5, .vec 6, 0⟩, .icmp ⟨hd 0 63, .s32, false, 0, 4, 5, .vec 6, 1⟩] = true := by decide

/-- The floating-point class: TYPE, RND, SUB, unused fields, immediates and predicates (06 R113 to R119). -/
theorem test_ill_flt : ill [
    .fadd ⟨hd 0 50, .f32, .rne, 0, 4, 5, .vec 6, 0⟩, .hadd2 ⟨hd 0 63, .f32, .rne, 0, 4, 5, .vec 6, 0⟩,
    .frcp ⟨hd 0 63, .f16, .rne, 0, 4, 5, .vec 0, 0⟩, .fmin ⟨hd 0 63, .f32, .rne, 0, 4, 5, .vec 6, 0⟩,
    .fsin ⟨hd 0 63, .f32, .rtz, 0, 4, 5, .vec 0, 0⟩, .fadd ⟨hd 0 63, .f32, .rne, 1, 4, 5, .vec 6, 0⟩,
    .fadd ⟨hd 0 63, .f32, .rne, 0, 4, 5, .vec 6, 1⟩, .fabs ⟨hd 0 63, .f32, .dyn, 0, 4, 5, .scl 0, 0⟩,
    .fadd ⟨hd 0 63, .f16, .rne, 0, 4, 5, .imm32 0x10000, 0⟩, .fcmp ⟨hd 0 63, .f32, .dyn, 0, 48, 5, .vec 6, 0⟩,
    .pchk ⟨hd 0 63, .f32, .dyn, 3, 4, 5, .vec 0, 0⟩, .pchk ⟨hd 0 63, .f32, .dyn, 1, 4, 48, .vec 0, 0⟩,
    .pchk ⟨hd 0 63, .f32, .dyn, 2, 4, 64, .vec 0, 0⟩] = true := by decide

/-- The conversions (06 R121 to R124). -/
theorem test_ill_cvt : ill [
    .cvt ⟨hd 0 63, .q4, .rne, 4, 2, .vec 0, 8⟩, .cvt ⟨hd 0 63, .s64, .rne, 5, 2, .vec 0, 8⟩, .cvt ⟨hd 0 63, .f32, .rne, 4, 3, .vec 0, 6⟩,
    .cvt ⟨hd 0 63, .f32, .rne, 4, 2, .vec 0, 15⟩, .cvt ⟨hd 0 63, .f32, .rne, 4, 2, .vec 0, 14⟩, .cvt ⟨hd 0 63, .f32, .rne, 4, 2, .vec 0, 16⟩,
    .cvt ⟨hd 0 63, .f32, .rne, 4, 2, .vec 1, 0⟩, .qpack4 ⟨hd 0 63, .q4, .rne, 4, 8, .imm32 0, 0⟩, .qpack4 ⟨hd 0 63, .f32, .rne, 4, 8, .vec 0, 0⟩,
    .qpack4 ⟨hd 0 63, .q4, .rne, 4, 8, .vec 0, 1⟩, .qunpack4 ⟨hd 0 63, .f32, .rne, 4, 8, .vec 0, 0⟩, .qunpack4 ⟨hd 0 63, .s32, .dyn, 4, 8, .vec 0, 0⟩,
    .scalepick ⟨hd 0 63, .q4, .dyn, 4, 8, .vec 0, 4⟩, .scalepick ⟨hd 0 63, .q4, .rne, 4, 8, .vec 0, 0⟩, .scalepick ⟨hd 0 63, .f32, .dyn, 4, 8, .vec 0, 0⟩,
    .cvt8x4 ⟨hd 0 63, .e4m3, .dyn, 4, 8, .vec 0, 9⟩, .cvt8x4 ⟨hd 0 63, .f16, .dyn, 4, 8, .vec 0, 8⟩, .cvtq ⟨hd 0 63, .f32, .rne, 4, 8, .vec 0, 11⟩,
    .cvtq ⟨hd 0 63, .s32, .dyn, 4, 8, .vec 0, 11⟩, .cvtq ⟨hd 0 63, .f32, .dyn, 4, 8, .vec 0, 8⟩] = true := by decide

/-- The scalar class, control and structured divergence (05 R94 to R100, 01 R14, 07 R132). -/
theorem test_ill_scalar : ill [
    .sadd ⟨0, 0, 1, 2, .vec 3, 0⟩, .sadd ⟨0, 0, 1, 2, .scl 3, 1⟩, .smov ⟨0, 0, 1, 2, .scl 3, 0⟩, .sadd ⟨0, 1, 1, 2, .scl 3, 0⟩,
    .ssar ⟨0, 2, 1, 2, .scl 3, 0⟩, .scmp ⟨0, 6, 1, 2, .scl 3, 0⟩, .sget 0 4 0x05, .sget 0 64 0x01, .sget 0 5 0x1B, .sset 0 0x01 (.scl 9),
    .sset 0 0x28 (.vec 9), .vbcast ⟨hd 0 63, false, 7, .vec 9⟩, .vbcast ⟨hd 0 48, false, 7, .scl 9⟩, .vlane 0 false 8 5 (.imm32 2),
    .brc 0 .any 48 4, .ifOp 0 ⟨48, false⟩ 6, .breakOp 0 ⟨50, false⟩ 6, .cont 0 ⟨62, false⟩ 6, .endloop 0 ⟨49, false⟩ 6] = true := by decide

/-- The cross-lane class (07 R136, R137). -/
theorem test_ill_xlane : ill [
    .shfl ⟨hd 0 48, 0, 0, 4, 5, .vec 6, 0⟩, .shfl ⟨hd 0 63, 0, 11, 4, 5, .vec 6, 0⟩, .shfl ⟨hd 0 63, 4, 0, 4, 5, .vec 6, 0⟩,
    .shfl ⟨hd 0 63, 0, 0, 4, 5, .vec 6, 1⟩, .ballot ⟨hd 0 63, 0, 1, 4, 5, .vec 0, 0⟩, .ballot ⟨hd 0 63, 0, 0, 4, 48, .vec 0, 0⟩,
    .ballot ⟨hd 0 63, 0, 0, 4, 5, .vec 1, 0⟩, .ballot ⟨hd 0 63, 1, 0, 4, 5, .imm32 1, 0⟩, .vote ⟨hd 0 63, 3, 0, 4, 5, .vec 0, 0⟩,
    .vote ⟨hd 0 63, 0, 0, 48, 5, .vec 0, 0⟩, .popm ⟨hd 0 63, 2, 0, 4, 5, .vec 0, 0⟩, .scan ⟨hd 0 63, 0, 0, 4, 5, .vec 3, 0⟩,
    .scan ⟨hd 0 63, 0, 0, 4, 5, .vec 16, 0⟩, .scan ⟨hd 0 63, 0, 0, 4, 5, .vec 0, 1⟩, .scan ⟨hd 0 63, 0, 0, 4, 5, .vec 8, 48⟩,
    .reduce ⟨hd 0 63, 3, 0, 4, 5, .vec 2, 0⟩, .reduce ⟨hd 0 63, 6, 0, 4, 5, .vec 0, 0⟩, .reduce ⟨hd 0 63, 0, 0, 4, 5, .scl 0, 0⟩,
    .matchOp ⟨hd 0 63, 2, 0, 4, 5, .vec 0, 0⟩, .matchOp ⟨hd 0 63, 1, 0, 48, 5, .vec 0, 0⟩, .elect ⟨hd 0 63, 0, 0, 4, 1, .vec 0, 0⟩,
    .lmask ⟨hd 0 63, 6, 0, 4, 0, .vec 0, 0⟩, .lmask ⟨hd 0 63, 0, 5, 4, 0, .vec 0, 0⟩] = true := by decide

/-- Memory, atomics, tasks, engines, the matrix and the system (05 R103, R109, 10 R185, 13 R239, R240, 11 R201, 12 R221, R234, 08 R170,
16 R264, 17 R283, 07 R140, 22 R358). -/
theorem test_ill_other : ill [
    .ldl ⟨hd 0 48, .b32, false, false, 8, 2, .short 3, 0⟩, .lds ⟨hd 0 63, .b32, true, false, 8, 2, .short 3, 0⟩,
    .ldl ⟨hd 0 63, .b32, false, false, 8, 2, .short 3, 1⟩, .ldl ⟨hd 0 63, .b32, false, true, 8, 2, .short 3, 0⟩,
    .stl ⟨hd 0 63, .b8, false, true, 8, 2, .short 3, 0⟩, .ldd ⟨hd 0 63, .b64, false, false, 9, 2, .short 3, 0⟩,
    .std ⟨hd 0 63, .b128, false, false, 10, 2, .short 3, 0⟩, .waitp 0 .loc (.vec 1), .atom ⟨hd 0 63, 11, .g, 6, 5, .vec 10, 0, none⟩,
    .atom ⟨hd 0 63, 0, .g, 6, 5, .vec 10, 1, none⟩, .atom ⟨hd 0 63, 0, .g, 6, 5, .imm32 1, 0, none⟩, .atomf ⟨hd 0 63, 3, .g, 6, 5, .vec 10, 0, none⟩,
    .red ⟨hd 0 63, 9, .g, 0, 5, .vec 10, 0, none⟩, .red ⟨hd 0 63, 8, .d, 0, 5, .vec 10, 0, none⟩, .red ⟨hd 0 63, 10, .d, 0, 5, .vec 10, 0, none⟩,
    .red ⟨hd 0 63, 0, .g, 1, 5, .vec 10, 0, none⟩, .redf ⟨hd 0 63, 0, .g, 0, 5, .vec 10, 1, none⟩, .tcommitCk 0 (.vec 1), .fence (hd 0 48) .t,
    .spawn (hd 0 63) 4 3 0 3, .gpark 0 (.hstate 3 0) 4, .gpark 0 (.timer 0) 4, .gpark 0 (.qne 1) 257, .qpush 0 3 (.vec 5),
    .qtryPush 0 4 5 (.imm32 6)] = true := by decide

/-- The rest of the classes of 16, 17 and the system, and an opcode that is assigned. -/
theorem test_ill_rest : ill [
    .cpin 0 2 5 (.vec 4), .cpout 0 .st 2 5 (.imm32 4), .gather (hd 0 48) 1 1 6, .scatter (hd 0 50) 1 1 6, .hwait 0 3 0, .lrset 0 9 (.imm8 7),
    .lrset 0 8 (.vec 7), .mma ⟨hd 0 48, true, 1, 8, .handle 3 6, 9⟩, .mmas ⟨hd 0 63, true, 1, 8, .handle 3 6, 9⟩ 13 1, .mzero (hd 0 48) 0 none,
    .mload (hd 0 48) 0 32 0 0, .mread (hd 0 48) 0 0 .f32 0, .mstore (hd 0 48) 0 0 0 .f32 0, .mburst 0 (.vec 1), .mstepSet 0 (.imm32 1),
    .vgrow 0 (.vec 1), .vshrink 0 (.imm32 1), .featq 0 4 (.vec 1), .unassignedOpcode 0x0040000000000000] = true := by decide

/-- A plain iadd as one operation of a pair. -/
def half (d a b : BitVec 8) (stall : BitVec 4 := 0) : PairHalf := .int .iadd ⟨hd stall 63, .s32, false, 0, d, a, .vec b, 0⟩

/-- Pairs (02 R37): five sources, three sources of one bank, one destination, a STALL in the second word, an imm32, imul. -/
theorem test_ill_pair : ill [
    .pairedIssue (.flt .ffma ⟨hd 0 63, .f32, .rne, 0, 8, 1, .vec 2, 3⟩) (half 9 4 5), .pairedIssue (half 1 4 8) (half 2 12 13),
    .pairedIssue (half 1 4 5) (half 1 6 7), .pairedIssue (half 1 4 5) (half 2 6 7 1),
    .pairedIssue (half 1 4 5) (.int .iadd ⟨hd 0 63, .s32, false, 0, 2, 6, .imm32 1, 0⟩),
    .pairedIssue (half 1 4 5) (.int .imul ⟨hd 0 63, .s32, false, 0, 2, 6, .vec 7, 0⟩)] = true ∧
    (Instr.pairedIssue (half 1 4 5 3) (half 2 6 7)).wf = true := by decide


/-! ### Single steps -/

/-- A state in which the team of a placed program is executing: the team, its group, its Chart and the state changed as given. -/
def st (t : Team → Team := id) (g : Group → Group := id) (c : Chart → Chart := id) (m : State → State := id) : State :=
  let s := placeWord State.reset 0
  m { s with
    cur := some (3, 0), agenda := []
    groups := s.groups.map fun k => g { k with teams := k.teams.map t }
    images := s.images.map fun i => { i with charts := i.charts.map c } }

/-- Register writes made in a team. -/
def rs (ws : List RegWrite) (u : Team) : Team := ws.foldl Team.apply u

/-- A vector register's write, a predicate's and a scalar's. -/
def v (l r : Nat) (x : Word) (poi : Bool := false) : RegWrite := .v l r { val := x, poi := poi }
def p (l r : Nat) (x : Bool) (poi : Bool := false) : RegWrite := .p l r { val := x, poi := poi }
def sr (r : Nat) (x : DWord) (poi : Bool := false) : RegWrite := .s r { val := x, poi := poi }

/-- The executing team and its group after an instruction. -/
def after (i : Instr) (s : State) : Option (Group × Team) :=
  match exec i s with
  | .next t => t.team? 3 0
  | _ => none

/-- What a vector register, a scalar and the flags read as once every result is ready. -/
def rv (i : Instr) (s : State) (l r : Nat) : Option Word := (after i s).map fun k => (k.2.readV 1000 l r).val
def rsc (i : Instr) (s : State) (r : Nat) : Option DWord := (after i s).map fun k => (k.2.readS 1000 r).val
def rfl' (i : Instr) (s : State) : Option Word := (after i s).map fun k => k.2.flagsAt 1000

/-- 05 R88: iadd wraps, and saturates under SAT; with poison in a source the result is poisoned (05 R87). -/
theorem test_iadd :
    rv (.iadd ⟨hd 0 63, .s32, false, 0, 4, 1, .imm8 1, 0⟩) (st (rs [v 0 1 0x7FFFFFFF])) 0 4 = some 0x80000000 ∧
    rv (.iadd ⟨hd 0 63, .s32, true, 0, 4, 1, .imm8 1, 0⟩) (st (rs [v 0 1 0x7FFFFFFF])) 0 4 = some 0x7FFFFFFF ∧
    (after (.iadd ⟨hd 0 63, .s32, false, 0, 1, 1, .imm8 1, 0⟩) (st (rs [v 0 1 5 true]))).map (fun k => k.2.readV 3 0 1) =
      some { val := 5, poi := true } ∧
    (after (.iadd ⟨hd 0 63, .s32, false, 0, 1, 1, .imm8 1, 0⟩) (st (rs [v 0 1 5 true]))).map (fun k => k.2.readV 4 0 1) =
      some { val := 6, poi := true } := by decide +kernel

/-- 04 R80's worked values of ffma. -/
theorem test_ffma_nan :
    let t := fun c => st (rs [v 0 0 0, v 0 1 0x7F800000, v 0 3 c])
    let i : Instr := .ffma ⟨hd 0 63, .f32, .rne, 0, 2, 0, .vec 1, 3⟩
    rv i (t 0xFFA01234) 0 2 = some 0xFFE01234 ∧ rfl' i (t 0xFFA01234) = some 1 ∧ rv i (t 0x3F800000) 0 2 = some 0x7FC00000 ∧
    rfl' i (t 0x3F800000) = some 1 := by decide +kernel

/-- 06 R124's worked values of cvt8x4 and cvtq. -/
theorem test_cvt8x4 :
    let s := st (rs [v 0 0 0x3F800000, v 0 1 0xC3960000, v 0 2 0x3E4CCCCD, v 0 3 0x7FC00000])
    let i : Instr := .cvt8x4 ⟨hd 0 63, .e4m3, .dyn, 8, 0, .vec 0, 8⟩
    let j : Instr := .cvtq ⟨hd 0 63, .f32, .dyn, 12, 8, .vec 0, 11⟩
    let q := st (rs [v 0 8 0x7F25F938])
    rv i s 0 8 = some 0x7F25F938 ∧ rfl' i s = some 0x10 ∧ rv j q 0 12 = some 0x3F800000 ∧ rv j q 0 13 = some 0xC3900000 ∧
    rv j q 0 14 = some 0x3E500000 ∧ rv j q 0 15 = some 0x7FC00000 := by decide +kernel

/-- 05 R95's worked values of sli, and 05 R97's of vlane. -/
theorem test_sli_vlane :
    rsc (.sli 0 0 5 0x89ABCDEF) (st (rs [sr 5 0x0123456700000000])) 5 = some 0x0123456789ABCDEF ∧
    rsc (.sli 0 2 6 0x80000000) (st) 6 = some 0xFFFFFFFF80000000 ∧
    rsc (.vlane 0 false 8 0 (.imm8 0)) (st (rs [v 0 0 0xFFFFFFF0])) 8 = some 0x00000000FFFFFFF0 ∧
    rsc (.vlane 0 true 8 0 (.imm8 0)) (st (rs [v 0 0 0xFFFFFFF0])) 8 = some 0xFFFFFFFFFFFFFFF0 := by decide +kernel

/-- A team with lanes 0 to 7 active, v4 of lane l holding l + 1, p3 true in lanes 0, 3 and 5, p4 in every lane but 6 (07 R139). -/
def scanTeam : State :=
  st fun u => rs (((List.range 8).map fun l => v l 4 (BitVec.ofNat 32 (l + 1))) ++ [p 0 3 true, p 3 3 true, p 5 3 true] ++
    ([0, 1, 2, 3, 4, 5, 7].map fun l => p l 4 true)) { u with mask := 0xFF }

/-- 07 R139's table: the words decode to the instructions, and each lane's results. -/
theorem test_scan :
    let i : Instr := .scan ⟨hd 0 4, 0, 0, 5, 4, .vec 8, 3⟩
    let j : Instr := .reduce ⟨hd 0 4, 0, 0, 6, 4, .vec 8, 3⟩
    dec 0x3900080A08100600 0 = some i ∧
    (List.range 8).map (fun l => rv i scanTeam l 5) = [1, 3, 6, 4, 9, 6, 0, 14].map some ∧
    (List.range 8).map (fun l => rv j scanTeam l 6) = [6, 6, 6, 9, 9, 14, 0, 14].map some := by decide +kernel

/-- The same table's popm.below, and ballot without a guard. -/
theorem test_ballot :
    rv (.popm ⟨hd 0 4, 1, 0, 7, 3, .vec 0, 0⟩) scanTeam 7 7 = some 3 ∧ rv (.popm ⟨hd 0 4, 1, 0, 7, 3, .vec 0, 0⟩) scanTeam 3 7 = some 1 ∧
    rv (.ballot ⟨hd 0 63, 0, 0, 8, 3, .vec 0, 0⟩) scanTeam 2 8 = some 0x29 := by decide +kernel

/-- 05 R112's example: trap 3 at 0x80 enters the handler with cause 0x13, and tret.after resumes at 0x88. -/
theorem test_trap :
    ((after (.trap 0 3) (st (fun u => { u with pc := 0x80 }))).map fun k => (k.2.inhandler, k.2.frame.cause, k.2.frame.pc, k.2.pc)) =
      some (true, 0x13, 0x80, 0) ∧
    ((after (.tretAfter 0) (st (fun u => { u with inhandler := true, frame := { Frame.none with pc := 0x80, mask := 1, tctl := 9 } }))).map
      fun k => (k.2.inhandler, k.2.pc, k.2.tctl, k.2.frame.pc)) = some (false, 0x88, 9, 0) := by decide +kernel

/-- 11 R203's example: tabort gives back the checkpoint of one register. -/
theorem test_tabort :
    let u0 := fun u : Team =>
      { rs [v 0 0 7, v 0 1 9, sr 3 4] u with
        ckpt := { n := 1, k := 0, v := [(vKey 0 0, { val := 2, poi := false })], p := [], s := [(3, { val := 1, poi := false })] }
        resume := { pc := 0x40, mask := 1, depth := 0, rdepth := 0, tctl := 0 } }
    let s := st u0
    rv (.tabort 0) s 0 0 = some 2 ∧ rv (.tabort 0) s 0 1 = some 0 ∧ rsc (.tabort 0) s 3 = some 1 ∧
    (after (.tabort 0) s).map (fun k => k.2.pc) = some 0x40 := by decide +kernel

/-- 05 R100, R101: brc.any is taken where one active lane's predicate holds; a call pushes, a ret pops. -/
theorem test_branch :
    (after (.brc 0 .any 1 4) (st (rs [p 0 1 true]))).map (fun k => k.2.pc) = some 32 ∧
    (after (.brc 0 .any 1 4) (st)).map (fun k => k.2.pc) = some 16 ∧
    (after (.call 0 0xFFFFFFFF) (st (fun u => { u with pc := 64 }))).map (fun k => (k.2.pc, k.2.rstack)) =
      some (56, [{ addr := 80, depth := 0 }]) ∧
    (after (.ret 0) (st (fun u => { u with rstack := [{ addr := 80, depth := 0 }] }))).map (fun k => (k.2.pc, k.2.rstack)) = some (80, []) := by
  decide +kernel

/-- 07 R134: if leaves the lanes of the condition, and else the others; break takes lanes out of the entries above the loop. -/
theorem test_divergence :
    (after (.ifOp 0 ⟨1, false⟩ 6) (st (fun u => rs [p 1 1 true] { u with mask := 3 }))).map (fun k => (k.2.mask, k.2.mstack, k.2.pc)) =
      some (2, [{ kind := .ifK, a := 3, b := 1 }], 16) ∧
    (after (.elseOp 0 8) (st (fun u => { u with mask := 2, mstack := [{ kind := .ifK, a := 3, b := 1 }] }))).map
      (fun k => (k.2.mask, k.2.mstack)) = some (1, [{ kind := .elseK, a := 3, b := 0 }]) ∧
    (after (.breakOp 0 ⟨63, false⟩ 6) (st (fun u =>
      { u with mask := 2, mstack := [{ kind := .ifK, a := 3, b := 1 }, { kind := .loopK, a := 7, b := 4 }] }))).map
      (fun k => (k.2.mask, k.2.mstack, k.2.pc)) = some (0, [{ kind := .ifK, a := 1, b := 1 }, { kind := .loopK, a := 7, b := 4 }], 16) := by
  decide +kernel

/-- 05 R103 to R105, 11 R198: a store reaches the team's buffer, and a load of the same bytes reads them there; a load at the window's
end traps with EXTENT. -/
theorem test_window :
    let s := st (rs [v 0 2 16, v 0 5 0x44332211])
    (after (.stl ⟨hd 0 63, .b32, false, false, 5, 2, .short 1, 0⟩) s).map (fun k => (k.2.bufByte .win 20, k.2.bufByte .win 23, k.1.window)) =
      some (some (0x11, false), some (0x44, false), []) ∧
    (after (.ldl ⟨hd 0 63, .b32, false, false, 6, 2, .short 0, 0⟩) (st (rs [v 0 2 4096]))).map (fun k => (k.2.inhandler, k.2.frame.cause, k.2.frame.addr)) =
      some (true, 0x05, 4096) := by decide +kernel

/-- 13 R238, R243: two lanes of one address are served in ascending order, each receiving the word as it found it; on its return the
register is written. -/
theorem test_atom :
    let s := st (fun u => rs [v 0 1 8, v 1 1 8, v 0 3 5, v 1 3 6] { u with mask := 3 }) (fun g => { g with window := [(8, 10)] })
    let i : Instr := .atom ⟨hd 0 63, 0, .g, 2, 1, .vec 3, 0, none⟩
    (after i s).map (fun k => (k.1.window, k.2.atoms.map fun q => q.todo.length)) = some ([(8, 10)], [2]) ∧
    (match exec i s with
     | .next t => (after (.atomicReturn 3 0) t).map fun k => (k.1.window, (k.2.readV 0 0 2).val, (k.2.readV 0 1 2).val, k.2.atoms)
     | _ => none) = some ([(8, 21)], 10, 15, []) := by decide +kernel

/-- 08 R166, R170: the last arrival turns the barrier; a push and a pop of a queue. -/
theorem test_barrier_queue :
    (after (.bara 0 1) (st)).map (fun k => k.1.bars[1]?) = some (some { members := [0], arrived := [], gen := true }) ∧
    (after (.qpush 0 3 (.imm8 0xFF)) (st)).map (fun k => k.1.queues[3]?) = some (some { entries := [0xFFFFFFFFFFFFFFFF], allow := 3 }) ∧
    rsc (.qpop 0 1 0) (st id (fun g => { g with queues := [{ entries := [7, 8], allow := 2 }] })) 1 = some 7 := by decide +kernel

/-- 12 R217's example: the key of a cut group, and of its first spawn from lane 3. -/
theorem test_key :
    let c : Chart := { placeChart with rank := 2, ext := [8, 10, 0, 0], tsbase := 100, tscoef := [3, -2, 0, 0] }
    let ts := c.tsAt (c.corner [4, 6, 0, 0] [2, 3, 1, 1])
    ts = 0x60 ∧ cutKey ts (linear c.space [4, 6, 0, 0]) = 0x00000000000000600000000000000034 ∧
    recKey 0x70 (cutKey ts (linear c.space [4, 6, 0, 0])) (spawnIndex 0 0 3) = 0x00000000000000708000000054000003 := by decide +kernel

/-- 04 R84's example: an accumulator of 2^39 under anchor −72 reads as 2^-33, and as 0 with NX in s32. -/
theorem test_mread :
    let s := st (fun u => { u with tiles := [(0, { acc := [(0, { v := 2 ^ 39, pz := false })], anc := -72, pend := false, conv := 0 })] })
    rv (.mread (hd 0 63) 8 0 .f32 0) s 0 8 = some 0x2F000000 ∧ rv (.mread (hd 0 63) 8 0 .s32 0) s 0 8 = some 0 ∧
    rfl' (.mread (hd 0 63) 8 0 .s32 0) s = some 0x10 := by decide +kernel

/-- 02 R39: the all-zero word traps with ILLEGAL_OPCODE. -/
theorem test_zero_word :
    decodeTableWord 64 0 = some (.unassignedOpcode 0) ∧
    (after (.unassignedOpcode 0) (st)).map (fun k => (k.2.inhandler, k.2.frame.cause)) = some (true, 1) := by decide +kernel

/-- The team after one step of a placed program. -/
def stepped (nbits w : Nat) : Option Team :=
  match step (State.reset.withFetchWord nbits w) with
  | .next t => (t.team? 3 0).map Prod.snd
  | _ => none

/-- A step runs what the words say: a nop goes on by 8, a bra by its target; from reset alone, one cycle passes. -/
theorem test_step :
    (stepped 64 0x34007E0000000000).map (fun u => u.pc) = some 8 ∧
    (stepped 128 (0x30017E0000000000 + 5 * 2 ^ 64)).map (fun u => u.pc) = some 40 ∧
    (match step State.reset with
     | .next t => t.cycle
     | _ => 0) = 1 := by decide +kernel

/-- A write of what an unlisted byte reads as removes the entry. -/
theorem test_memory : Memory.write (Memory.write [] 4 7) 4 0 = [] ∧ Memory.read (Memory.write [] 4 7) 4 = 7 := by decide

/-! ### For each statement, what meets its hypotheses -/

/-- A state whose executing team's context has a property. -/
theorem wit (s : State) {P : Ctx → Prop} [DecidablePred P] (h : (s.ctx?.any fun x => decide (P x)) = true) :
    ∃ x : Ctx, x.s.ctx? = some x ∧ P x := by
  cases e : s.ctx? with
  | none => rw [e] at h; cases h
  | some x => rw [e] at h; exact ⟨x, (ctx_spec e).1.symm ▸ e, of_decide_eq_true h⟩

/-- The same where the team commit of an instruction of n bytes is made, giving y. -/
theorem witC (s : State) (n : Nat) {P : Ctx → Ctx → Prop} [∀ x y, Decidable (P x y)]
    (h : (s.ctx?.any fun x => match x.teamCommit (some (x.t.pc + dwordOf n)) with
      | .ok y => decide (P x y)
      | _ => false) = true) : ∃ x y : Ctx, x.s.ctx? = some x ∧ x.CommitsTo n y ∧ P x y := by
  cases e : s.ctx? with
  | none => rw [e] at h; cases h
  | some x =>
    rw [e] at h
    have h' : (match x.teamCommit (some (x.t.pc + dwordOf n)) with
      | .ok y => decide (P x y)
      | _ => false) = true := h
    split at h'
    · rename_i y k
      exact ⟨x, y, (ctx_spec e).1.symm ▸ e, k, of_decide_eq_true h'⟩
    · cases h'

/-- `Ctx.Guarded`, in a form that is decided. -/
abbrev G (x : Ctx) (h : Head) : Prop := ∀ l, l ∈ x.lanes → (x.guardP h l).poi = false

theorem G_guarded (x : Ctx) (h : Head) : G x h ↔ x.Guarded h := Iff.rfl

/-- Lanes 0 and 31 active, p3 true in lane 31 alone. -/
def two : State := st fun u => rs [p 31 3 true] { u with mask := 0x80000001 }

theorem witness_IntegerArithmetic : ∃ x : Ctx, x.s.ctx? = some x ∧ (G x (hd 1 3) ∧ x.sel (hd 1 3) = [31]) := wit two (by decide +kernel)
theorem witness_IntegerLogic : ∃ x : Ctx, x.s.ctx? = some x ∧ (G x (hd 0 3 true) ∧ x.sel (hd 0 3 true) = [0]) := wit two (by decide +kernel)
theorem witness_IntegerSelect : ∃ x : Ctx, x.s.ctx? = some x ∧
    (G x (hd 0 63) ∧ (⟨hd 0 63, .s32, false, 1, 4, 5, .vec 6, 0⟩ : VInt).sub = 1#3 ∧
      (⟨hd 0 63, .s32, false, 0, 4, 5, .vec 6, 7⟩ : VInt).sub ≠ 1#3) := wit two (by decide +kernel)
theorem witness_FloatArithmetic : ∃ x : Ctx, x.s.ctx? = some x ∧ (G x (hd 0 63) ∧ x.sel (hd 0 63) = [0, 31]) := wit two (by decide +kernel)
theorem witness_Conversions : ∃ x : Ctx, x.s.ctx? = some x ∧
    (G x (hd 0 63) ∧ (⟨hd 0 63, .s32, .rne, 4, 2, .vec 0, 13⟩ : VCvt).src = some .i4 ∧
      (⟨hd 0 63, .s64, .rne, 4, 2, .vec 0, 0⟩ : VCvt).src = some .s32) := wit two (by decide +kernel)
/-- For the forms of shfl and ballot.idx: no index poisoned, at the first and the last lane. -/
theorem witness_CrossLane : ∃ x : Ctx, x.s.ctx? = some x ∧
    (G x (hd 0 63) ∧ (∀ l, l ∈ x.sel (hd 0 63) → (x.b32 l (.vec 7)).poi = false) ∧ (⟨hd 0 63, 1, 0, 6, 2, .vec 7, 0⟩ : XLane).sub = 1#3) :=
  wit two (by decide +kernel)
theorem witness_ScanReduce : ∃ x : Ctx, x.s.ctx? = some x ∧
    (G x (hd 0 4) ∧ ∀ l, l ∈ x.sel (hd 0 4) → (x.headP ⟨hd 0 4, 0, 0, 5, 4, .vec 8, 3⟩ l).poi = false) := wit scanTeam (by decide +kernel)
theorem witness_ScalarArithmetic : ∃ x : Ctx, x.s.ctx? = some x ∧ x.sc 0 = { val := 0#64, poi := false } := wit (st) (by decide +kernel)
/-- sget of a selector of each scope; sset of GCONF, and of RM 4 with CHK; vlane of the last lane. -/
theorem witness_ScalarMoves : ∃ x : Ctx, x.s.ctx? = some x ∧
    (selScope 0x00 = some .lane ∧ selScope 0x01 = some .team ∧ selScope 0x1B = some .wide ∧
      x.sB (.scl 1) = { val := 0x400#64, poi := false } ∧ (0x400 : Word) &&& ~~~Flag.all = 0#32 ∧ x.sB (.imm8 12) = { val := 12#64, poi := false } ∧
      ((12#64).setWidth 32 : Word).toNat < 16 ∧ ((12#64).extractLsb' 0 3).toNat ≤ 4 ∧ G x (hd 0 63) ∧
      x.sB (.imm8 31) = { val := 31#64, poi := false } ∧ (31#64).toNat < x.w) := wit (st (rs [sr 1 0x400])) (by decide +kernel)

/-- The clauses of brc: a scalar and a predicate, clean and poisoned. -/
theorem witness_ControlTransfer_brc : ∃ x : Ctx, x.s.ctx? = some x ∧
    ((x.sc 1).poi = false ∧ (x.sc 2).poi = true ∧ (∀ l, l ∈ lanesOf x.w x.t.mask → (x.t.readP x.t.t0 l 5).poi = false) ∧
      (∃ l, l ∈ lanesOf x.w x.t.mask ∧ (x.t.readP x.t.t0 l 6).poi = true)) :=
  wit (st (rs [sr 2 5 true, p 0 6 true true])) (by decide +kernel)
/-- The clauses of call and ret: 31 entries and 32, the recorded depth and another. -/
theorem witness_ControlTransfer_stack :
    (∃ x : Ctx, x.s.ctx? = some x ∧ x.t.rstack = []) ∧ (∃ x : Ctx, x.s.ctx? = some x ∧ x.t.rstack.length = 31) ∧
    (∃ x : Ctx, x.s.ctx? = some x ∧ x.t.rstack.length = 32) ∧
    (∃ x : Ctx, x.s.ctx? = some x ∧ x.t.rstack = [{ addr := 0#64, depth := 0 }] ∧ 0 = x.t.mstack.length) ∧
    (∃ x : Ctx, x.s.ctx? = some x ∧ x.t.rstack = [{ addr := 0#64, depth := 1 }] ∧ 1 ≠ x.t.mstack.length) :=
  ⟨wit (st) (by decide +kernel), wit (st fun u => { u with rstack := List.replicate 31 { addr := 0, depth := 0 } }) (by decide +kernel),
   wit (st fun u => { u with rstack := List.replicate 32 { addr := 0, depth := 0 } }) (by decide +kernel),
   wit (st fun u => { u with rstack := [{ addr := 0, depth := 0 }] }) (by decide +kernel),
   wit (st fun u => { u with rstack := [{ addr := 0, depth := 1 }] }) (by decide +kernel)⟩

/-- A team with an entry of the mask stack on top. -/
def on (k : MaskKind) : State := st fun u => { u with mstack := [{ kind := k, a := 3, b := 2 }] }

/-- The clauses of the structured instructions: pending results or none, a poisoned condition, stacks of 31 and of 32, each kind of top
and none, a loop or none. -/
theorem witness_MaskStack :
    (∃ x : Ctx, x.s.ctx? = some x ∧ x.t.pending x.t.t0 = true) ∧
    (∃ x : Ctx, x.s.ctx? = some x ∧ (x.t.pending x.t.t0 = false ∧
      ((lanesOf x.w x.t.mask).filter fun l => (x.t.readP x.t.t0 l 6).poi) ≠ [])) ∧
    (∃ x : Ctx, x.s.ctx? = some x ∧ (x.t.pending x.t.t0 = false ∧ 32 ≤ x.t.mstack.length)) ∧
    (∃ x : Ctx, x.s.ctx? = some x ∧ (x.t.pending x.t.t0 = false ∧ x.t.mstack.length = 31 ∧
      ∀ l, l ∈ lanesOf x.w x.t.mask → (x.t.readP x.t.t0 l 6).poi = false)) ∧
    (∃ x : Ctx, x.s.ctx? = some x ∧ (x.t.pending x.t.t0 = false ∧ x.t.top = none ∧ x.t.loopAt = none)) ∧
    (∃ x : Ctx, x.s.ctx? = some x ∧ (x.t.pending x.t.t0 = false ∧ x.t.top = some { kind := .ifK, a := 3, b := 2 })) ∧
    (∃ x : Ctx, x.s.ctx? = some x ∧ (x.t.pending x.t.t0 = false ∧ x.t.top = some { kind := .loopK, a := 3, b := 2 } ∧ x.t.loopAt = some 0)) :=
  ⟨wit (st fun u => { u with pend := [{ ready := 9, w := sr 1 1 }] }) (by decide +kernel), wit (st (rs [p 0 6 true true])) (by decide +kernel),
   wit (st fun u => { u with mstack := List.replicate 32 { kind := .ifK, a := 3, b := 2 } }) (by decide +kernel),
   wit (st fun u => { u with mstack := List.replicate 31 { kind := .ifK, a := 3, b := 2 } }) (by decide +kernel),
   wit (st) (by decide +kernel), wit (on .ifK) (by decide +kernel), wit (on .loopK) (by decide +kernel)⟩

/-- An atomic of the window with one address still to be served. -/
def atom0 : AtomReq := { scope := .g, isF := false, op := 0, ret := some 5, todo := [{ lane := 0, ea := 4092, b := 5, c := 0 }], ws := [] }

/-- A buffer with two entries of the window, which meet in a byte, and one of a slot. -/
def twoStores (u : Team) : Team :=
  { u with buf := [{ sp := .win, gran := 0, bytes := [(0, 1), (1, 2)], reds := [] }, { sp := .slot, gran := 2, bytes := [(5, 9)], reds := [] },
                   { sp := .win, gran := 0, bytes := [(1, 2)], reds := [] }] }

/-- An operand of 5 pending on a word, in a buffer and in a commit area; a byte of the same granule in the buffer. -/
def red5 : RedVal := { isF := false, op := 0, bound := 0, val := 5 }
def dieStores : List Entry := [{ sp := .die 0, gran := 3, bytes := [], reds := [(2, red5)] }, { sp := .die 0, gran := 3, bytes := [(4, 7)], reds := [] }]

/-- Stores that meet in a byte, and in a slot; a reduction that meets one of the commit area, and a byte beside it; a granule of the window
that another team committed last. -/
theorem witness_TeamCommit : ∃ x : Ctx, x.s.ctx? = some x ∧
    (x.t.pending x.t.t0 = false ∧ (∀ q, q ∈ x.t.atoms → q.todo = []) ∧
      (x.t.buf.filter fun e => match e.sp with
        | .die _ => true
        | _ => false) = dieStores ∧
      (dieStores[0]?).any x.areaTakes = true ∧
      (dieStores[1]?).any (Ctx.areaTakes { x with g := (dieStores.take 1).foldl Group.areaPut x.g }) = true ∧
      (findEntry x.g.carea (.die 0) 3).bind (Entry.red? · 2) = some red5 ∧
      (GranKey.loc .win 0, 1) ∈ x.g.committers ∧ x.t.idx = 0 ∧
      ∃ e, e ∈ x.t.buf ∧ e.sp = .slot ∧ (5, 9) ∈ e.bytes ∧ e.addr 5 = 133) :=
  wit (st (fun u => let u := twoStores u; { u with buf := u.buf ++ dieStores })
    fun g => { g with committers := [(.loc .win 0, 1)], carea := dieStores.take 1 }) (by decide +kernel)

/-- The clauses of commits, aborts and fences: a commit made; a checkpoint of none and of sixteen registers; tabort with a deeper stack;
gcommit where the group may commit; gabort; fences over no loads and over a load of the die for .g; xfence of a FREE handle. -/
theorem witness_Commits :
    (∃ x y : Ctx, x.s.ctx? = some x ∧ x.CommitsTo 8 y ∧ (y.spec = false ∧ y.save.commitReady y.g.gid false = true)) ∧
    (∃ x y : Ctx, x.s.ctx? = some x ∧ x.CommitsTo 8 y ∧ (x.sB (.imm8 16) = { val := 16#64, poi := false } ∧ (16#64).toInt ≤ x.c.ckpt ∧
      ckptSize x.w (16#64).toNat ≤ x.c.tbufBytes - 64 ∧ x.t.loads = [])) ∧
    (∃ x : Ctx, x.s.ctx? = some x ∧ (x.t.pending x.t.t0 = false ∧ x.t.loads = [] ∧ x.t.atoms = [] ∧ x.t.noroll = false ∧
      x.t.resume.depth ≤ x.t.mstack.length ∧ x.t.resume.rdepth ≤ x.t.rstack.length ∧ x.t.mstack.length = 1)) ∧
    (∃ x : Ctx, x.s.ctx? = some x ∧ (x.g.committed = false ∧ G x (hd 0 63) ∧ (x.handle 31).fault = none ∧ (x.handle 31).st ≠ .filling)) ∧
    (∃ x : Ctx, x.s.ctx? = some x ∧ (x.t.loads.length = 1 ∧ ∀ l, l ∈ x.t.loads → l.path = .die ∧ Scope.g ≠ .d)) ∧
    (∃ x : Ctx, x.s.ctx? = some x ∧ (x.t.atoms.length = 1 ∧ ∀ q, q ∈ x.t.atoms → q.todo ≠ [] ∧ q.scope = .g ∧ Scope.t = .t)) :=
  ⟨witC (st twoStores) 8 (by decide +kernel), witC (st) 8 (by decide +kernel), wit (on .ifK) (by decide +kernel), wit (st) (by decide +kernel),
   wit (st fun u => { u with loads := [{ path := .die, dst := [1], todo := [], ws := [v 0 1 1] }] }) (by decide +kernel),
   wit (st fun u => { u with atoms := [atom0] }) (by decide +kernel)⟩

/-- A group of two teams. -/
def pair (t : Team → Team := id) (s : Team → Team := id) : State :=
  st id fun g => { g with
    teams := g.teams.flatMap fun k => [t k, s { k with idx := 1, slot := 1 }]
    bars := g.bars.map fun b => { b with members := [0, 1] } }

/-- exit with another team running, and as the last team. -/
theorem witness_TeamEnds :
    (∃ x y : Ctx, x.s.ctx? = some x ∧ x.CommitsTo 8 y ∧ (x.t.loads = [] ∧
      ∃ k, k ∈ ((y.g.leaveBarriers y.t.idx).setTeam (y.issued 1 0).t.ended).teams ∧ k.phase ≠ .ended)) ∧
    (∃ x y : Ctx, x.s.ctx? = some x ∧ x.CommitsTo 8 y ∧ (x.t.loads = [] ∧
      (∀ k, k ∈ ((y.g.leaveBarriers y.t.idx).setTeam (y.issued 1 0).t.ended).teams → k.phase = .ended) ∧
      ∀ h, h ∈ ((y.g.leaveBarriers y.t.idx).setTeam (y.issued 1 0).t.ended).handles → h.fault = none)) :=
  ⟨witC (pair) 8 (by decide +kernel), witC (st) 8 (by decide +kernel)⟩

/-- An arrival that turns the barrier and one that does not. -/
theorem witness_Barriers :
    (∃ x y : Ctx, x.s.ctx? = some x ∧ x.CommitsTo 8 y ∧ (x.t.pending x.t.t0 = false ∧ x.t.phaseBit = false ∧ y.t.idx = x.t.idx ∧
      y.g.bars[(7 : BitVec 3).toNat]? = some { members := [0], arrived := [], gen := false } ∧
      x.g.bars[(7 : BitVec 3).toNat]? = some { members := [0], arrived := [], gen := false })) ∧
    (∃ x y : Ctx, x.s.ctx? = some x ∧ x.CommitsTo 8 y ∧ (x.t.pending x.t.t0 = false ∧ x.t.phaseBit = false ∧ y.t.idx = x.t.idx ∧
      y.g.bars[(0 : BitVec 3).toNat]? = some { members := [0, 1], arrived := [], gen := false } ∧
      x.g.bars[(0 : BitVec 3).toNat]? = some { members := [0, 1], arrived := [], gen := false })) :=
  ⟨witC (st) 8 (by decide +kernel), witC (pair) 8 (by decide +kernel)⟩

/-- Queues with entries and with none, with an allowance of one and of none. -/
theorem witness_Queues :
    (∃ x : Ctx, x.s.ctx? = some x ∧ ((15 : BitVec 4).toNat < x.c.qcount ∧ x.g.queues[(15 : BitVec 4).toNat]? = some { entries := [], allow := 4 })) ∧
    (∃ x : Ctx, x.s.ctx? = some x ∧ ((0 : BitVec 4).toNat < x.c.qcount ∧ x.g.queues[(0 : BitVec 4).toNat]? = some { entries := [7], allow := 0 })) ∧
    (∃ x y : Ctx, x.s.ctx? = some x ∧ x.CommitsTo 8 y ∧ (x.sB (.imm8 0x80) = { val := 0xFFFFFFFFFFFFFF80#64, poi := false } ∧
      y.g.queues = x.g.queues ∧ x.g.queues[(0 : BitVec 4).toNat]? = some { entries := [7], allow := 1 })) :=
  ⟨wit (st) (by decide +kernel), wit (st id fun g => { g with queues := [{ entries := [7], allow := 0 }] }) (by decide +kernel),
   witC (st id fun g => { g with queues := [{ entries := [7], allow := 1 }] }) 8 (by decide +kernel)⟩

/-- spawn into a node with a Chart, a timestamp above the task's; gpark's first arrival of two, and the last. -/
theorem witness_Tasks :
    (∃ x : Ctx, x.s.ctx? = some x ∧ (G x (hd 0 63) ∧ x.t.spawns < 256 ∧ (x.im.nodeChart (15 : BitVec 4).toNat).isSome = true ∧
      ∀ l, l ∈ x.sel (hd 0 63) → (x.v64 l (2 : BitVec 8).toNat).poi = false ∧ x.g.ts.toNat < (x.v64 l (2 : BitVec 8).toNat).val.toNat ∧
        ∀ j, j ≤ (15 : BitVec 4).toNat → (x.v l ((4 : BitVec 8).toNat + j)).poi = false)) ∧
    (∃ x y : Ctx, x.s.ctx? = some x ∧ x.CommitsTo 16 y ∧ (x.t.wait ≠ some .park ∧ (x.c.ordered = true → x.g.gcommitted = true) ∧
      x.parkPoison (.timer 1) = false ∧ x.parkEmpty (.timer 1) = false ∧ (y.g.teams[1]?).any
        fun k => decide (1 ≠ y.t.idx ∧ k.idx ≠ y.t.idx ∧ k.phase ≠ .ended ∧ k.wait ≠ some .park))) ∧
    (∃ x : Ctx, x.s.ctx? = some x ∧ (x.t.wait = some .park ∧ x.parkers.all (fun k => k.idx == x.t.idx || k.wait == some .park) = true ∧
      (∀ k, k ∈ x.parkers → (x.parkOf k).map (fun r => (r.1, r.2.2)) = (x.parkOf x.t).map fun r => (r.1, r.2.2)) ∧
      ((x.parkers.head?.bind x.parkOf).map fun r => r.1) = some (.timer 5000) ∧ x.spec = false ∧ x.save.commitReady x.g.gid false = true)) :=
  ⟨wit (st (rs [v 0 2 1]) id fun c => { c with nodeb := true, node := 15 }) (by decide +kernel), witC (pair) 16 (by decide +kernel),
   wit (st (fun u => { u with wait := some .park }) id id fun s =>
     { s with images := s.images.map fun i => { i with text := [0x59417E0000000002, 0x0000000800001388] } }) (by decide +kernel)⟩

/-- `Ctx.Clear`, `Ctx.ClearStore` and `State.Calm`, in a form that is decided. -/
abbrev C (x : Ctx) (sp : Space) (acc : List (Nat × Nat × Nat)) : Prop :=
  ∀ q, q ∈ x.t.atoms → ∀ l, l ∈ q.todo → ∀ p, p ∈ acc → (q.scope = .t ∨ p.1 = l.lane) → ∀ i, i < p.2.2 →
    x.atomHit q.scope l.ea sp (p.2.1 + i) = false

abbrev CS (x : Ctx) (sp : Space) (acc : List (Nat × Nat × Nat)) : Prop :=
  ∀ q, q ∈ x.t.atoms → q.scope = .t → ∀ l, l ∈ q.todo → ∀ p, p ∈ acc → ∀ i, i < p.2.2 → x.atomHit q.scope l.ea sp (p.2.1 + i) = false

abbrev Calm (s : State) (g : Group) : Prop :=
  ∀ t, t ∈ g.teams → t.loads = [] ∧ t.atoms = [] ∧ t.pending (s.clockOf g t) = false ∧
    (t.earliest ≤ s.clockOf g t ∨ (t.wait ≠ none ∧ t.held = none))

theorem C_clear (x : Ctx) (sp : Space) (acc : List (Nat × Nat × Nat)) : C x sp acc ↔ x.Clear sp acc := Iff.rfl

theorem CS_clearStore (x : Ctx) (sp : Space) (acc : List (Nat × Nat × Nat)) : CS x sp acc ↔ x.ClearStore sp acc := Iff.rfl

theorem Calm_calm (s : State) (g : Group) : Calm s g ↔ s.Calm g := Iff.rfl

/-- An access of a word at v2 (and of its data at v5) and the same to the FRONT slot of handle 1. -/
def acc (h : Bool := false) : MemOp := ⟨hd 0 63, .b32, h, false, 5, 2, .short 0, 1⟩

/-- A speculative group of an ordered launch; a Chart without a handler; one with a handler, the team in it and out of it; a guard
poisoned in lane 31; an ldl whose lane 0 is past the window's end and whose lane 31 is good, an atomic elsewhere. -/
theorem witness_TrapEntry :
    (∃ x : Ctx, x.s.ctx? = some x ∧ x.spec = true) ∧ (∃ x : Ctx, x.s.ctx? = some x ∧ (x.spec = false ∧ x.c.hndl = false)) ∧
    (∃ x : Ctx, x.s.ctx? = some x ∧ (x.spec = false ∧ x.t.inhandler = true)) ∧
    (∃ x : Ctx, x.s.ctx? = some x ∧ (x.spec = false ∧ x.c.hndl = true ∧ x.t.inhandler = false)) ∧
    (∃ x : Ctx, x.s.ctx? = some x ∧ (x.lanes.filter fun l => (x.guardP (hd 0 3) l).poi) = [31]) ∧
    (∃ x : Ctx, x.s.ctx? = some x ∧ ((x.t.loads.filter fun k => k.path == .loc).length < 63 ∧ x.lanes = [0, 31] ∧
      (∀ l, l ∈ x.lanes → (x.guardP (hd 0 63) l).poi = false ∧ (x.v l 2).poi = false ∧ x.ea acc l % 4 = 0) ∧
      x.ea acc 0 = 4096 ∧ (x.winPlace acc).2.2 = 4096 ∧ x.ea acc 31 = 8 ∧ x.t.atoms.length = 1 ∧ C x (x.winPlace acc).1 [(31, 8, 4)])) :=
  ⟨wit (st id (fun g => { g with nonspec := false }) fun c => { c with ordered := true }) (by decide +kernel),
   wit (st id id fun c => { c with hndl := false }) (by decide +kernel), wit (st fun u => { u with inhandler := true }) (by decide +kernel),
   wit (st) (by decide +kernel), wit (st fun u => rs [p 31 3 true true] { u with mask := 0x80000001 }) (by decide +kernel),
   wit (st fun u => rs [v 0 2 4096, v 31 2 8] { u with mask := 0x80000001, atoms := [{ atom0 with todo := [{ lane := 31, ea := 4092, b := 5, c := 0 }] }] }) (by decide +kernel)⟩

/-- TRET out of the handler; in it with a result pending, at another depth, and at the frame's; a retry and none. -/
theorem witness_TrapReturn :
    (∃ x : Ctx, x.s.ctx? = some x ∧ x.t.inhandler = false) ∧
    (∃ x : Ctx, x.s.ctx? = some x ∧ (x.t.inhandler = true ∧ x.t.pending x.t.t0 = true)) ∧
    (∃ x : Ctx, x.s.ctx? = some x ∧ (x.t.inhandler = true ∧ x.t.pending x.t.t0 = false ∧ x.t.mstack.length ≠ x.t.frame.depth)) ∧
    (∃ x : Ctx, x.s.ctx? = some x ∧ (x.t.inhandler = true ∧ x.t.pending x.t.t0 = false ∧ x.t.mstack.length = x.t.frame.depth)) ∧
    (∃ x : Ctx, x.s.ctx? = some x ∧ x.t.retry = some 2) ∧ (∃ x : Ctx, x.s.ctx? = some x ∧ x.t.retry = none) :=
  ⟨wit (st) (by decide +kernel), wit (st fun u => { u with inhandler := true, pend := [{ ready := 9, w := sr 1 1 }] }) (by decide +kernel),
   wit (st fun u => { u with inhandler := true, frame := { u.frame with depth := 1 } }) (by decide +kernel),
   wit (st fun u => { u with inhandler := true }) (by decide +kernel), wit (st fun u => { u with retry := some 2 }) (by decide +kernel),
   wit (st) (by decide +kernel)⟩

/-- The clauses of the system instructions: a clean count; STEP 64; vshrink to 16 and vgrow to 256 and to the present count; a
breakpoint asked for and not. -/
theorem witness_System :
    (∃ x : Ctx, x.s.ctx? = some x ∧ (x.sB (.imm8 64) = { val := 64#64, poi := false } ∧ x.t.pending x.t.t0 = false ∧ x.t.loads = [] ∧ x.t.atoms = [] ∧
      x.countBad false 16 = false ∧ x.countBad true 256 = false ∧ (256#64).toNat = x.t.nregs ∧ x.l.bkpt.getLsbD 15 = false)) ∧
    (∃ x : Ctx, x.s.ctx? = some x ∧ (x.sB (.scl 1) = { val := 256#64, poi := false } ∧ x.countBad true 256 = false ∧ (256#64).toNat ≠ x.t.nregs ∧
      x.c.fitsEmpty (x.countsWith (256#64).toNat) = true ∧ x.t.pending x.t.t0 = false ∧ x.t.loads = [])) ∧
    (∃ x : Ctx, x.s.ctx? = some x ∧ (x.l.bkpt.getLsbD 15 = true ∧ x.spec = false ∧ x.t.pending x.t.t0 = false)) :=
  ⟨wit (st) (by decide +kernel), wit (st fun u => { rs [sr 1 256] u with nregs := 16 }) (by decide +kernel),
   wit (st id id id fun s => { s with launches := s.launches.map fun l => { l with bkpt := 0x8000 } }) (by decide +kernel)⟩

/-- v2 of lane 0 set, and a die region of 4,096 bytes. -/
def memTeam (a : Word) : State := st (rs [v 0 2 a])

/-- ldl and lds of the last word of the window and of the spill area; ldl of the last word of a slot. -/
theorem witness_Loads :
    (∃ x : Ctx, x.s.ctx? = some x ∧ (G x (hd 0 63) ∧ (x.t.loads.filter fun k => k.path == .loc).length < 63 ∧
      ∀ l, l ∈ x.sel (hd 0 63) → (x.v l 2).poi = false ∧ x.ea acc l = 4092 ∧ x.ea acc l % 4 = 0 ∧ 0 ≤ x.ea acc l ∧
        x.ea acc l + 4 ≤ (x.winPlace acc).2.2 ∧ C x (x.winPlace acc).1 [(l, 4092, 4)])) ∧
    (∃ x : Ctx, x.s.ctx? = some x ∧ (G x (hd 0 63) ∧ (x.handle (acc true).hdl).fault = none ∧
      ∀ l, l ∈ x.sel (hd 0 63) → (x.v l 2).poi = false ∧ x.ea (acc true) l = 1084 ∧
        x.ea (acc true) l + 4 ≤ (x.winPlace (acc true)).2.2)) ∧
    (∃ x : Ctx, x.s.ctx? = some x ∧ (G x (hd 0 63) ∧ (x.t.loads.filter fun k => k.path == .spill).length < 63 ∧
      ∀ l, l ∈ x.sel (hd 0 63) → (x.v l 2).poi = false ∧ x.ea acc l = 60 ∧ x.ea acc l + 4 ≤ x.c.spill)) :=
  ⟨wit (memTeam 4092) (by decide +kernel), wit (memTeam 1084) (by decide +kernel), wit (memTeam 60) (by decide +kernel)⟩

theorem witness_DieLoads : ∃ x : Ctx, x.s.ctx? = some x ∧ (G x (hd 0 63) ∧ x.spec = false ∧
    (x.t.loads.filter fun k => k.path == .die).length < 63 ∧
    ∀ l, l ∈ x.sel (hd 0 63) → (x.v l 2).poi = false ∧ x.ea acc l % 4 = 0 ∧ dieOk (x.ea acc l) 4 x.l.dsize = true) :=
  wit (memTeam 4092) (by decide +kernel)

/-- stl to the window and to a slot, std, each at the last word. -/
theorem witness_Stores :
    (∃ x : Ctx, x.s.ctx? = some x ∧ (G x (hd 0 63) ∧ x.c.hsize % 64 = 0 ∧ x.t.buf.length + (x.sel (hd 0 63)).length ≤ x.bufCap ∧
      (∀ k, k ∈ x.t.buf → k.sp = (x.winPlace acc).1 → k.reds = []) ∧
      ∀ l, l ∈ x.sel (hd 0 63) → (x.v l 2).poi = false ∧ x.ea acc l % 4 = 0 ∧ 0 ≤ x.ea acc l ∧
        x.ea acc l + 4 ≤ (x.winPlace acc).2.2 ∧ CS x (x.winPlace acc).1 [(l, 4092, 4)] ∧ x.t.atoms.length = 1 ∧
        ∀ d, d ∈ x.dataOf acc l → d.poi = false)) ∧
    (∃ x : Ctx, x.s.ctx? = some x ∧ ((x.handle (acc true).hdl).fault = none ∧
      (x.handle (acc true).hdl).st ≠ .draining ∧
      (∀ l, l ∈ x.sel (hd 0 63) → (x.v l 2).poi = false ∧ x.ea (acc true) l % 4 = 0 ∧ 0 ≤ x.ea (acc true) l ∧
        x.ea (acc true) l + 4 ≤ (x.winPlace (acc true)).2.2))) ∧
    (∃ x : Ctx, x.s.ctx? = some x ∧ (G x (hd 0 63) ∧ (∀ k, k ∈ x.t.buf → k.sp = .die x.g.die → k.reds = []) ∧
      ∀ l, l ∈ x.sel (hd 0 63) → (x.v l 2).poi = false ∧ x.ea acc l % 4 = 0 ∧ dieOk (x.ea acc l) 4 x.l.dsize = true ∧
        ∀ d, d ∈ x.dataOf acc l → d.poi = false)) :=
  ⟨wit (st fun u => twoStores (rs [v 0 2 4092] { u with atoms := [{ atom0 with scope := .t, todo := [{ lane := 0, ea := 8, b := 5, c := 0 }] }] }))
     (by decide +kernel), wit (memTeam 1084) (by decide +kernel),
   wit (memTeam 4092) (by decide +kernel)⟩

/-- sts of the last word; waitp with the count at its bound. -/
theorem witness_SpillStores :
    (∃ x : Ctx, x.s.ctx? = some x ∧ (G x (hd 0 63) ∧ x.c.spill ≤ 4096 ∧
      ∀ l, l ∈ x.sel (hd 0 63) → (x.v l 2).poi = false ∧ x.ea acc l % 4 = 0 ∧ 0 ≤ x.ea acc l ∧ x.ea acc l + 4 ≤ x.c.spill ∧
        ∀ d, d ∈ x.dataOf acc l → d.poi = false)) ∧
    (∃ x : Ctx, x.s.ctx? = some x ∧ (x.sB (.imm8 1) = { val := 1#64, poi := false } ∧
      (x.t.loads.filter fun k => k.path == .die).length = (1#64).toNat)) :=
  ⟨wit (memTeam 60) (by decide +kernel), wit (st fun u => { u with loads := [{ path := .die, dst := [1], todo := [], ws := [v 0 1 1] }] }) (by decide +kernel)⟩

/-- An atomic on v2 with v3 and v4. -/
def atm (scope : Scope) (op : BitVec 4 := 0) : AtomOp := ⟨hd 0 63, op, scope, 6, 2, .vec 3, 4, none⟩

/-- Two lanes of one word, the last of the window, for the integer and the floating forms; a comparison; an atomic outstanding. -/
theorem witness_GroupAtomics :
    (∃ x : Ctx, x.s.ctx? = some x ∧ (G x (hd 0 63) ∧ (atm .g).scope = .g ∧ x.sel (hd 0 63) = [0, 31] ∧
      (∀ l, l ∈ x.sel (hd 0 63) → (x.v l 2).poi = false ∧ (x.v l 2).val = 4092 ∧ ((x.v l 2).val.toNat : Int) + 4 ≤ x.c.winSize x.g ∧
        (x.atomB (atm .g) false l).poi = false ∧ (x.atomB (atm .g) true l).poi = false ∧ (x.v l 4).poi = false))) ∧
    (∃ x : Ctx, x.s.ctx? = some x ∧ (x.s.cur = some (3, 0) ∧ x.g.status = .running ∧ x.t.phase = .running ∧ x.t.atoms = [atom0] ∧
      ∀ l, l ∈ atom0.todo → l.ea % 4 = 0 ∧ poisonIn x.g.wpois l.ea 4 = false)) :=
  ⟨wit (st fun u => rs [v 0 2 4092, v 31 2 4092] { u with mask := 0x80000001 }) (by decide +kernel),
   wit (st fun u => { u with atoms := [atom0] }) (by decide +kernel)⟩

/-- A lane's part of an atomic of a word of the window. -/
def lane0 : AtomLane := { lane := 0, ea := 8, b := 5, c := 0 }

/-- What the team's view of a word of the window holds. -/
def viewOf (x : Ctx) (a : Nat) : List (Byte × Bool) := Ctx.locRead x .win a 4

/-- One of .t at a word that the buffer holds in part, an earlier atomic served; the same left to be performed; one of .d, and a reduction of
.d onto a word where one pends; one of .d outstanding; one of .d of a speculative group with no lane. -/
theorem witness_Atomics :
    (∃ x : Ctx, x.s.ctx? = some x ∧ (G x (hd 0 63) ∧ x.sel (hd 0 63) = [0] ∧
      (∀ l, l ∈ x.sel (hd 0 63) → (x.atomCheck (atm .t) false l).isOk = true) ∧
      (∀ q, q ∈ x.t.atoms → q.todo = []) ∧ x.t.atoms.length = 1 ∧ x.t.late = false ∧ x.t.buf.length + 1 ≤ x.bufCap ∧
      (∀ e, e ∈ x.t.buf → e.sp = .win → e.reds = []) ∧ (viewOf x 0).map Prod.fst = [1, 2, 0, 0] ∧
      ∀ b, b ∈ viewOf x 0 → b.2 = false)) ∧
    (∃ x : Ctx, x.s.ctx? = some x ∧ (G x (hd 0 63) ∧ x.sel (hd 0 63) = [0] ∧ x.t.late = true ∧
      (∀ l, l ∈ x.sel (hd 0 63) → (x.atomCheck (atm .t) false l).isOk = true))) ∧
    (∃ x : Ctx, x.s.ctx? = some x ∧ (x.spec = true ∧ G x (hd 0 5) ∧ x.sel (hd 0 5) = [])) ∧
    (∃ x : Ctx, x.s.ctx? = some x ∧ (x.spec = false ∧ G x (hd 0 63) ∧ x.sel (hd 0 63) = [0] ∧
      (∀ l, l ∈ x.sel (hd 0 63) → (x.atomCheck (atm .d) false l).isOk = true ∧ regionKey 0 (x.v l 2).val.toNat = 200) ∧
      x.t.buf.length + 1 ≤ x.bufCap ∧ (findEntry x.t.buf (.die x.g.die) 3).any (fun e => !e.bytesIn 2 && e.red? 2 == some red5) = true)) ∧
    (∃ x : Ctx, x.s.ctx? = some x ∧ (x.s.cur = some (3, 0) ∧ x.g.status = .running ∧ x.t.phase = .running ∧
      x.t.atoms = [{ atom0 with scope := .d }] ∧ x.c.ordered = false ∧ (∀ l, l ∈ atom0.todo → x.s.served x.g.die (regionKey 0 l.ea) = true) ∧
      ∀ l, l ∈ atom0.todo → dieOk l.ea 4 x.l.dsize = true ∧ l.ea % 4 = 0 ∧
        poisonIn x.l.rpois (x.g.die * 2 ^ 28 + regionKey 0 l.ea) 4 = false)) :=
  ⟨wit (st fun u => twoStores (rs [v 0 2 0, v 0 3 5] { u with atoms := [{ atom0 with todo := [], ws := [v 0 5 9] }] })) (by decide +kernel),
   wit (st fun u => rs [v 0 2 0, v 0 3 5] { u with late := true }) (by decide +kernel),
   wit (st id (fun g => { g with nonspec := false }) fun c => { c with ordered := true }) (by decide +kernel),
   wit (st fun u => rs [v 0 2 200, v 0 3 5] { u with buf := dieStores.take 1 }) (by decide +kernel),
   wit (st fun u => { u with atoms := [{ atom0 with scope := .d }] }) (by decide +kernel)⟩

/-- Main memory with a record of one element of four bytes at its own place. -/
def recMem : Memory := [(0x10002, 1), (0x10008, 1), (0x1000B, 1), (0x1000E, 1), (0x10011, 1), (0x10030, 2)]

/-- Main memory with a record of 1,024 elements of a byte. -/
def matMem : Memory := [(0x10002, 1), (0x10009, 4), (0x1000B, 1), (0x1000E, 1), (0x10011, 1)]

/-- A team whose image has that record, on a mapped page. -/
def recTeam (t : Team → Team := id) (g : Group → Group := id) : State :=
  st t g id fun s => { s with
    mem := recMem, pages := [{ va := 0x10000, size := 0x10000, r := true, w := true, home := 0, peers := [] }]
    images := s.images.map fun i => { i with recs := 0x10000, nrecs := 1 } }

/-- The record's bits. -/
def recBits0 : BitVec 512 := BitVec.ofNat 512 (0x10000 + 2 ^ 64 + 2 ^ 88 + 2 ^ 112 + 2 ^ 136 + 2 ^ 385)

/-- A command of handle 31 on that record. -/
def cmd0 (k : CmdKind) (slot : Nat) (idx : List Word := []) : Cmd :=
  { kind := k, hdl := 31, r := 0, lrec := recBits0, lrec2 := 0, off := 0, idx := idx, slot := slot, team := 0, at_ := 0 }

/-- The record passes as a fill's, as a reducing drain's, as a gather's and as a scatter's; the image fits and the queue has room. -/
theorem witness_EngineCommands : ∃ x : Ctx, x.s.ctx? = some x ∧ ((x.handle 31).fault = none ∧ (x.handle 31).st = .free ∧
    ((x.s.metRecords x.im [0]).recordFor x.im 0 .cpin).toOption = some recBits0 ∧
    (∀ u, u ∈ [.cpout true, .gather, .scatter] → ((x.s.metRecords x.im [0]).recordFor x.im 0 u).isOk = true) ∧
    x.sB (.imm8 0) = { val := 0#64, poi := false } ∧ G x (hd 0 63) ∧ (∀ l, l ∈ x.sel (hd 0 63) → (x.v l 7).poi = false) ∧
    (cmd0 .cpin (shadowSlot 31 (x.handle 31))).need = 4 ∧ (cmd0 .gather 0 [0]).need ≤ x.c.hsize ∧
    x.mayEnter = true ∧ x.g.areaUsed < x.c.areaCap) :=
  wit (recTeam) (by decide +kernel)

/-- A record's 64 bytes to be performed for another team, and then for the first. -/
def lr0 (t : Nat) : LrWrite := { g := 3, t := t, a := 0x10000, bs := List.replicate 64 7 }

/-- A FREE handle and a FULL one; lrset of the last record; a write of another team's outstanding; one to perform behind it. -/
theorem witness_Handles :
    (∃ x : Ctx, x.s.ctx? = some x ∧ ((x.handle 31).fault = none ∧ (x.handle 31).st = .free ∧ (1 : BitVec 4).getLsbD 0 = true)) ∧
    (∃ x : Ctx, x.s.ctx? = some x ∧ ((x.handle 0).fault = none ∧ (x.handle 0).st = .full)) ∧
    (∃ x : Ctx, x.s.ctx? = some x ∧ (x.sB (.imm8 0) = { val := 0#64, poi := false } ∧ x.spec = false ∧ 0 ≤ (0#64).toInt ∧
      (0#64).toInt < x.im.nrecs ∧ ∀ j, j < 8 → (x.sc (40 + j)).poi = false)) ∧
    (∃ x : Ctx, x.s.ctx? = some x ∧ (x.s.lrq.length = 1 ∧ ∀ w, w ∈ x.s.lrq → ¬(w.g = x.g.gid ∧ w.t = x.t.idx))) ∧
    (let s := { recTeam with lrq := [lr0 1, lr0 0] }
     s.lrq[1]? = some (lr0 0) ∧ (lr0 0).bs.length = 64 ∧ (lr0 0).a % 8 = 0 ∧ ∀ j, j < 1 → (s.lrq[j]?).any (fun v => v.t == 0) = false) :=
  ⟨wit (st) (by decide +kernel), wit (st id fun g => { g with handles := [{ Handle.free with st := .full }] }) (by decide +kernel),
   wit (recTeam) (by decide +kernel), wit (st id id id fun s => { s with lrq := [lr0 1] }) (by decide +kernel), by decide +kernel⟩

/-- mread of a column group of f32 ends at the last register; mstore of it at the end of the window, with room in the buffer. -/
theorem witness_TileMoves : ∃ x : Ctx, x.s.ctx? = some x ∧ (G x (hd 0 63) ∧ x.sel (hd 0 63) = [0] ∧
    x.sel (hd 0 63) ≠ [] ∧ (248 : BitVec 8).toNat + Cv.f32.regs ≤ x.t.nregs ∧
    (∀ l, l ∈ x.sel (hd 0 63) → (x.v l 2).poi = false ∧ (x.v l 2).val.toNat + 16 * (1 : BitVec 8).toInt = 4064 ∧
      (x.laneCv 0 .f32 l).bytes = 32 ∧ ∀ q, q ∈ (x.readGroup 0 (x.laneCv 0 .f32 l) 3 l).1 → q.2 = false) ∧
    (x.bufPuts ((x.sel (hd 0 63)).flatMap fun _ => storeEntries .win 4064 (List.replicate 32 0))).isOk = true ∧
    (∀ k, k ∈ x.t.buf → k.sp = .win → k.reds = []) ∧ x.t.buf.length + 3 * (x.sel (hd 0 63)).length ≤ x.bufCap) :=
  wit (memTeam 4048) (by decide +kernel)

/-- An mma with B in handle 1 at v4's offset, the format word in v6. -/
def mm : MmaOp := ⟨hd 0 63, false, 0, 8, .handle 1 4, 6⟩

/-- Two lanes of one octet with an e4m3 by e4m3 product and B in handle 1. -/
def matTeam (t : Team → Team := id) (h : Handle → Handle := id) : State :=
  st (fun u => t { rs [v 0 4 64, v 1 4 64, v 0 6 0xBB, v 1 6 0xBB, v 0 9 0xF0, v 1 9 0x0F, sr 3 0xFF] u with mask := 3 })
    (fun g => { g with handles := [Handle.free, h { Handle.free with st := .full }] }) id fun s =>
      { s.setSlot (slotKey 0 0 0) { Slot.reset with matLast := some 0 } with
        mem := matMem, pages := [{ va := 0x10000, size := 0x10000, r := true, w := true, home := 0, peers := [] }]
        images := s.images.map fun i => { i with recs := 0x10000, nrecs := 1 } }

/-- The tile form's slot serves the octet's record, in a state. -/
abbrev TileReady (x : Ctx) (st : HState) : Prop :=
  (x.handle 1).fault = none ∧ 1024 ≤ x.c.hsize ∧
    ((x.metTile 0 false).tileRecords 0 ((x.fusedSets { mm with b := .tile 1 0 5 } [0, 1]).map fun s => s.fw.cls) false).isOk = true ∧
    Ctx.tagServes (x.handle 1).tag 0 (x.sc 5).val false = true ∧ (x.handle 1).st = st

/-- No lane selected; two lanes of one octet, B in a FULL slot and the quarters free, or DRAINING; the tile form with the slot's tag serving
it, its slot FULL or FILLING; an mmas of eight steps held to three; the ends of mburst's values. -/
theorem witness_MatrixProducts :
    (∃ x : Ctx, x.s.ctx? = some x ∧ (G x (hd 0 5) ∧ x.sel (hd 0 5) = [] ∧ (x.handle 1).fault = none)) ∧
    (∃ x : Ctx, x.s.ctx? = some x ∧ (G x (hd 0 63) ∧ (x.handle 1).fault = none ∧ x.sel (hd 0 63) = [0, 1] ∧
      x.matPoison mm (x.sel (hd 0 63)) (fun l => (x.aMask 9 l).poi) (x.sc (3 : BitVec 6).toNat).poi = [] ∧
      (∀ l, l ∈ x.sel (hd 0 63) → ∀ m, m ∈ x.sel (hd 0 63) → x.matOfs mm l = x.matOfs mm m ∧ x.matWord mm l = x.matWord mm m) ∧
      (∀ s, s ∈ x.fusedSets mm (x.sel (hd 0 63)) → (FWord.of s.word).any (fun f => decide (8 + f.aRun ≤ x.t.nregs)) = true ∧
        s.ofs % 64 = 0 ∧ s.ofs + s.need ≤ x.c.hsize ∧ s.lanes.Nodup) ∧ (x.handle 1).st = .full ∧
      (let sets := x.fusedSets mm [0, 1]
       x.matStart (x.matPasses [0, 1] sets fun _ => 4) ≤ x.t.t0 ∧ x.matStart (x.matPasses [0, 1] sets (x.sparseWork mm 9 3).cycles) ≤ x.t.t0) ∧
      x.t.quota = none)) ∧
    (∃ x : Ctx, x.s.ctx? = some x ∧ ((x.handle 1).fault = none ∧ (x.handle 1).st = .draining)) ∧
    (∃ x : Ctx, x.s.ctx? = some x ∧ TileReady x .full) ∧ (∃ x : Ctx, x.s.ctx? = some x ∧ TileReady x .filling) ∧
    (∃ x : Ctx, x.s.ctx? = some x ∧ (x.t.quota = some 3 ∧ (x.sparseSteps mm 9 3 1).length = 8 ∧
      (x.sparseWork mm 9 3).more (x.fusedSets mm (x.sel (hd 0 63))) = true)) ∧
    (∃ x : Ctx, x.s.ctx? = some x ∧ (x.sB (.imm8 0) = { val := 0#64, poi := false } ∧ x.sB (.imm8 0xFF) = { val := -1#64, poi := false })) :=
  ⟨wit (st fun u => u) (by decide +kernel), wit (matTeam) (by decide +kernel), wit (matTeam id fun h => { h with st := .draining }) (by decide +kernel),
   wit (matTeam id fun h => { h with tag := 0x800000000000 }) (by decide +kernel),
   wit (matTeam id fun h => { h with tag := 0x800000000000, st := .filling }) (by decide +kernel),
   wit (matTeam fun u => { u with quota := some 3 }) (by decide +kernel),
   wit (st) (by decide +kernel)⟩

/-- Two integer halves with different heads; one with a scalar half; two scalar halves. -/
theorem witness_PairedIssue :
    (∃ x : Ctx, x.s.ctx? = some x ∧ (G x (hd 3 63) ∧ G x (hd 0 63))) ∧
    (Instr.pairedIssue (half 1 4 5 3) (half 2 6 7)).wf = true ∧
    (Instr.pairedIssue (half 1 4 5) (.smov ⟨0, 0, 1, 0, .scl 2, 0⟩)).wf = true ∧
    (Instr.pairedIssue (.smov ⟨0, 0, 3, 0, .scl 4, 0⟩) (.smov ⟨0, 0, 1, 0, .scl 2, 0⟩)).wf = true :=
  ⟨wit two (by decide +kernel), by decide, by decide, by decide⟩

/-- A group and a team of a state, with a property. -/
theorem witT (s : State) {P : Group → Team → Prop} [∀ g t, Decidable (P g t)]
    (h : ((s.team? 3 0).any fun k => decide (P k.1 k.2)) = true) : ∃ g t, s.team? 3 0 = some (g, t) ∧ P g t := by
  cases e : s.team? 3 0 with
  | none => rw [e] at h; cases h
  | some k => rw [e] at h; exact ⟨k.1, k.2, rfl, of_decide_eq_true h⟩

/-- A lane's part of a load of the die region's last word, nothing of it in the buffer; an atomic that is served. -/
def part0 : LoadPart := { lane := 0, r := 4, sx := false, sp := .die 0, a := 4092, own := List.replicate 4 none }
def served0 : AtomReq := { atom0 with todo := [], ws := [v 0 2 10] }

/-- Results ready and not; a load of two lanes, of which one returns, and one still to be performed; two atomics. -/
def flying : State := st fun u =>
  { u with
    pend := [{ ready := 0, w := sr 1 1 }, { ready := 9, w := v 0 1 1 }, { ready := 0, w := .flags 1 }]
    loads := [{ path := .loc, dst := [3], todo := [], ws := [v 0 3 1, v 1 3 2] }, { path := .die, dst := [4], todo := [part0], ws := [] }]
    atoms := [served0, { served0 with ws := [v 1 2 15] }] }

theorem witness_Returns :
    (∃ g t, flying.team? 3 0 = some (g, t) ∧ (g.status = .running ∧ t.phase = .running ∧
      ∃ e, e ∈ t.pend ∧ e.ready ≤ flying.clockOf g t)) ∧
    ∃ x : Ctx, x.s.ctx? = some x ∧ (x.s.cur = some (3, 0) ∧ (x.t.loads.findIdx? fun k => k.path == .loc) = some 0 ∧
      (x.t.loads.findIdx? fun k => k.path == .die) = some 1 ∧ x.t.loads[1]? = some { path := .die, dst := [4], todo := [part0], ws := [] } ∧
      x.t.loadFree 1 = true ∧ x.loadServed 1 = true ∧ (x.noteReads [.gran x.g.die 63]).isSome = true ∧ 3 < part0.own.length ∧
      x.t.atoms = [served0, { served0 with ws := [v 1 2 15] }] ∧ served0.todo = []) := ⟨witT flying (by decide +kernel), wit flying (by decide +kernel)⟩

/-- A state at a cycle. -/
def at_ (cyc : Nat) (s : State) : State := { s with cycle := cyc }

/-- Ready for 4,096 cycles; yielding for 64; held for 4,096; and a vgrow that takes the last registers of the slot. -/
theorem witness_TeamTimers :
    (∃ g t, (at_ 4096 (st)).team? 3 0 = some (g, t) ∧ (g.status = .running ∧ t.phase = .running ∧ t.promoted = none ∧
      t.readySince = some 0 ∧ 0 + 4096 ≤ (at_ 4096 (st)).clockOf g t)) ∧
    (let s := at_ 4096 (st fun u => { u with yielding := some { since := 4032, teams := [(3, 1)] }, burst := some { left := 1, since := 0 } })
     ∃ g t, s.team? 3 0 = some (g, t) ∧ (g.status = .running ∧ t.phase = .running ∧ s.clockOf g t = 4096 ∧
       t.yielding = some { since := 4032, teams := [(3, 1)] } ∧ t.burst = some { left := 1, since := 0 })) ∧
    (let s := st (fun u => { u with nregs := 16, wait := some (.vgrow 256) })
     ∃ g t, s.team? 3 0 = some (g, t) ∧ (g.status = .running ∧ t.phase = .running ∧ t.wait = some (.vgrow 256) ∧
       s.firstAsk g t = true ∧ t.pend = [] ∧ g.regsOn 32 t.slot + 32 * (256 - t.nregs) ≤ 65536 ∧
       32 * (256 - t.nregs) ≤ s.freeRegs g.die g.core t.slot)) :=
  ⟨witT _ (by decide +kernel), witT _ (by decide +kernel), witT _ (by decide +kernel)⟩

/-- A trap held until the frontier; a team that waits alone at a queue. -/
theorem witness_DeviceTraps :
    (∃ x : Ctx, x.s.ctx? = some x ∧ (x.t.idx = 0 ∧ x.g.status = .running ∧ x.t.phase = .running ∧ x.spec = false ∧ x.c.hndl = true ∧
      x.t.inhandler = false ∧ x.t.held = some { cause := 5, lanes := 1, perLane := true, addr := 7 })) ∧
    (∃ x : Ctx, x.s.ctx? = some x ∧ (x.t.idx = 0 ∧ x.g.status = .running ∧ x.t.phase = .running ∧ x.spec = false ∧ x.c.hndl = true ∧
      x.t.inhandler = false ∧ x.g.stuck x.t = true ∧ x.g.teams.length = 1)) :=
  ⟨wit (st fun u => { u with held := some { cause := 5, lanes := 1, perLane := true, addr := 7 } }) (by decide +kernel),
   wit (st fun u => { u with wait := some (.qpop 0) }) (by decide +kernel)⟩

/-- The state of a placed program, its launch changed. -/
def dev (l : Launch → Launch) (g : Group → Group := id) (c : Chart → Chart := id) (m : State → State := id) : State :=
  st id g c fun s => m { s with launches := s.launches.map l, cur := none }

/-- A measure. -/
def ms0 : Meas := { Meas.zero with dur := 5, passes := 1 }

/-- A launch of dies 0 and 1 whose bands are all to come. -/
def fresh2 (l : Launch) : Launch := { l with origin := 0, dies := [0, 1] }

/-- A band to form, a re-cut to make, a measure at home and one at die 1. -/
theorem witness_Cutting :
    (dev fresh2).bandDue 2 = true ∧
    (dev (fun l => { fresh2 l with held := List.replicate 64 (ms0, 1) }) id fun c => { c with recutOff := false }).recutDue 2 = true ∧
    ((dev fun l => { fresh2 l with fwd := [(0, ms0, 1)] }).launch? 2).map (fun l => (l.home, l.fwd.find? fun f => f.1 == 0)) =
      some (0, some (0, ms0, 1)) ∧
    ((dev fun l => { fresh2 l with fwd := [(1, ms0, 1)] }).launch? 2).map (fun l => (l.home, l.fwd.find? fun f => f.1 == 1)) =
      some (0, some (1, ms0, 1)) ∧
    ((dev fresh2).islandOn (ctlIsland 0) = true ∧ (dev fresh2).islandOn (ctlIsland 1) = true) := by decide +kernel

/-- The first point of a band and the last one, also the last of the other dimension. -/
theorem witness_BandsPartition :
    let c := { placeChart with rank := 2, ext := [5, 40, 0, 0] }
    let l := { placeLaunch 2 1 with shape := [2, 3, 1, 1], origin := 3, bearing := 0 }
    c.rank ≤ 4 ∧ (∀ d, d < 4 → 1 ≤ nth l.shape d 1) ∧ c.z = 1 ∧ c.space = [5, 40, 1, 1] ∧ l.bandTop c = 27 ∧
    (∀ d, d < 4 → d ≠ c.z → nth [4, 26, 0, 0] d < nth c.space d 1) ∧ (∀ d, d < 4 → d ≠ c.z → nth [0, 3, 0, 0] d < nth c.space d 1) := by
  decide +kernel

/-- The placed group in its die's share, with nothing of it started. -/
def shared (g : Group) : Group := { g with status := .share, teams := [], drawn := false }

theorem witness_Distribution :
    (let s := dev (fun l => { l with shares := [[3], [], [], []] }) shared
     s.keyFree (s.core 0 63).drawn = [] ∧ (s.launch? 2).any (fun l => s.mayDraw l 0 63) = true ∧
     (s.launch? 2).map (fun l => l.share 0) = some [3] ∧ s.keyFree [3] = [3] ∧ s.launches.length = 1 ∧ s.desks.length = 4 ∧
     (∀ i, i ∈ [3] → (s.group? i).any (fun g => !g.isRec) = true) ∧ s.deskFree 0 (drawRank 63) = true) ∧
    (dev (fun l => { l with shares := [[3], [], [], []] }) shared id fun s => { s with desks := s.desks.set 0 (0, stealRank 1) }).deskFree 0
      (drawRank 63) = false ∧
    (dev (fun l => { l with phase := .stopped }) shared id fun s => s.setCore 0 0 { Core.start with drawn := [3] }).localDue 2 0 0 = true ∧
    (dev (fun l => { l with dies := [0, 1], shares := [[3], [], [], []] }) shared id fun s => { s with cycle := 256 }).exchangeDue 2 0 = true ∧
    (dev (fun l => { fresh2 l with shares := [[3], [], [], []], seen := [[], [1, 0], [], []] }) shared).stealFrom 2 1 = some 0 ∧
    (let s := at_ 9 (dev (fun l => { fresh2 l with inbox := [(0, 8, 3), (0, 7, 3), (0, 7, 1), (1, 2, 0)] }) shared)
     (s.launch? 2).map (fun l => (l.nextThief 0, l.inbox.all fun p => decide (p.2.2 < 4))) = some (some (0, 7, 1), true) ∧
     s.serveDue 2 0 = true) ∧
    (let s := dev (fun l => { fresh2 l with replies := [(1, [3])] }) shared
     (s.launch? 2).map (fun l => (l.replies.find? (fun r => r.1 == 1), s.unplaced l [3])) = some (some (1, [3]), [3]) ∧
     s.replyDue 2 1 = true) := by decide +kernel

/-- A core whose local list holds the placed group. -/
def listed (g : Group → Group) : State :=
  dev id (fun g' => g { g' with status := .drawn }) id fun s => s.setCore 0 0 { Core.start with drawn := [3] }

/-- A record of a task at timestamp 5. -/
def rec0 : Rec := { words := List.replicate 16 7, ts := 5, key := 9, parent := 3 }

/-- A state whose image has the record, its group loading with a preload of record r. -/
def loading (r : Nat) (g : Group → Group := id) (c : Chart → Chart := id) : State :=
  let p : PreCmd :=
    { cmd := { cmd0 .cpin 0 with r := r, lrec := if r = 0 then recBits0 else 0 }, ofs := 0, fault := if r = 0 then none else some (0x0A, 1) }
  let s := recTeam id fun k => g { k with status := .loading, pres := [p] }
  { s with cycle := 100000, images := s.images.map fun i => { i with charts := i.charts.map c } }

/-- A fresh group, a record group and a saved one to start; a preload made; an element of one; a group loading with no preload left. -/
theorem witness_Dispatching :
    ((listed fun g => { g with teams := [] }).nextStart 0 0).any (fun x => !x.g.saved && (x.s.group? x.g.gid).isSome) = true ∧
    ((listed fun g => { g with teams := [], isRec := true, recs := [rec0] }).nextStart 0 0).any
      (fun x => !x.g.saved && x.g.isRec && (x.s.group? x.g.gid).isSome) = true ∧
    ((listed fun g => { g with saved := true }).nextStart 0 0).any (fun x => x.g.saved && (x.s.group? x.g.gid).isSome) = true ∧
    ((loading 0).preloadDone 3).isSome = true ∧
    (let es : List FillElem := [{ ofs := 4088, bytes := [1, 2, 3, 4], poi := false }, { ofs := 4092, bytes := [5, 6, 7, 8], poi := true }]
     ∃ e, e ∈ es ∧ e.bytes[3]? = some 8 ∧ ∀ e', e' ∈ es → (e'.ofs ≤ 4095 ∧ 4095 < e'.ofs + e'.bytes.length) → e' = e) ∧
    (let s := dev id fun g => { g with status := .loading }
     (s.groupChart? 3).any fun q =>
       q.1.status == .loading && q.1.preFault.isNone && q.1.pres.isEmpty && decide (q.1.meas.start ≤ s.cycle)) = true := by decide +kernel

/-- An entry of the commit area in the die region. -/
def area0 (bytes : List (Nat × Byte)) (reds : List (Nat × RedVal)) : Entry := { sp := .die 0, gran := 1, bytes := bytes, reds := reds }

/-- The placed group, and a second one of its launch. -/
def twoGroups (g h : Group → Group) (c : Chart → Chart) : State :=
  dev id id c fun s => { s with groups := s.groups.flatMap fun k => [g k, h { k with gid := 4, key := 7 }] }

/-- A preload of a record that is not there, in a group that is speculative and in one that is not; a postload to check; an ended group.
A group commit: bytes and a single reduction in the commit area, one drain, a contested granule; another group that holds the granule,
in an unordered launch; a later one that has read it, in an ordered one. -/
theorem witness_GroupEnds :
    (let s := loading 1 (fun g => { g with nonspec := false }) fun c => { c with ordered := true }
     (s.preFaultNow 3).map (fun k => (k.2, s.isSpec k.1)) = some ((0x0A, 1), true)) ∧
    (let s := loading 1
     (s.preFaultNow 3).map (fun k => (k.2, s.isSpec k.1)) = some ((0x0A, 1), false)) ∧
    (dev id (fun g => { g with status := .ended }) fun c => { c with post := [some (0, 0), none, none, none] }).postDue 3 = true ∧
    (dev id fun g => { g with status := .ended }).finalDue 3 = true ∧
    (let r : RedVal := { isF := false, op := 0, bound := 0, val := 5 }
     let s := dev id fun g => { g with carea := [area0 [(0, 9)] [], { area0 [] [(2, r)] with gran := 2 }] }
     (s.groupChart? 3).any (fun q =>
       q.1.carea.all (fun e => e.poi.isEmpty) && q.1.drains.isEmpty && (q.1.goodPosts q.2).isEmpty &&
       q.1.carea.flatMap Entry.reds == [(2, r)] && q.1.carea.flatMap Entry.bytes == [(0, 9)]) = true ∧
     (s.launch? 2).any (fun l => !poisonIn l.rpois 136 4) = true) ∧
    (((recTeam id fun g => { g with cmds := [{ cmd0 (.cpout .st) 0 with at_ := 1 }] }).groupChart? 3).any fun q =>
      q.1.drains.length == 1 && q.1.drains.all fun d => d.kind.rop == 0 && d.map == [(0x10000, 0)]) = true ∧
    (((dev id fun g => { g with carea := [area0 [(0, 9)] []], contested := [.loc (.die 0) 1] }).groupChart? 3).any fun q =>
      (q.1.writeSet q.2 false).any fun k => q.1.contested.contains k.1) = true ∧
    (let s := twoGroups (fun g => { g with carea := [area0 [(0, 9)] []] }) (fun g => { g with carea := [area0 [(1, 9)] []] }) id
     ((s.groupChart? 3).any (fun q => q.1.writeSet q.2 false == [(.loc (.die 0) 1, true)] && !q.2.ordered) &&
       (s.group? 4).any fun k => k.activeG && k.launch == 2 && k.holds (.loc (.die 0) 1) == some true) = true) ∧
    (let s := twoGroups (fun g => { g with carea := [area0 [(0, 9)] []], cmds := [{ cmd0 (.cpout .st) 0 with at_ := 1 }] })
       (fun g => { g with reads := [.gran 0 1, .range 0x10003 0x1000F] }) fun c => { c with ordered := true }
     ((s.groupChart? 3).any (fun q => q.2.ordered && decide (q.1.key.toNat < 7) && q.1.mainBytes q.2 false == [(0x10000, 0x10003)]) &&
       (s.group? 4).any fun k => k.activeG && k.launch == 2 && k.key == 7 && (s.chartOf (placeLaunch 2 1) k).isSome) = true) := by
  decide +kernel

/-- A bin of die 0, node 15, whose timer began at cycle 0. -/
def binned (k : Option DWord) (l : Launch) : Launch := { l with bins := [{ die := 0, node := 15, recs := [rec0], timers := [(k, 0)] }] }

/-- The placed group parked. -/
def parkedOn (on : ParkOn) (g : Group) : Group := { g with status := .parked, parked := some { on := on, addr := 0, since := 0 } }

theorem witness_FrontierSteps :
    (let s := dev (binned none) id (fun c => { c with nodeb := true, node := 15 }) fun s => { s with cycle := 1 }
     (s.timerNow 2 0 15 5).map (fun k => (k.2.2, k.2.1.nodeChart 15, k.2.1.nodes[15]?, ((k.1.bin 0 15).set none).length)) =
       some (none, some 0, some (1, 1), 1)) ∧
    (let s := dev (binned (some 5)) id (fun c => { c with nodeb := true, node := 15, ordered := true }) fun s => { s with cycle := 1 }
     (s.timerNow 2 0 15 5).map (fun k => (k.2.2, ((k.1.bin 0 15).set (some 5)).length)) = some (some 5, 1)) ∧
    (dev fresh2 id (fun c => { c with ordered := true }) fun s => { s with cycle := 256 }).reportDue 2 0 = true ∧
    (dev fresh2 id (fun c => { c with ordered := true }) fun s => { s with cycle := 256 }).reportDue 2 1 = true ∧
    (dev (fun l => { fresh2 l with reports := [9, 9, 9, 9], front := [8, 8, 8, 8] }) id fun c => { c with ordered := true }).frontierDue 2 = true ∧
    (dev id (parkedOn (.timer 7)) id fun s => { s with cycle := 7 }).parkTimerDue 3 = true ∧
    (dev id (parkedOn (.hstate 0 1))).parkDue 3 = true := by decide +kernel

/-- Groups running, loading and speculative, their grace over; a budget over; a core in reset and one not. -/
theorem witness_Stopping :
    (let s := dev id fun g => { g with grace := some 0 }
     (s.groupChart? 3).any (fun q => q.1.status == .running && (s.launch? 2).any fun l => !State.specOf l q.2 q.1 && decide (q.1.die < l.shares.length)) = true ∧
     (s.group? 3).any (fun g => g.grace.any fun t => decide (t ≤ s.cycle)) = true) ∧
    ((dev id fun g => { g with status := .loading }).group? 3).map (fun g => g.status) = some .loading ∧
    (let s := dev id (fun g => { g with nonspec := false }) fun c => { c with ordered := true }
     (s.groupChart? 3).any fun q => (s.launch? 2).any fun l => State.specOf l q.2 q.1) = true ∧
    ((dev id).group? 3).any (fun g => g.teams.length == 1 && g.teams.all fun k =>
      k.phase == .running && k.idx == 0 && k.held.isNone && k.mats.isEmpty && decide (Calm (dev id) g)) = true ∧
    (dev id).quiet 3 = true ∧
    (let s := st (fun u => { u with loads := [{ path := .die, dst := [4], todo := [part0], ws := [] }] }) (fun g => { g with grace := some 0 }) id fun s =>
       s.setCore 0 0 { Core.start with reset := some 40000 }
     s.quiet 3 = false ∧ (s.group? 3).map (fun g => (g.status, g.stop, g.grace)) = some (.running, false, some 0)) ∧
    (let s := dev fun l => { l with phase := .stopped }
     (s.launch? 2).map (fun l => l.phase) = some .stopped ∧ (s.groupsOf 2).any Group.resident = true ∧
       ∀ g, g ∈ s.groupsOf 2 → Calm s g) ∧
    (dev id id id fun s => { s with cycle := 800000 }).budgetDue 2 = true ∧ ((dev id).core 3 63).reset = none ∧
    ((dev id id id fun s => s.setCore 3 63 { Core.start with reset := some 40000 }).core 3 63).reset = some 40000 := by decide +kernel

/-- A core reset of a core with one group that has committed, and with one that has not. -/
theorem witness_Stopping_reset :
    (let s := dev id fun g => { g with committed := true }
     ((s.residents 0 0).map fun g => (g.gid, s.isSpec g, g.committed)) = [(3, false, true)] ∧ (s.core 0 0).drawn = [] ∧
       (s.groupChart? 3).isSome = true ∧ ((s.launch? 2).any fun l => decide (l.faults.length < 64)) = true) ∧
    ((dev id).residents 0 0).map Group.committed = [false] := by decide +kernel

/-- The placed group with a fill of handle 31, FILLING, from a record at r's place. -/
def filling (k : CmdKind) (bits : BitVec 512) : State :=
  at_ 1 (recTeam id fun g => { g with
    handles := g.handles.set 31 { Handle.free with st := .filling, prior := .full }, cmds := [{ cmd0 k 1 with lrec := bits }] })

/-- A record beyond every page. -/
def farBits : BitVec 512 := recBits0 + BitVec.ofNat 512 (2 ^ 40)

/-- The same group with a drain. -/
def drained (bits : BitVec 512) (chk : Bool) (cmds : Bool := true) : State :=
  recTeam id fun g => { g with
    handles := g.handles.set 31 { Handle.free with st := .draining, chk := chk }
    cmds := if cmds then [{ cmd0 (.cpout .st) 0 with lrec := bits }] else []
    written := if cmds then [] else [{ cmd0 (.cpout .st) 0 with lrec := bits }] }

theorem witness_EngineSteps :
    ((filling .cpin recBits0).fillNow 3 31).any (fun e => e.f.bad.isNone && e.f.got.length == 1 && decide (31 < e.g.handles.length)) = true ∧
    (∀ k, k ∈ ([.cpin, .fetch false false, .fetch false true] : List CmdKind) →
      ((filling k farBits).fillNow 3 31).any (fun e => e.k.kind == k && e.g.status == .running && e.f.bad.isSome) = true) ∧
    ((drained recBits0 true).drainNow 3 31).map (fun k => k.2.2) = some none ∧
    ((drained farBits true).drainNow 3 31).map (fun k => (k.1.status, k.2.2)) = some (.running, some 0x10000010000) ∧
    (drained recBits0 false false).drainWritten 3 31 = true ∧
    ((recTeam id).page? 0x1FFFF).map (fun p => p.va) = some 0x10000 ∧ (((recTeam id).core 3 63).tcache.contains 0x10000) = false ∧
    ((recTeam id).launch? 2).isSome = true := by decide +kernel

/-- A team that waits at a cpin for a queue entry. -/
def atCpin : State :=
  let s := recTeam fun u => { u with wait := some .queueEntry, qturn := some 0 }
  { s with
    cur := none
    images := s.images.map fun i => { i with text := ((encode (.cpin 0 31 0 (.imm8 0))).map fun w => [w.1, w.2.getD 0]).getD [] } }

theorem witness_EngineSteps_accept :
    atCpin.acceptDue 3 0 = true ∧
    (({ atCpin.atIssue 3 0 with cur := some (3, 0) } : State).ctx?).map (fun x => x.fetch.toOption) = some (some (.cpin 0 31 0 (.imm8 0))) := by
  decide +kernel

/-- Two nops and then an mma of the tile form, e4m3, whose record has 1,024 elements of a byte. -/
def nearMma : State :=
  let s := recTeam (rs [v 0 9 0xBB])
  let ws := ((encode (.mma ⟨hd 0 63, false, 0, 8, .tile 0 0 5, 9⟩)).map fun w => [w.1, w.2.getD 0]).getD []
  { s with
    mem := matMem
    images := s.images.map fun i => { i with text := [0x34007E0000000000, 0x34007E0000000000] ++ ws } }

/-- Four prefetches in flight; and an mma ahead whose B is not there, e4m3 from a record of 1,024 bytes. -/
theorem witness_EngineSteps_prefetch :
    (∃ x : Ctx, x.s.ctx? = some x ∧ 4 ≤ x.prefetches) ∧
    (nearMma.prefetched 3 0 2).isSome = true :=
  ⟨wit (st id fun g => { g with cmds := List.replicate 4 (cmd0 (.fetch false true) 0) }) (by decide +kernel), by decide +kernel⟩

/-- A report of die 1 to die 0, and a later one, both under way until a cycle. -/
def onWay (s : State) (at_ : Nat := 0) : State :=
  let p (id : Nat) (k : Key) : Packet := { id := id, src := 1, dst := 0, at_ := at_, what := .report 2 1 k [] 3 }
  { s with packets := [p 7 5, p 8 6] }

/-- A packet to deliver and one that would overtake it; a drain point and its end; a router to go down, and one to wake; a launch with a
place for every count. -/
theorem witness_Network :
    (let s := onWay (dev id)
     (s.deliverable 7).map (fun p => s.held p) = some false ∧ (s.deliverable 8).map (fun p => s.held p) = some true) ∧
    (let s := at_ 32768 State.reset
     s.drain = none ∧ (s.drains + 1) * 32768 ≤ s.cycle ∧ ∀ e, e ∈ s.routers → s.routerUp (e.1 / 64, e.1 % 64) = true) ∧
    (let s := onWay { at_ 33792 State.reset with drain := some 33792 } 33792
     s.drain = some 33792 ∧ 33792 ≤ s.cycle ∧ s.packets.length = 2 ∧ ∀ p, p ∈ s.packets → 33792 ≤ p.at_) ∧
    (let s := at_ 65536 (onWay (dev id))
     s.overdue { id := 7, src := 1, dst := 0, at_ := 0, what := .report 2 1 5 [] 3 } = true ∧
       (s.deliverable 7).map (fun p => s.held p) = some false ∧ s.forced = some (.packetDelivery 7)) ∧
    (let s := { at_ 33792 (onWay (dev id)) with drain := some 33792, drains := 1 }
     s.packets.all s.overdue = true ∧ s.forced = some (.packetDelivery 7)) ∧
    (at_ 512 State.reset).sleepy 3 63 = true ∧
    (onWay (State.reset.setRouter 0 0 { down := true, idle := 0, waking := none })).wakeDue 0 0 = true ∧
    ((dev id).launch? 2).map (fun l => l.seen.length) = some 4 := by decide +kernel

/-- A change of point over; RETAIN left and entered; quarters idle for 32 cycles; the estimate at 95 % of the limit, a slot
at 105 °C; an estimate above the limit and one below, and a slot at 106 °C; islands to step down, one below its cap; a busy island to
switch off. -/
theorem witness_Islands :
    (let s := State.reset.setSlot 5 { Slot.reset with changing := some 4 }
     (s.slotOf 5).changing = some 4 ∧ s.vacant 5 = false) ∧
    (let s := State.reset.setSlot 5 { Slot.reset with leaving := true }
     (s.slotOf 5).leaving = true ∧ (s.groupsOn 5).length = 0) ∧
    (let s := { dev id with retain := [1024] }
     s.retain.contains 1024 = true ∧ s.islandAsked 1024 = true) ∧
    (State.reset.islandOn 1024 = true ∧ State.reset.islandAsked 1024 = false ∧ State.reset.islandOn 1063 = true ∧
      State.reset.islandAsked 1063 = false) ∧
    (at_ 32 (State.reset.setSlot 5 { Slot.reset with matLast := some 0 })).rampDue 5 = true ∧
    (let s := at_ 8000 State.reset
     s.islandAt + 8000 ≤ s.cycle ∧ 2660 ≤ s.limit ∧ s.limit * 95 ≤ 2660 * 100 ∧ (∀ e, e ∈ s.slots → e.2.hot = false) ∧
       ∀ p, p ∈ [(5, 105)] → p.2 ≤ 105) ∧
    State.reset.limit < 2801 ∧ 2659 * 100 < State.reset.limit * 95 ∧ (1023 < 1024 ∧ 105 < 106 ∧ (2800 : Nat) ≤ State.reset.limit) ∧
    (dev id).stepOrder = [slotKey 0 0 0] ∧ (dev id).islandClass (slotKey 0 0 0) = some (0, 0) ∧
    (let x := { Slot.reset with point := .f2 }
     x.hot = false ∧ x.cap.code < x.point.code ∧ Slot.reset.point.code ≤ Slot.reset.cap.code) ∧
    (((dev id).slotOf 0).point ≠ .off ∧ ((dev id).groupsOn 0).map Group.gid = [3]) := by decide +kernel

/-- A resident group with a buffer and a commit area; a core of fourteen errors and one of fifteen; a region's last word; an error that a
copy meets; a sample of a running team. -/
theorem witness_Maintenance :
    (let s := st twoStores fun g => { g with carea := [area0 [(0, 9)] []] }
     (s.group? 3).map (fun g => (g.resident, decide (g.die < 4 ∧ g.core < 64), (g.team? 0).map (fun k => (k.buf[1]?).isSome), g.carea.length)) =
       some (true, true, some true, 1)) ∧
    (let s := st fun u => { u with ckpt := { u.ckpt with n := 16 } }
     (s.core 0 0).holds ⟨.window 3 0, 4096⟩ = true ∧ (s.core 0 0).holds ⟨.ckpt 3 0 [.v 0 15], 4096⟩ = true ∧
       (s.group? 3).any (fun g => (g.team? 0).any fun k => k.ckpt.n == 16) = true ∧ vKey 0 14 ≠ vKey 0 15) ∧
    (∀ n, n ∈ [14, 15] → (recent 0 ((State.reset.setCore 0 0 { Core.start with errs := List.replicate n 0 }).core 0 0).errs).length = n) ∧
    ((dev id).launch? 2).any (fun l => l.live && l.dies.contains 0 && decide (511 * 8 < l.dsize)) = true ∧
    (let s := { State.reset with mbad := [8] }
     ∃ w, w ∈ s.mbad ∧ 71 / 8 ≤ w ∧ w * 8 < 71 + 1) ∧
    (let s := dev (fun l => { l with sample := 1000 }) id id (at_ 1000)
     s.sampleDue 2 0 = true ∧ (s.runningOn 2 0).length = 1 ∧ (s.launch? 2).map (fun l => decide (0 < l.sampled.length)) = some true) := by
  decide +kernel

/-- A launch with every group done. -/
def finished (l : Launch → Launch) : State := dev l (fun g => { g with status := .done, teams := [] })

/-- The start of dispatch; a save whose pages allow it; every way to complete; a wait whose time is over. -/
theorem witness_LaunchSteps :
    (dev fun l => { l with phase := .admitted }).startDue 2 = true ∧ ((dev id).launch? 2).map (fun l => l.load) = some none ∧
    (let s := { finished fun l => { l with save := some 0x10000, dsize := 64, nc := 1 } with pages := (recTeam id).pages }
     s.saveDue 2 = true ∧ (s.launch? 2).any fun l => decide (l.saveBytes.length = 64 ∧ l.savedTo = 0 ∧
       ∀ i, i < l.saveBytes.length → s.mayWrite ((0x10000 + i : Nat) : Int) 1 = true)) ∧
    (let st := fun s : State => (s.launch? 2).map s.completion
     st (finished id) = some (some .success) ∧ st (finished fun l => { l with nfaults := 1 }) = some (some .groupFault) ∧
     st (finished fun l => { l with phase := .cancelled, status := .cancelled }) = some (some .cancelled) ∧
     st { dev fun l => { l with phase := .admitted, preds := [9] } with
       copies := [{ id := 9, form := .get, va := 0, len := 0, preds := [], session := 0, tag := 0, done := some .copyFault, got := [], moved := 0 }] } =
         some (some .dependenceFailed)) ∧
    ([{ id := 4, target := 2, deadline := 0, session := 1, tag := 5 }] : List Waiting).find? (fun w => w.id == 4 && decide (w.deadline ≤ 0)) =
      some { id := 4, target := 2, deadline := 0, session := 1, tag := 5 } := by decide +kernel

/-- A command's head. -/
def head0 : CmdHead := { session := 1, tag := 5, rsv := 0, status := 0, len := 65504 }

/-- `State.idle` and `State.takes`, in a form that is decided. -/
abbrev Idle (s : State) (h : CmdHead) : Prop :=
  (∀ j, j ∈ s.queued → sessionOf j.cmd ≠ h.session) ∧ ∀ e, e ∈ s.edits → sessionOf e.cmd ≠ h.session

theorem Idle_idle (s : State) (h : CmdHead) : Idle s h ↔ s.idle h := Iff.rfl

abbrev Takes (s : State) (h : CmdHead) : Prop :=
  h.rsv = 0 ∧ h.status = 0 ∧ h.len.toNat ≤ 65504 ∧ s.tooMany h = false ∧ s.takenUp = none ∧ Idle s h

theorem Takes_takes (s : State) (h : CmdHead) : Takes s h ↔ s.takes h := Iff.rfl

/-- Waits of 64 sessions, and 256 of one. -/
def crowd (n : Nat) (session : Nat → Nat) : State :=
  { State.reset with waits := (List.range n).map fun i => { id := i, target := 0, deadline := 9, session := session i, tag := 0 } }

/-- Bad headers; sessions and commands at their limits; a session with a command in line, and one with another's. -/
theorem witness_CommandHeaders :
    (({ head0 with rsv := 1 } : CmdHead).rsv ≠ 0 ∧ ({ head0 with status := 1 } : CmdHead).status ≠ 0 ∧
      65504 < ({ head0 with len := 65505 } : CmdHead).len.toNat) ∧
    (crowd 256 fun _ => 1).tooMany head0 = true ∧ (crowd 255 fun _ => 1).tooMany head0 = false ∧
    (crowd 64 fun i => i + 2).tooMany head0 = true ∧ (crowd 63 fun i => i + 2).tooMany head0 = false ∧ Takes (dev id) head0 ∧
    (let s := { State.reset with queued := [{ at_ := 0, cmd := .query head0 }] }
     s.takenUp = none ∧ s.tooMany head0 = false ∧ ¬ Idle s head0 ∧ Idle s { head0 with session := 2 }) ∧
    (let s := { State.reset with queued := [{ at_ := 0, cmd := .query head0 }, { at_ := 1, cmd := .islandRead head0 }], takenUp := some 0 }
     s.takenUp.isSome = true ∧ (s.heldEdit (.query head0)).isNone = true ∧ (s.queued.filter fun q => q.cmd == .query head0).length = 1) := by
  decide +kernel

/-- A command that stood in line leaves it when it is taken up, the later ones of its session staying; its launch is stamped with its
arrival (20 R323, 22 R354). -/
theorem test_taken_up :
    (let s := { at_ 7 State.reset with queued := [{ at_ := 2, cmd := .query head0 }, { at_ := 3, cmd := .query head0 }] }
     match s.takeUp 0 with
     | .next t => decide (t.queued = [{ at_ := 3, cmd := .query head0 }] ∧ t.responses.length = 1 ∧ t.takenUp = none)
     | _ => false) = true ∧
    ({ at_ 7 State.reset with takenUp := some 2 } : State).arrival = 2 := by decide +kernel

/-- MAP of one page. -/
def map0 : MapOps := { va := 0x10000, len := 0x10000, size := 0x10000, r := true, w := true, home := 3, peers := [], rsv := false }

/-- A state whose page at 0x10000 a drain holds, its write not done, with an edit in line. -/
def heldPage (i : Instr) : State :=
  let s := recTeam id fun g => { g with written := [cmd0 (.cpout .st) 0] }
  { s with cur := none, takenUp := some 0, edits := [{ since := 0, cmd := i, pages := [0x10000] }] }

/-- MAP of a page that is new, of a die whose stack has no room for it, of part of a page, of one of another home, of the same rights and
of less, held by a drain and not. -/
theorem witness_Mapping_map :
    Takes State.reset head0 ∧ MapOps.bad map0 = false ∧ MapOps.bad { map0 with va := 0x10001 } = true ∧
    State.reset.stackUsed 3 + 0x10000 ≤ stackBytes ∧
    (let s := { State.reset with pages := [{ va := 2 ^ 40, size := stackBytes, r := true, w := true, home := 3, peers := [] }] }
     stackBytes < s.stackUsed 3 + 0x10000 ∧ ∀ p, p ∈ s.pages → 0 < p.size ∧ p.meets 0x10000 0x10000 = false ∧ p.inside 0x10000 0x10000 = false) ∧
    (let p : Page := { va := 0, size := 2 ^ 21, r := true, w := true, home := 3, peers := [] }
     0 < p.size ∧ p.meets 0x10000 0x10000 = true ∧ p.inside 0x10000 0x10000 = false) ∧
    (let s := recTeam id
     (s.pages.map fun p => (p.va, p.size, p.home, p.r, p.w)) = [(0x10000, 0x10000, 0, true, true)] ∧ map0.home ≠ 0 ∧
     (s.pages.filter fun p => p.inside 0x10000 0x10000).length * map0.size = map0.len ∧
     (∀ p, p ∈ s.pages → p.meets 0x10000 0x10000 = true → p.inside 0x10000 0x10000 = true) ∧
     MapOps.bad { map0 with home := 0, w := false } = false ∧ s.edited 0x10000 0x10000 = false) ∧
    (heldPage (.map head0 map0)).edited 0x10000 0x10000 = true := by decide +kernel

/-- UNMAP out of range, of nothing, of a page; an UNMAP and a MAP in line, held and not. -/
theorem witness_Mapping_unmap :
    (0x10001 % 2 ^ 16 ≠ 0 ∧ (0 : Nat) < 0x10000 ∧ 0x10000 % 2 ^ 16 = 0 ∧ 0x10000 + 0x10000 ≤ 2 ^ 48) ∧
    (let s := recTeam id
     (∃ p, p ∈ s.pages ∧ p.inside 0x10000 0x10000 = true) ∧ (∀ p, p ∈ s.pages → p.meets 0x20000 0x10000 = false)) ∧
    (∀ i, i ∈ ([.unmap head0 0x10000 0x10000, .map head0 { map0 with w := false }] : List Instr) →
      ((heldPage i).heldEdit i).isSome = true ∧ (heldPage i).edited 0x10000 0x10000 = true ∧
      ({ heldPage i with groups := [] } : State).edited 0x10000 0x10000 = false) := by decide +kernel

/-- A copy admitted with id 9. -/
def copying (f : CopyForm) (len : Nat) (ps : List Nat) : State :=
  { recTeam id with
    copies := [{ id := 9, form := f, va := 0x10000, len := len, preds := ps, session := 1, tag := 5, done := none, got := [(0x10000, 9)], moved := 0 },
      { id := 8, form := .get, va := 0, len := 0, preds := [], session := 1, tag := 6, done := some .success, got := [], moved := 0 },
      { id := 7, form := .get, va := 0, len := 0, preds := [], session := 1, tag := 7, done := some .copyFault, got := [], moved := 0 }] }

/-- The longest PUT, GET and XFER, and too many predecessors, and an unknown one; predecessors that wait, failed and are done. -/
theorem witness_Copying_admitted :
    Takes (copying .get 4 []) head0 ∧
    ([8] : List Nat).all (copying .get 4 []).admittedId = true ∧ (copying .get 4 []).admittedId 77 = false ∧ ([8] : List Nat).length ≤ 4 ∧
    4 < ([8, 8, 8, 8, 8] : List Nat).length ∧ 65472 < 65473 ∧ 2 ^ 40 < 2 ^ 40 + 1 ∧
    (copying .get 4 [7]).predFailed [7] = true ∧ (copying .get 4 [9]).predFailed [9] = false ∧ (copying .get 4 [9]).predsDone [9] = false ∧
    (copying .get 4 [8]).predsDone [8] = true ∧ (copying .get 4 [8]).predFailed [8] = false := by decide +kernel

/-- A PUT and a GET at a page's end, and past it; what a peer answers; a peer allowed and refused. -/
theorem witness_Copying_done :
    (copying .get 4 []).waits.length = 0 ∧ ((copying .get 4 []).copies.find? fun k => k.id == 9 && k.done.isNone).isSome = true ∧
    (copying .get 4 []).firstBad true 0x1FFFC 4 = none ∧ (copying .get 4 []).firstBad true 0x1FFFC 5 = some 0x20000 ∧
    (copying .get 4 []).firstBad false 0x1FFFC 4 = none ∧ (copying .get 4 []).firstBad false 0x1FFFC 5 = some 0x20000 ∧
    (∀ i, i < 4 → (copying (.put [1, 2, 3, 4]) 4 []).mayWrite ((0x1FFFC + i : Nat) : Int) 1 = true) ∧
    ((PeerEnd.takes [1, 2, 3, 4] = .takes [1, 2, 3, 4] ∧ ([1, 2, 3, 4] : List Byte).length = 4) ∧ 0x2040 - 0x2000 ≤ (List.replicate 64 (0 : Byte)).length) ∧
    (let s := { recTeam id with pages := (recTeam id).pages.map fun p : Page => { p with peers := [77] } }
     s.peerAllowed 77 0x1FFFC 4 = true ∧ s.peerAllowed 77 0x1FFFD 4 = false ∧ s.peerAllowed 78 0x10000 4 = false ∧
     s.firstBad false 0x1FFFC 4 = none ∧
     ({ s with pages := s.pages.map fun p : Page => { p with r := false } } : State).firstBad false 0x1FFFC 4 = some 0x1FFFC) := by decide +kernel

/-- LAUNCH's operands. -/
def launch0 : LaunchOps :=
  { image := 1, chart := 0, args := [], budget := 5, dies := 1, dsize := 64, nc := 1, load := none, save := none, preds := [] }

/-- An image that is not there; a Chart that is not; Charts that pass and fail; operands that fail; a predecessor unknown; images to load
where no page is; waits and cancels. -/
theorem witness_Launching :
    let s := dev id
    Takes s head0 ∧ (s.image? 7).isNone = true ∧ (s.image? 1).any (fun im => (im.charts[1]?).isNone && im.charts[0]?.any fun c =>
      s.launchChartsOk im c && !LaunchOps.bad launch0 c && LaunchOps.bad { launch0 with nc := 65 } c) = true ∧
    ((dev id id fun c => { c with rsvZero := false }).image? 1).any (fun im => im.charts[0]?.any fun c => !s.launchChartsOk im c) = true ∧
    s.imagesOk launch0 1 = true ∧ s.imagesOk { launch0 with load := some 0 } 1 = false ∧
    s.admittedId 9 = false ∧ s.admittedId 2 = true ∧ (s.launch? 2).map (fun l => (l.phase, l.saved)) = some (.dispatching, false) ∧
    ((dev fun l => { l with phase := .complete }).launch? 2).map (fun l => l.phase) = some .complete ∧
    ((dev fun l => { l with saved := true }).launch? 2).map (fun l => l.saved) = some true := by decide +kernel

/-- Continuations: an unknown one, one of a launch still under way, one whose launch is complete; waits for copies. -/
theorem witness_Launching_more :
    (∀ ph, ph ∈ ([.stopped, .complete] : List LPhase) →
      let s := { dev fun l => { l with phase := ph } with conts := [(5, 2)] }
      (∀ e, e ∈ s.conts → e.1 ≠ 6) ∧ (s.conts.find? fun e => e.1 == 5) = some (5, 2) ∧
      (s.launch? 2).any (fun l => l.phase == ph && (s.rootChart l).isSome) = true) ∧
    ((5 : Nat) ≠ 0 ∧ (1 : BitVec 8).toNat < 16 ∧ 16 ≤ (16 : BitVec 8).toNat) ∧
    (let s := copying .get 4 []
     s.admittedId 8 = true ∧ (s.launch? 8).isNone = true ∧ (s.copies.find? fun c => c.id == 8).any (fun c => c.done == some .success) = true ∧
     (s.copies.find? fun c => c.id == 9).any (fun c => c.done.isNone) = true) := by decide +kernel

/-- An image at 0x10000, of a level, with one Chart of zeros and a native block of n bytes: the header, the code directory's one entry,
the Chart. -/
def header (level : Byte) (n : Byte := 32) (magic : Byte := 0x54) : State :=
  { recTeam id with
    mem := [(0x10000, 0x4C), (0x10001, 0x4E), (0x10002, 0x46), (0x10003, magic)] ++ (if level = 0 then [] else [(0x10008, level)]) ++
      [(0x10010, 0x90), (0x10015, 1), (0x10038, 0x80), (0x1003C, 0x10), (0x10084, 0x90), (0x10088, n)] }

/-- An image at 0x10000 with no native block: a Chart of 16 registers and an Eceel block of one record, the example of 22 R357, with
more bytes. -/
def eceelImage (more : Memory := []) : State :=
  { recTeam id with
    mem := [(0x10000, 0x4C), (0x10001, 0x4E), (0x10002, 0x46), (0x10003, 0x54), (0x10010, 0x90), (0x10015, 1), (0x10030, 0x80),
      (0x10034, 48), (0x100A0, 2), (0x100A3, 1), (0x100A6, 3)] ++ more ++ [(0x100AE, 0x40), (0x100BD, 2)] }

/-- The example of 22 R357 is iadd v3, v1, v2 where the registers stand for themselves; with a bit of a reserved field it is refused. -/
theorem test_eceel :
    (eceelNative [0x00400000000000000003000001000002] []).map (·.map (decodeWords · 0#64 false |>.toOption)) =
      some [some (.iadd ⟨hd 15 63, .s32, false, 0, 3, 1, .vec 2, 0⟩), some (.nop 0)] ∧
    eceelOk [0x00400000000000000003000001000002] = true ∧ eceelOk [0x00400000000001000003000001000002] = false := by decide +kernel

/-- A record iadd v(30+i), v(20+i), v(10+i) of 22 R357. -/
def farRec (i : Nat := 0) : Nat := 0x0040 * 2 ^ 112 + (30 + i) * 2 ^ 48 + (20 + i) * 2 ^ 24 + 10 + i

/-- Under a Chart of 8 registers three records of nine registers in all keep 4 bytes per lane above SPILL, 16 with the alignment of
10 R180; where SPILL and these pass 4,096 there is no code; one of them alone keeps none (22 R357). -/
theorem test_eceel_spilled :
    let code (n spill : Nat) := eceelSpilled ((List.range n).map fun i => farRec i) [{ placeChart with regs := 8, spill := spill }]
    eceelNative [farRec] [{ placeChart with regs := 8 }] = none ∧ eceelOk [farRec] = true ∧ (code 1 0).map (fun q => q.2.2) = some 0 ∧
    (code 3 0).map (fun q => q.2.2) = some 16 ∧ (code 3 4080).isSome = true ∧ (code 3 4081).isNone = true := by decide +kernel

/-- That record executed: v20 and v10 give v30, and no native register changes. -/
theorem test_eceel_bound :
    let q := (eceelSpilled [farRec] [{ placeChart with regs := 8 }]).getD ([], [], 0)
    let none_ : VReg := { val := 0#32, poi := false }
    let far (t : Team) (r : Nat) : Word := (Store.get none_ t.vx (xKey 0 (virtualBase + r))).val
    let put (m : Store VReg) (r : Nat) (y : Word) : Store VReg := Store.put none_ m (xKey 0 (virtualBase + r)) { val := y, poi := false }
    let s := st (fun u => rs [v 0 2 9] { u with vx := put (put [] 10 5) 20 7 }) id id fun s =>
      { s with images := s.images.map fun i => { i with text := q.1, binds := q.2.1 } }
    ((match runBound s with
      | .next u => u.team? 3 0
      | _ => none : Option (Group × Team)).map fun k =>
        let t := k.2.settle 1000
        [far t 10, far t 20, far t 30, (t.readV 1000 0 0).val, (t.readV 1000 0 2).val]) = some [5, 7, 12, 0, 9] := by decide +kernel

/-- LOAD of an image without a native block: its records hold and are translated; with bits 111 and not all ones in D, they do not. -/
theorem witness_ServiceCommands_eceel :
    Takes (eceelImage) head0 ∧ (eceelImage).mayRead 0x10000 400 = true ∧
    (let b := (eceelImage).mem.readN 0x10000 400
     let k := sectBytes b 4
     let rs := (entriesOf 16 (k.drop 32)).map leNat
     headerOk b = true ∧ tablesOk b = true ∧ leAt b 8 4 = 0 ∧ signatureOk b false [] = true ∧ nativeBlock b = none ∧
     entryTable (entriesOf 256 (sectBytes b 0)).length = 32 ∧ k.length = 48 ∧ eceelOk rs = true ∧
     (eceelNative rs ((entriesOf 256 (sectBytes b 0)).map Chart.ofBytes)).isSome = true ∧
     (((eceelImage).meet 0x10000 400).placeData (sectBytes b 3)).map Prod.snd = some 0) ∧
    (let b := (eceelImage [(0x100A8, 0xE0)]).mem.readN 0x10000 400
     headerOk b = true ∧ tablesOk b = true ∧ nativeBlock b = none ∧ eceelOk ((entriesOf 16 ((sectBytes b 4).drop 32)).map leNat) = false) := by
  decide +kernel

/-- LOAD of nothing, of a page's end, of what is no image; an image that holds, of level 0 and of 2, with and without the key that it asks
for, its block long enough and not, and its data with a place. -/
theorem witness_ServiceCommands_load :
    Takes (header 0) head0 ∧ (header 0).mayRead 0x1FFF0 17 = false ∧ (header 0).mayRead 0x10000 400 = true ∧
    headerOk ((header 0 32 0x55).mem.readN 0x10000 400) = false ∧
    (let b := (header 2).mem.readN 0x10000 400
     headerOk b = true ∧ tablesOk b = true ∧ leAt b 8 4 = 2) ∧
    (let b := (header 0).mem.readN 0x10000 400
     headerOk b = true ∧ tablesOk b = true ∧ leAt b 8 4 = 0 ∧ signatureOk b true [] = false ∧ signatureOk b false [] = true ∧
     (entriesOf 256 (sectBytes b 0)).length = 1 ∧ (nativeBlock b).map List.length = some 32 ∧ entryTable 1 = 32 ∧
     (((header 0).meet 0x10000 400).placeData (sectBytes b 3)).map Prod.snd = some 0) ∧
    (nativeBlock ((header 0 31).mem.readN 0x10000 400)).map List.length = some 31 := by decide +kernel

/-- UNLOAD of nothing, with a launch under way, and with it complete; LOG, ATTEST and ISLAND at the ends of their ranges. -/
theorem witness_ServiceCommands :
    ((header 0).image? 7).isNone = true ∧ ((header 0).image? 1).isSome = true ∧
    (∃ l, l ∈ (header 0).launches ∧ l.image = 1 ∧ l.live = true) ∧
    (∀ l, l ∈ (dev fun l => { l with phase := .complete }).launches → l.image = 1 → l.live = false) ∧
    (List.replicate 32 (0 : Byte)).length = 32 ∧ (List.replicate 31 (0 : Byte)).length ≠ 32 ∧
    (∀ n, n ∈ [999, 2801] → n < 1000 ∨ 2800 < n) ∧ (∀ c, c ∈ [((1023 : Nat), (3 : Nat))] → c.1 < 1024 ∧ c.2 < 4) := by decide +kernel

/-- The placed program, its words and what changes its team. -/
def placed (w : Nat) (t : Team → Team := id) : State :=
  let s := placeWord State.reset w
  { s with groups := s.groups.map fun k => { k with teams := k.teams.map t } }

/-- The context at the issue of a placed program, where one is. -/
def issued (s : State) (P : Ctx → Bool) : Bool :=
  decide (s.pick = some (.team 3 0)) && s.picked.canIssue 3 0 && s.picked.contends 3 0 && (s.picked.atIssue 3 0).ctx?.any fun x =>
    (x.im.bindsAt x.t.pc).isEmpty && P x

/-- What a context's words decode to. -/
def wordOf (x : Ctx) : Except Reject Instr :=
  decodeWords (x.im.word x.t.pc) (x.im.word (x.t.pc + 8#64)) (x.t.pc.toNat / 8 % 2 == 1)

/-- Whether they are rejected for a reason. -/
def rejected (x : Ctx) (r : Reject) : Bool :=
  match wordOf x with
  | .error q => decide (q = r)
  | .ok _ => false

/-- A nop that issues, and one whose neighbour does not fuse with it; an event at the agenda's head, one due, an access to perform, and
nothing due. -/
theorem witness_StepRunsDecoded :
    issued (placed 0x34007E0000000000) (fun x => match wordOf x with
      | .ok i => x.fieldsOk i && (x.interlock i).isNone && !x.shortfall i
      | _ => false) = true ∧
    issued (placed (0x34007E0000000000 + 0x34007E0000000000 * 2 ^ 64)) (fun x => (x.nextTwo.head?).any fun j => !fusesTwo (.nop 0) j) = true ∧
    ({ State.reset with agenda := [.ev .drainPoint] } : State).pick = some (.ev .drainPoint) ∧
    ({ recTeam id with lrq := [lr0 0], agenda := [] } : State).pick = some (.micro (.lrset 0)) ∧
    (let s := at_ 32768 State.reset
     s.forced = some .drainPoint ∧ s.pick = some (.ev .drainPoint)) ∧
    (let s := { heldPage (.unmap head0 0x10000 0x10000) with groups := [], takenUp := none }
     s.nextLine = some 0 ∧ s.pick = some (.micro (.serve 0)) ∧ s.picked.lineReady 0 = true) ∧
    (let s := st (fun u => { u with mats := [{ tile := 0, slot := 0, base := 0, sets := [], regs := [], ks := [] }] })
     s.matOpen = some (3, 0) ∧ s.pick = some (.micro (.mat 3 0))) ∧
    (let s := placed 0x34007E0000000000 fun u => { u with earliest := 40000 }
     { s with agenda := [.team 3 0] }.inBounds 3 0 = false ∧ s.inBounds 3 0 = false ∧ s.nextTeam = some (3, 0) ∧ s.pick = none) ∧
    ((dev (fun l => { l with phase := .admitted }) shared).nextEvent).isSome = true ∧ State.reset.agenda = [] ∧ State.reset.lrq.length = 0 ∧ State.reset.packets.length = 0 ∧
    State.reset.nextEvent.isNone = true ∧ State.reset.pick = none := by decide +kernel

/-- The mark of the team of a placed program (07 R143): whether it is ready, and what it waits for. -/
def marked (s : State) : Option (Bool × Option WaitOn) :=
  s.cur.bind fun c => (s.team? c.1 c.2).map fun q => let t := s.markTeam q.1 q.2; (t.readySince.isSome, t.wait)

/-- A team whose wait is over is ready; one whose waitp still waits is not, and where it waited for something else it is tried again. -/
theorem witness_StepRunsDecoded_mark :
    (let w := ((encode (.waitp 0 .loc (.imm8 0))).map fun w => w.1.toNat).getD 0
     let l : Load := { path := .loc, dst := [3], todo := [], ws := [] }
     let run (u : Team → Team) : Option (Bool × Option WaitOn) :=
       let s := placed w u
       (s.groups.head?).bind fun g => marked { s with cur := some (g.gid, 0) }
     run (fun t => { t with wait := some .path }) = some (true, some .path) ∧
     run (fun t => { t with wait := some .path, loads := [l] }) = some (false, some .path) ∧
     run (fun t => { t with wait := some .result, loads := [l] }) = some (false, some .again)) := by decide +kernel

/-- Each rejection; a register beyond the team's; a load that is still to write the destination, an atomic that is to write a source, and a late source with CHK. -/
theorem witness_IssueChecks :
    issued (placed 0) (fun x => match wordOf x with
      | .ok (.unassignedOpcode _) => true
      | _ => false) = true ∧
    issued (placed (0x108A7E0E0606001C + 2 ^ 64)) (fun x => rejected x .illegalOpcode) = true ∧
    issued (placed (0x108A7E0E0606001C + 0x34007E0000000000 * 2 ^ 64)) (fun x => rejected x .illegalPair) = true ∧
    issued (placed 0x34007E0000000001) (fun x => rejected x .reservedField) = true ∧
    issued (placed (0x60017E0004080080 * 2 ^ 64) fun u => { u with pc := 8 }) (fun x => rejected x .align) = true ∧
    (let i : Instr := .iadd ⟨hd 0 63, .s32, false, 0, 4, 5, .imm8 1, 0⟩
     let w := ((encode i).map fun w => w.1.toNat).getD 0
     issued (placed w fun u => { u with nregs := 4 }) (fun x => decide ((wordOf x).toOption = some i ∧ RegName.v 4 ∈ i.uses.dst)) = true ∧
     issued (placed w fun u => { u with loads := [{ path := .loc, dst := [4], todo := [], ws := [v 0 4 1] }] }) (fun x => x.fieldsOk i && x.interlock i == some .load) = true ∧
     issued (placed w fun u => { u with atoms := [atom0] }) (fun x => x.fieldsOk i && x.interlock i == some .atomic) = true ∧
     issued (placed w fun u => { u with tctl := 8, pend := [{ ready := 9, w := v 0 5 1 }] })
       (fun x => x.fieldsOk i && (x.interlock i).isNone && x.shortfall i) = true) := by decide +kernel

/-- Instructions of both lengths, well formed and encoded; words that the decoder accepts. -/
theorem witness_RoundTrip :
    (∀ i, i ∈ ([.nop 15, .bra 0 0xFFFFFFFF, .gpark 0 (.timer 1) 256] : List Instr) → i.wf = true ∧ (encode i).isSome = true) ∧
    (decodeWords 0x34007E0000000000 0 true).isOk = true ∧ (decodeWords 0x34007E0000000000 0 false).isOk = true := by decide +kernel

/-- Free opcodes at the ends of the range, a pair whose second word is free, and an opcode that is assigned. -/
theorem witness_UnassignedOpcodes :
    (0#64).extractLsb' 54 10 = 0#10 ∧ ((0xFFFFFFFFFFFFFFFF : DWord).extractLsb' 54 10).toNat = 0x3FF ∧
    ((0x108A7E0E0606001C : DWord).extractLsb' 48 2 = 2#2 ∧ (parseHalf (Raw.unpack 0x108A7E0E0606001C)).isSome = true) ∧
    (decodeWords 0x34007E0000000000 0 false).isOk = true := by decide +kernel

theorem witness_MemoryInvariant :
    recMem.wf = true ∧ (match step (recTeam id) with
      | .next t => t.mem.wf
      | _ => false) = true := by decide +kernel

theorem witness_StepAnswers :
    State.reset.agenda = [] ∧ encode (.drainPoint) = none ∧ (headOf (.query head0)).isSome = true ∧ (match step (dev id) with
      | .next t => decide ((dev id).cycle ≤ t.cycle)
      | _ => false) = true := by decide +kernel

theorem witness_NativeService : (encode (.nop 0)).isSome = true ∧ (after (.nop 0) (st)).isSome = true := by decide +kernel

/-! ### More of the hypotheses: each clause at a place where it applies -/

/-- `RegWrite.Native`, decided. -/
def native : RegWrite → Bool
  | .v _ r _ | .p _ r _ | .s r _ => decide (r < virtualBase)
  | .flags _ => true

theorem native_iff (w : RegWrite) : native w = true ↔ w.Native := by
  cases w <;> simp [native, RegWrite.Native]

/-- Results pending for native registers and for one of a translated block; loads and atomics likewise (01 R18, 22 R357). -/
theorem witness_Returns_native :
    (∃ g t, flying.team? 3 0 = some (g, t) ∧ (t.pend.all fun e => native e.w) = true ∧ t.pend.length = 3 ∧
      (t.loads.all fun l => l.ws.all native) = true ∧ (t.atoms.all fun q => q.ws.all native) = true) ∧
    (∃ g t, (st fun u => { u with pend := [{ ready := 0, w := v 0 266 1 }] }).team? 3 0 = some (g, t) ∧ (t.pend.all fun e => native e.w) = false) :=
  ⟨witT flying (by decide +kernel), witT _ (by decide +kernel)⟩

/-- A trap with an mmas outstanding and a result pending; a group that a gabort finds among the groups of its launch; a fence with a .t atomic
left. -/
theorem witness_TrapEntry_more :
    (∃ x : Ctx, x.s.ctx? = some x ∧ (x.spec = false ∧ x.c.hndl = true ∧ x.t.inhandler = false ∧ x.t.mats.length = 1 ∧
      (x.t.pend.all fun e => native e.w) = true ∧ x.t.pend.length = 1)) ∧
    (∃ x : Ctx, x.s.ctx? = some x ∧ (x.g.committed = false ∧ x.s.group? x.g.gid = some x.g ∧ x.s.launch? x.g.launch = some x.l ∧
      x.s.chartOf x.l x.g = some x.c)) ∧
    (∃ x : Ctx, x.s.ctx? = some x ∧ (x.t.atoms.length = 1 ∧ ∀ q, q ∈ x.t.atoms → q.todo ≠ [] ∧ q.scope = .t)) :=
  ⟨wit (st fun u => { u with
      mats := [{ tile := 0, slot := 0, base := 0, sets := [], regs := [], ks := [] }], pend := [{ ready := 5, w := v 0 1 1 }] }) (by decide +kernel),
   wit (st) (by decide +kernel), wit (st fun u => { u with atoms := [{ atom0 with scope := .t }] }) (by decide +kernel)⟩

/-- A vgrow and a deadlock in a group that is not being stopped, and a team of one that is; a packet sent in a drain phase; a stealReq that
finds its launch stopped; an island at F2 that its teams are leaving. -/
theorem witness_stops :
    ((dev id).group? 3).map (fun g => g.stop) = some false ∧
    (let s := dev id fun g => { g with stop := true, grace := some 0 }
     s.canIssue 3 0 = false ∧ s.quiet 3 = true) ∧
    (let s := { at_ 32768 State.reset with drain := some 33792 }
     s.drain = some 33792 ∧ (s.send 0 1 (.stealReq 2 1)).packets.map (fun p => (p.src, p.dst, p.at_)) = [(0, 1, 33792)]) ∧
    ((dev fun l => { l with phase := .stopped }).launch? 2).map (fun l => l.phase == .dispatching) = some false ∧
    (let s := (dev id).setSlot 0 { Slot.reset with point := .f2, leaving := true, cap := .off }
     (s.slotOf 0).leaving = true ∧ (s.slotOf 0).point = .f2 ∧ (s.slotOf 0).cap = .off ∧ s.groupsOn 0 ≠ []) := by decide +kernel

/-- A publish with a slot load of the team in flight; a peer's GET under way whose last granule has been read (16 R258, 24 R365; 22 R353). -/
theorem witness_published :
    (let p : LoadPart := { lane := 0, r := 4, sx := false, sp := .slot, a := 1088, own := List.replicate 4 none }
     let s := filling .cpin recBits0
     let fly (t : Team) : Team := { t with loads := [{ path := .loc, dst := [4], todo := [p], ws := [] }] }
     let s : State := { s with groups := s.groups.map fun g => { g with teams := g.teams.map fly } }
     (s.fillNow 3 31).any (fun e => e.f.bad.isNone && decide (31 < e.g.handles.length ∧ e.k.slot * e.c.hsize ≤ 1088 ∧
       1088 < e.k.slot * e.c.hsize + e.c.hsize) && e.g.teams.any fun t => t.loads.any fun l => l.todo == [p]) = true) ∧
    (let x : PeerXfer := { peer := 77, put := false, va := 0x1FFFC, len := 4, data := [], got := (List.range 4).map fun i => (0x1FFFC + i, 7), moved := 0 }
     let s := { recTeam id with xfers := [x] }
     (s.xfers.find? fun y => y.of 77 false 0x1FFFC 4 []) = some x ∧ s.xferBad x = none ∧
       ((recTeam id).xfers.find? fun y => y.of 77 false 0x1FFFC 4 []).isNone = true) := by decide +kernel

/-- A record of a translated block that is next to issue, its virtual registers lent; a team named that its slot does not choose, and one
that may not issue (22 R357, 07 R143). -/
theorem witness_StepRunsDecoded_bound :
    (let q := (eceelSpilled [farRec] [{ placeChart with regs := 8 }]).getD ([], [], 0)
     let s := placed 0
     let bound (i : Image) : Image := { i with text := q.1, binds := q.2.1 }
     let s : State := { s with images := s.images.map bound }
     let free (x : Ctx) : Bool := match wordOf x with
       | .ok i => !(x.im.bindsAt x.t.pc).isEmpty && (x.boundLock (x.im.bindsAt x.t.pc) i).isNone
       | _ => false
     s.pick = some (.team 3 0) ∧ s.picked.canIssue 3 0 = true ∧ s.picked.contends 3 0 = true ∧
       (s.picked.atIssue 3 0).ctx?.any free = true) ∧
    (let s := placed 0x34007E0000000000
     let stopped (g : Group) : Group := { g with stop := true }
     let s : State := { s with agenda := [.team 3 0], groups := s.groups.map stopped }
     s.pick = some (.team 3 0) ∧ s.picked.canIssue 3 0 = false) := by decide +kernel

/-- A word of sli, of FORM 00 and of FORM 01 with each of its fields; a scan.and of TYPE f32 (05 R95, 07 R139). -/
theorem witness_encodings :
    (let w : DWord := 0x2B817E0A00000030
     w.extractLsb' 54 10 = 0x0AE#10 ∧ w.extractLsb' 48 2 = 1#2 ∧ w.extractLsb' 41 6 = 63#6 ∧ w.extractLsb' 6 27 = 0#27 ∧ w.extractLsb' 0 4 = 0#4) ∧
    ((0x2B807E0A00000030 : DWord).extractLsb' 54 10 = 0x0AE#10 ∧ (0x2B807E0A00000030 : DWord).extractLsb' 48 2 = 0#2) ∧
    (let w : DWord := 0x3900080A08140030
     w.extractLsb' 54 10 = 0x0E4#10 ∧ w.extractLsb' 48 2 = 0#2 ∧ w.extractLsb' 17 3 = 2#3 ∧ w.extractLsb' 4 3 = 3#3) := by decide

end Sys2Proof.Tests
end

section
/-!
SUPPORT. Writes of registers put into a team's record: what is read of the register file after them, what results that are settled
and values that are delivered leave to be read, and what else of the record stands (01 R18 to R23, 06 R120).
-/
namespace Sys2Proof.Machine

/-! ### A register, its writes and its pending results -/

/-- The value that a write gives to one register, `pick` telling the kind of register. -/
def RegWrite.gives {α : Type} (pick : RegWrite → Option (Nat × Nat × α)) (lane r : Nat) (w : RegWrite) : Option α :=
  (pick w).bind fun e => if e.1 = lane ∧ e.2.1 = r then some e.2.2 else none

/-- A register's value after writes in order, `give` telling what a write gives to it. -/
def writtenBy {α : Type} (give : RegWrite → Option α) (acc : α) (ws : List RegWrite) : α :=
  ws.foldl (fun a w => (give w).getD a) acc

/-- A register's value at a cycle, from that of the register file and the pending results. -/
def readBy {α : Type} (give : RegWrite → Option α) (cyc : Nat) (acc : α) (ps : List Pending) : α :=
  ps.foldl (fun a e => if e.ready ≤ cyc then (give e.w).getD a else a) acc

theorem foldl_readStep {α : Type} (pick : RegWrite → Option (Nat × Nat × α)) (cyc lane r : Nat) (acc : α) (ps : List Pending) :
    ps.foldl (readStep pick cyc lane r) acc = readBy (RegWrite.gives pick lane r) cyc acc ps := by
  unfold readBy
  congr 1
  funext a e
  unfold readStep RegWrite.gives
  cases pick e.w with
  | none => simp
  | some q =>
    obtain ⟨l, r', y⟩ := q
    by_cases hc : e.ready ≤ cyc <;> by_cases hr : l = lane ∧ r' = r <;> simp [hc, hr]

theorem readV_readBy (t : Team) (cyc lane r : Nat) :
    t.readV cyc lane r = readBy (RegWrite.gives pickV lane r) cyc (t.fileV lane r) t.pend := by
  rw [readV_eq, foldl_readStep]

theorem readP_readBy (t : Team) (cyc lane r : Nat) (h : r < 48) :
    t.readP cyc lane r = readBy (RegWrite.gives pickP lane r) cyc (t.fileP lane r) t.pend := by
  rw [readP_eq _ _ _ _ h, foldl_readStep]

theorem readS_readBy (t : Team) (cyc r : Nat) :
    t.readS cyc r = readBy (RegWrite.gives pickS 0 r) cyc (t.fileS r) t.pend := by
  rw [readS_eq, foldl_readStep]

/-- `give` tells the writes of one register, as `RegWrite.sameReg` knows them. -/
def OneReg {α : Type} (give : RegWrite → Option α) : Prop :=
  ∀ w w', (give w').isSome = true → w.sameReg w' = (give w).isSome

theorem oneReg_gives {α : Type} {pick : RegWrite → Option (Nat × Nat × α)}
    (same : ∀ w w' e, pick w' = some e → w.sameReg w' = (pick w).any fun f => f.1 == e.1 && f.2.1 == e.2.1) (lane r : Nat) :
    OneReg (RegWrite.gives pick lane r) := by
  intro w w' h
  obtain ⟨y, hy⟩ := Option.isSome_iff_exists.1 h
  obtain ⟨⟨l, r', y'⟩, he, hif⟩ := Option.bind_eq_some_iff.1 hy
  split at hif
  · next at_ =>
    obtain ⟨rfl, rfl⟩ := at_
    rw [same w w' _ he]
    unfold RegWrite.gives
    cases pick w with
    | none => rfl
    | some f => by_cases hl : f.1 = l <;> by_cases hr : f.2.1 = r' <;> simp [hl, hr]
  · cases hif

theorem oneReg_pickV (lane r : Nat) : OneReg (RegWrite.gives pickV lane r) :=
  oneReg_gives (fun w w' _ h => by cases w' <;> cases h; cases w <;> rfl) lane r

theorem oneReg_pickP (lane r : Nat) : OneReg (RegWrite.gives pickP lane r) :=
  oneReg_gives (fun w w' _ h => by cases w' <;> cases h; cases w <;> rfl) lane r

theorem oneReg_pickS (r : Nat) : OneReg (RegWrite.gives pickS 0 r) :=
  oneReg_gives (fun w w' _ h => by cases w' <;> cases h; cases w <;> rfl) 0 r

/-! ### What stays pending when results are settled -/

theorem settle_keep_ready {e : Pending} {now : Nat} (h : e.ready ≤ now) (ps : List Pending) :
    Team.settle.keep (e :: ps) now = Team.settle.keep ps now := by
  simp [Team.settle.keep, h]

theorem settle_keep_pending {e : Pending} {now : Nat} (h : ¬e.ready ≤ now) (ps : List Pending) :
    Team.settle.keep (e :: ps) now = if ps.any fun f => decide (f.ready ≤ now) && f.w.sameReg e.w then Team.settle.keep ps now
      else e :: Team.settle.keep ps now := by
  simp only [Team.settle.keep, h, decide_false, Bool.false_or]

theorem mem_settle_keep {e : Pending} {ps : List Pending} {now : Nat} (h : e ∈ Team.settle.keep ps now) : e ∈ ps ∧ now < e.ready := by
  induction ps with
  | nil => cases h
  | cons f ps ih =>
    by_cases hr : f.ready ≤ now
    · rw [settle_keep_ready hr] at h
      exact (ih h).imp_left (List.mem_cons_of_mem _)
    · rw [settle_keep_pending hr] at h
      split at h
      · exact (ih h).imp_left (List.mem_cons_of_mem _)
      · rcases List.mem_cons.1 h with rfl | h
        · exact ⟨List.mem_cons_self, Nat.not_le.1 hr⟩
        · exact (ih h).imp_left (List.mem_cons_of_mem _)

/-! ### Reads after writes -/

section
variable {α : Type} {give : RegWrite → Option α}

theorem writtenBy_cons (acc : α) (w : RegWrite) (ws : List RegWrite) :
    writtenBy give acc (w :: ws) = writtenBy give ((give w).getD acc) ws := rfl

theorem readBy_cons (cyc : Nat) (acc : α) (e : Pending) (ps : List Pending) :
    readBy give cyc acc (e :: ps) = readBy give cyc (if e.ready ≤ cyc then (give e.w).getD acc else acc) ps := rfl

/-- Writes of other registers. -/
theorem writtenBy_of_none {ws : List RegWrite} (h : ∀ w ∈ ws, give w = none) (acc : α) : writtenBy give acc ws = acc := by
  induction ws with
  | nil => rfl
  | cons w ws ih =>
    rw [writtenBy_cons, h w List.mem_cons_self]
    exact ih fun v hv => h v (List.mem_cons_of_mem _ hv)

/-- Where one of the writes is the register's, what it held before is not read. -/
theorem writtenBy_of_some {ws : List RegWrite} (h : ∃ w ∈ ws, (give w).isSome = true) (a b : α) :
    writtenBy give a ws = writtenBy give b ws := by
  induction ws generalizing a b with
  | nil => obtain ⟨w, hw, -⟩ := h; cases hw
  | cons w ws ih =>
    rw [writtenBy_cons, writtenBy_cons]
    cases hg : give w with
    | some y => rfl
    | none =>
      refine ih ?_ a b
      obtain ⟨v, hv, hs⟩ := h
      rcases List.mem_cons.1 hv with rfl | hv
      · simp [hg] at hs
      · exact ⟨v, hv, hs⟩

/-- Writes that all give the register one value. -/
theorem writtenBy_of_agree {ws : List RegWrite} {y : α} (h : ∃ w ∈ ws, (give w).isSome = true)
    (hy : ∀ w ∈ ws, ∀ z, give w = some z → z = y) (acc : α) : writtenBy give acc ws = y := by
  rw [writtenBy_of_some h acc y]
  clear h
  induction ws with
  | nil => rfl
  | cons w ws ih =>
    have hw : (give w).getD y = y := by
      cases hg : give w with
      | none => rfl
      | some z => exact hy w List.mem_cons_self z hg
    rw [writtenBy_cons, hw]
    exact ih fun v hv => hy v (List.mem_cons_of_mem _ hv)

/-- Pending results of other registers. -/
theorem readBy_of_none {ps : List Pending} (h : ∀ e ∈ ps, give e.w = none) (cyc : Nat) (acc : α) : readBy give cyc acc ps = acc := by
  induction ps with
  | nil => rfl
  | cons e ps ih =>
    rw [readBy_cons, h e List.mem_cons_self, Option.getD_none, ite_self]
    exact ih fun f hf => h f (List.mem_cons_of_mem _ hf)

/-- Pending results dropped that are all of other registers. -/
theorem readBy_filter {p : Pending → Bool} {ps : List Pending} (h : ∀ e ∈ ps, p e = false → give e.w = none) (cyc : Nat) (acc : α) :
    readBy give cyc acc (ps.filter p) = readBy give cyc acc ps := by
  induction ps generalizing acc with
  | nil => rfl
  | cons e ps ih =>
    have ih := ih fun f hf => h f (List.mem_cons_of_mem _ hf)
    cases hp : p e with
    | true => rw [List.filter_cons_of_pos hp, readBy_cons, readBy_cons, ih]
    | false =>
      rw [List.filter_cons_of_neg (by simp [hp]), ih, readBy_cons, h e List.mem_cons_self hp, Option.getD_none, ite_self]

/-- Results settled at a cycle: from then on the register reads as before. A result that is not ready yet is superseded exactly where a
newer one of its register is ready (01 R20). -/
theorem readBy_settle (hg : OneReg give) {now cyc : Nat} (hc : now ≤ cyc) (ps : List Pending) (acc : α) :
    readBy give cyc (writtenBy give acc ((ps.filter fun e => decide (e.ready ≤ now)).map Pending.w)) (Team.settle.keep ps now) =
      readBy give cyc acc ps := by
  induction ps generalizing acc with
  | nil => rfl
  | cons e ps ih =>
    by_cases hr : e.ready ≤ now
    · rw [settle_keep_ready hr, List.filter_cons_of_pos (by simpa using hr), List.map_cons, writtenBy_cons, ih, readBy_cons,
        if_pos (Nat.le_trans hr hc)]
    · rw [List.filter_cons_of_neg (by simpa using hr), readBy_cons, ← ih]
      rw [settle_keep_pending hr]
      cases hw : give e.w with
      | none => split <;> simp [readBy_cons, hw]
      | some y =>
        have same : ∀ f : Pending, f.w.sameReg e.w = (give f.w).isSome := fun f => hg f.w e.w (by simp [hw])
        split
        · next newer =>
          obtain ⟨f, hf, hfr⟩ := List.any_eq_true.1 newer
          simp only [Bool.and_eq_true, decide_eq_true_eq, same] at hfr
          rw [writtenBy_of_some ⟨f.w, List.mem_map_of_mem (List.mem_filter.2 ⟨hf, by simpa using hfr.1⟩), hfr.2⟩]
        · next newest =>
          have others : ∀ w ∈ (ps.filter fun e => decide (e.ready ≤ now)).map Pending.w, give w = none := by
            simp only [List.any_eq_true, Bool.and_eq_true, decide_eq_true_eq, same, not_exists, not_and, Bool.not_eq_true,
              Option.isSome_eq_false_iff, Option.isNone_iff_eq_none] at newest
            simp only [List.mem_map, List.mem_filter, decide_eq_true_eq]
            rintro _ ⟨f, ⟨hf, hfr⟩, rfl⟩
            exact newest f hf hfr
          rw [writtenBy_of_none others, writtenBy_of_none others, readBy_cons, hw]

/-- Values delivered: a register that they write reads them, whatever was pending for it. -/
theorem readBy_deliver_same (hg : OneReg give) {ws : List RegWrite} {y : α} (h : ∃ w ∈ ws, (give w).isSome = true)
    (hy : ∀ w ∈ ws, ∀ z, give w = some z → z = y) (cyc : Nat) (acc : α) (ps : List Pending) :
    readBy give cyc (writtenBy give acc ws) (dropOlder ps ws) = y := by
  obtain ⟨w, hw, hs⟩ := h
  rw [readBy_of_none, writtenBy_of_agree ⟨w, hw, hs⟩ hy]
  intro e he
  obtain ⟨-, hd⟩ := List.mem_filter.1 he
  simp only [Bool.not_eq_true', List.any_eq_false] at hd
  exact Option.not_isSome_iff_eq_none.1 fun hn => hd w hw ((hg w e.w hn).trans hs)

/-- Values delivered to other registers. -/
theorem readBy_deliver_other (hg : OneReg give) {ws : List RegWrite} (h : ∀ w ∈ ws, give w = none) (cyc : Nat) (acc : α)
    (ps : List Pending) : readBy give cyc (writtenBy give acc ws) (dropOlder ps ws) = readBy give cyc acc ps := by
  rw [writtenBy_of_none h]
  refine readBy_filter (fun e _ hd => ?_) cyc acc
  simp only [Bool.not_eq_false', List.any_eq_true] at hd
  obtain ⟨w, hw, hs⟩ := hd
  refine Option.not_isSome_iff_eq_none.1 fun hn => ?_
  rw [hg w e.w hn, h w hw] at hs
  cases hs

end

/-! ### Writes applied to the register file -/

theorem applyAll_cons (t : Team) (w : RegWrite) (ws : List RegWrite) : t.applyAll (w :: ws) = (t.apply w).applyAll ws := rfl

/-- A write of a vector register changes only the two maps of vector registers. -/
theorem apply_v (t : Team) (lane r : Nat) (y : VReg) : ∃ v vx, t.apply (.v lane r y) = { t with v := v, vx := vx } := by
  unfold Team.apply
  dsimp only
  split
  · exact ⟨_, t.vx, rfl⟩
  · exact ⟨t.v, _, rfl⟩

/-- A write of a predicate changes only the two maps of predicates. -/
theorem apply_p (t : Team) (lane r : Nat) (y : PReg) : ∃ p px, t.apply (.p lane r y) = { t with p := p, px := px } := by
  unfold Team.apply
  dsimp only
  split
  · exact ⟨_, t.px, rfl⟩
  · split
    · exact ⟨t.p, _, rfl⟩
    · exact ⟨t.p, t.px, rfl⟩

/-- A write of a scalar changes only the two maps of scalars. -/
theorem apply_s (t : Team) (r : Nat) (y : SReg) : ∃ z zx, t.apply (.s r y) = { t with s := z, sx := zx } := by
  unfold Team.apply
  dsimp only
  split
  · exact ⟨_, t.sx, rfl⟩
  · exact ⟨t.s, _, rfl⟩

theorem fileV_apply (t : Team) (w : RegWrite) (lane r : Nat) (h : r < virtualBase) :
    (t.apply w).fileV lane r = (RegWrite.gives pickV lane r w).getD (t.fileV lane r) := by
  cases w with
  | v l k y =>
    by_cases hk : k < virtualBase
    · have key : vKey lane r = vKey l k ↔ l = lane ∧ k = r := by unfold vKey virtualBase at *; omega
      by_cases e : l = lane ∧ k = r
      · obtain ⟨rfl, rfl⟩ := e
        simp [Team.apply, Team.fileV, RegWrite.gives, pickV, hk]
      · simp [Team.apply, Team.fileV, RegWrite.gives, pickV, hk, e, Store.get_put_other _ _ _ _ _ (mt key.1 e)]
    · have e : ¬(l = lane ∧ k = r) := fun e => hk (e.2 ▸ h)
      simp [Team.apply, Team.fileV, RegWrite.gives, pickV, hk, e]
  | p l k y => obtain ⟨_, _, e⟩ := apply_p t l k y; rw [e]; rfl
  | s k y => obtain ⟨_, _, e⟩ := apply_s t k y; rw [e]; rfl
  | flags f => rfl

theorem fileP_apply (t : Team) (w : RegWrite) (lane r : Nat) (h : r < 48) :
    (t.apply w).fileP lane r = (RegWrite.gives pickP lane r w).getD (t.fileP lane r) := by
  cases w with
  | p l k y =>
    by_cases hk : k < 48
    · have key : pKey lane r = pKey l k ↔ l = lane ∧ k = r := by unfold pKey; omega
      by_cases e : l = lane ∧ k = r
      · obtain ⟨rfl, rfl⟩ := e
        simp [Team.apply, Team.fileP, RegWrite.gives, pickP, hk]
      · simp [Team.apply, Team.fileP, RegWrite.gives, pickP, hk, e, Store.get_put_other _ _ _ _ _ (mt key.1 e)]
    · have e : ¬(l = lane ∧ k = r) := fun e => hk (e.2 ▸ h)
      by_cases hv : virtualBase ≤ k <;> simp [Team.apply, Team.fileP, RegWrite.gives, pickP, hk, hv, e]
  | v l k y => obtain ⟨_, _, e⟩ := apply_v t l k y; rw [e]; rfl
  | s k y => obtain ⟨_, _, e⟩ := apply_s t k y; rw [e]; rfl
  | flags f => rfl

theorem fileS_apply (t : Team) (w : RegWrite) (r : Nat) (h : r < virtualBase) :
    (t.apply w).fileS r = (RegWrite.gives pickS 0 r w).getD (t.fileS r) := by
  cases w with
  | s k y =>
    by_cases hk : k < virtualBase
    · by_cases e : k = r
      · subst e
        simp [Team.apply, Team.fileS, RegWrite.gives, pickS, hk]
      · simp [Team.apply, Team.fileS, RegWrite.gives, pickS, hk, e, Store.get_put_other _ _ _ _ _ (Ne.symm e)]
    · have e : k ≠ r := fun e => hk (e ▸ h)
      simp [Team.apply, Team.fileS, RegWrite.gives, pickS, hk, e]
  | v l k y => obtain ⟨_, _, e⟩ := apply_v t l k y; rw [e]; rfl
  | p l k y => obtain ⟨_, _, e⟩ := apply_p t l k y; rw [e]; rfl
  | flags f => rfl

theorem fileV_applyAll (t : Team) (ws : List RegWrite) (lane r : Nat) (h : r < virtualBase) :
    (t.applyAll ws).fileV lane r = writtenBy (RegWrite.gives pickV lane r) (t.fileV lane r) ws := by
  induction ws generalizing t with
  | nil => rfl
  | cons w ws ih => rw [applyAll_cons, ih, fileV_apply t w lane r h, writtenBy_cons]

theorem fileP_applyAll (t : Team) (ws : List RegWrite) (lane r : Nat) (h : r < 48) :
    (t.applyAll ws).fileP lane r = writtenBy (RegWrite.gives pickP lane r) (t.fileP lane r) ws := by
  induction ws generalizing t with
  | nil => rfl
  | cons w ws ih => rw [applyAll_cons, ih, fileP_apply t w lane r h, writtenBy_cons]

theorem fileS_applyAll (t : Team) (ws : List RegWrite) (r : Nat) (h : r < virtualBase) :
    (t.applyAll ws).fileS r = writtenBy (RegWrite.gives pickS 0 r) (t.fileS r) ws := by
  induction ws generalizing t with
  | nil => rfl
  | cons w ws ih => rw [applyAll_cons, ih, fileS_apply t w r h, writtenBy_cons]

/-- A team's record with the registers and flags of another. -/
def Team.withRegs (t u : Team) : Team :=
  { t with v := u.v, p := u.p, s := u.s, vx := u.vx, px := u.px, sx := u.sx, flags := u.flags }

/-- A write changes nothing of the record but registers and flags. -/
theorem apply_eq_withRegs (t : Team) (w : RegWrite) : t.apply w = t.withRegs (t.apply w) := by
  cases w with
  | v l k y => obtain ⟨_, _, e⟩ := apply_v t l k y; rw [e]; rfl
  | p l k y => obtain ⟨_, _, e⟩ := apply_p t l k y; rw [e]; rfl
  | s k y => obtain ⟨_, _, e⟩ := apply_s t k y; rw [e]; rfl
  | flags f => rfl

theorem applyAll_eq_withRegs (t : Team) (ws : List RegWrite) : t.applyAll ws = t.withRegs (t.applyAll ws) := by
  induction ws generalizing t with
  | nil => rfl
  | cons w ws ih =>
    calc t.applyAll (w :: ws) = (t.apply w).withRegs ((t.apply w).applyAll ws) := ih (t.apply w)
      _ = (t.withRegs (t.apply w)).withRegs ((t.apply w).applyAll ws) := by rw [← apply_eq_withRegs]
      _ = t.withRegs (t.applyAll (w :: ws)) := rfl

/-- A write of a native register leaves the virtual ones. -/
theorem sameVirtual_apply (t : Team) {w : RegWrite} (h : w.Native) : Team.SameVirtual t (t.apply w) := by
  cases w with
  | v l k y => simp [Team.SameVirtual, Team.apply, show k < virtualBase from h]
  | p l k y =>
    have hk : ¬virtualBase ≤ k := Nat.not_le.2 h
    by_cases h48 : k < 48 <;> simp [Team.SameVirtual, Team.apply, hk, h48]
  | s k y => simp [Team.SameVirtual, Team.apply, show k < virtualBase from h]
  | flags f => exact ⟨rfl, rfl, rfl⟩

theorem sameVirtual_applyAll (t : Team) {ws : List RegWrite} (h : ∀ w ∈ ws, w.Native) : Team.SameVirtual t (t.applyAll ws) := by
  induction ws generalizing t with
  | nil => exact ⟨rfl, rfl, rfl⟩
  | cons w ws ih =>
    obtain ⟨v1, p1, s1⟩ := sameVirtual_apply t (h w List.mem_cons_self)
    obtain ⟨v2, p2, s2⟩ := ih (t.apply w) fun v hv => h v (List.mem_cons_of_mem _ hv)
    exact ⟨v2.trans v1, p2.trans p1, s2.trans s1⟩

/-! ### Sticky flags -/

/-- The sticky flags that a write sets. -/
def RegWrite.sets : RegWrite → Word
  | .flags f => f
  | _ => 0#32

theorem flags_apply (t : Team) (w : RegWrite) : (t.apply w).flags = t.flags ||| w.sets := by
  cases w with
  | v l k y => obtain ⟨_, _, e⟩ := apply_v t l k y; rw [e]; exact BitVec.or_zero.symm
  | p l k y => obtain ⟨_, _, e⟩ := apply_p t l k y; rw [e]; exact BitVec.or_zero.symm
  | s k y => obtain ⟨_, _, e⟩ := apply_s t k y; rw [e]; exact BitVec.or_zero.symm
  | flags f => rfl

theorem flags_applyAll (t : Team) (ws : List RegWrite) : (t.applyAll ws).flags = ws.foldl (fun f w => f ||| w.sets) t.flags := by
  induction ws generalizing t with
  | nil => rfl
  | cons w ws ih => rw [applyAll_cons, ih, flags_apply, List.foldl_cons]

/-- Flags are sticky: the order in which they are set makes no difference (06 R120). -/
theorem foldl_sets_or (ws : List RegWrite) (a b : Word) :
    ws.foldl (fun f w => f ||| w.sets) (a ||| b) = ws.foldl (fun f w => f ||| w.sets) a ||| b := by
  induction ws generalizing a with
  | nil => rfl
  | cons w ws ih => rw [List.foldl_cons, List.foldl_cons, ← ih, BitVec.or_assoc, BitVec.or_comm b, ← BitVec.or_assoc]

theorem flagStep_eq (cyc : Nat) (acc : Word) (e : Pending) :
    flagStep cyc acc e = acc ||| if e.ready ≤ cyc then e.w.sets else 0#32 := by
  unfold flagStep RegWrite.sets
  cases e.w with
  | flags f => by_cases h : e.ready ≤ cyc <;> simp [h]
  | v | p | s => simp

/-- Only a result that sets no flag is ever superseded. -/
theorem sets_of_sameReg {w w' : RegWrite} (h : w.sameReg w' = true) : w'.sets = 0#32 := by
  cases w' with
  | flags f => cases w <;> cases h
  | v | p | s => rfl

/-- Results settled at a cycle: from then on the flags read as before. -/
theorem foldl_flagStep_settle {now cyc : Nat} (hc : now ≤ cyc) (ps : List Pending) (acc : Word) :
    (Team.settle.keep ps now).foldl (flagStep cyc)
        (((ps.filter fun e => decide (e.ready ≤ now)).map Pending.w).foldl (fun f w => f ||| w.sets) acc) =
      ps.foldl (flagStep cyc) acc := by
  induction ps generalizing acc with
  | nil => rfl
  | cons e ps ih =>
    by_cases hr : e.ready ≤ now
    · rw [settle_keep_ready hr, List.filter_cons_of_pos (by simpa using hr), List.map_cons, List.foldl_cons, ih, List.foldl_cons, flagStep_eq,
        if_pos (Nat.le_trans hr hc)]
    · rw [List.filter_cons_of_neg (by simpa using hr), List.foldl_cons, ← ih, flagStep_eq, foldl_sets_or]
      rw [settle_keep_pending hr]
      split
      · next newer =>
        obtain ⟨f, -, hf⟩ := List.any_eq_true.1 newer
        rw [sets_of_sameReg (Bool.and_eq_true _ _ ▸ hf).2, ite_self, BitVec.or_zero]
      · rw [List.foldl_cons, flagStep_eq]

/-! ### Results settled -/

/-- The writes of the results that are ready by a cycle, in program order. -/
def Team.readyWrites (t : Team) (now : Nat) : List RegWrite := (t.pend.filter fun e => decide (e.ready ≤ now)).map Pending.w

theorem settle_eq (t : Team) (now : Nat) :
    t.settle now = { t.applyAll (t.readyWrites now) with pend := Team.settle.keep t.pend now } := rfl

theorem settle_frame (t : Team) (now : Nat) :
    t.settle now = { t.withRegs (t.settle now) with pend := (t.settle now).pend } := by
  rw [settle_eq, applyAll_eq_withRegs]
  rfl

theorem readV_settle (t : Team) {now cyc : Nat} (hc : now ≤ cyc) (lane r : Nat) (h : r < virtualBase) :
    (t.settle now).readV cyc lane r = t.readV cyc lane r := by
  have file : (t.settle now).fileV lane r = _ := fileV_applyAll t (t.readyWrites now) lane r h
  rw [readV_readBy, readV_readBy, file]
  exact readBy_settle (oneReg_pickV lane r) hc t.pend _

theorem readP_settle (t : Team) {now cyc : Nat} (hc : now ≤ cyc) (lane r : Nat) (h : r < 48) :
    (t.settle now).readP cyc lane r = t.readP cyc lane r := by
  have file : (t.settle now).fileP lane r = _ := fileP_applyAll t (t.readyWrites now) lane r h
  rw [readP_readBy _ _ _ _ h, readP_readBy _ _ _ _ h, file]
  exact readBy_settle (oneReg_pickP lane r) hc t.pend _

theorem readS_settle (t : Team) {now cyc : Nat} (hc : now ≤ cyc) (r : Nat) (h : r < virtualBase) :
    (t.settle now).readS cyc r = t.readS cyc r := by
  have file : (t.settle now).fileS r = _ := fileS_applyAll t (t.readyWrites now) r h
  rw [readS_readBy, readS_readBy, file]
  exact readBy_settle (oneReg_pickS r) hc t.pend _

theorem flagsAt_settle (t : Team) {now cyc : Nat} (hc : now ≤ cyc) : (t.settle now).flagsAt cyc = t.flagsAt cyc := by
  have flags : (t.settle now).flags = _ := flags_applyAll t (t.readyWrites now)
  rw [flagsAt_eq, flagsAt_eq, flags]
  exact foldl_flagStep_settle hc t.pend t.flags

theorem sameVirtual_settle (t : Team) (now : Nat) (h : ∀ e ∈ t.pend, e.w.Native) : Team.SameVirtual t (t.settle now) := by
  refine sameVirtual_applyAll t (ws := t.readyWrites now) fun w hw => ?_
  obtain ⟨e, he, rfl⟩ := List.mem_map.1 hw
  exact h e (List.mem_filter.1 he).1

/-! ### Values delivered -/

/-- A team's record with values written, and what was pending for their registers dropped (01 R20). -/
def Team.receive (t : Team) (ws : List RegWrite) : Team := { t.applyAll ws with pend := dropOlder t.pend ws }

theorem receive_frame (t : Team) (ws : List RegWrite) :
    t.receive ws = { t.withRegs (t.receive ws) with pend := (t.receive ws).pend } := by
  unfold Team.receive
  rw [applyAll_eq_withRegs]
  rfl

theorem gives_pickV_eq_some {w : RegWrite} {l r : Nat} {y : VReg} : RegWrite.gives pickV l r w = some y ↔ w = .v l r y := by
  cases w <;> simp [RegWrite.gives, pickV, and_assoc]

theorem delivered_receive (t : Team) (ws : List RegWrite) : Delivered t (t.receive ws) ws := by
  have read : ∀ cyc l r, r < virtualBase → (t.receive ws).readV cyc l r =
      readBy (RegWrite.gives pickV l r) cyc (writtenBy (RegWrite.gives pickV l r) (t.fileV l r) ws) (dropOlder t.pend ws) := by
    intro cyc l r hr
    rw [readV_readBy, ← fileV_applyAll t ws l r hr]
    rfl
  constructor
  · intro l r y hm hr agree cyc
    rw [read cyc l r hr]
    refine readBy_deliver_same (oneReg_pickV l r) ⟨_, hm, by rw [gives_pickV_eq_some.2 rfl]; rfl⟩ (fun w hw z hz => ?_) _ _ _
    exact agree z (gives_pickV_eq_some.1 hz ▸ hw)
  · intro l r hr hn cyc
    rw [read cyc l r hr, readV_readBy]
    refine readBy_deliver_other (oneReg_pickV l r) (fun w hw => Option.eq_none_iff_forall_ne_some.2 fun y hy => ?_) _ _ _
    exact hn y (gives_pickV_eq_some.1 hy ▸ hw)

theorem sameVirtual_receive (t : Team) {ws : List RegWrite} (h : ∀ w ∈ ws, w.Native) : Team.SameVirtual t (t.receive ws) :=
  sameVirtual_applyAll t h

end Sys2Proof.Machine
end

section
/-!
SUPPORT. The device's steps that write results, loads and atomics of a team (01 R18 to R23, 10 R188, 13 R243, R244): when they are due
and what they leave.
-/
namespace Sys2Proof.Machine

/-! ### The context of a step -/

theorem team?_of_ctx? {s : State} {gi ti : Nat} {x : Ctx} (h : ({ s with cur := some (gi, ti) } : State).ctx? = some x) :
    s.team? gi ti = some (x.g, x.t) := by
  obtain ⟨-, hg, -, hc, ht, -⟩ := ctx_spec h
  obtain rfl : gi = x.g.gid := Option.some.inj hc
  have hg : s.group? x.g.gid = some x.g := hg
  have ht : x.g.team? ti = some x.t := ht
  unfold State.team?
  rw [hg]
  simp [ht]

theorem ctxOf_of_ctx? {s : State} {gi ti : Nat} {x : Ctx} (h : ({ s with cur := some (gi, ti) } : State).ctx? = some x)
    (hg : x.g.status = .running) (ht : x.t.phase = .running) : s.ctxOf gi ti = some x := by
  have runs : s.runs gi ti (fun _ _ => true) = true := by
    unfold State.runs
    rw [team?_of_ctx? h]
    simp [hg, ht]
  unfold State.ctxOf
  rw [if_pos runs, h]

/-- What a step of the device on one team leaves: group `k` becomes `g` with the team's record `u`; every other group, every launch and all
else stands, and no team executes. -/
def StepLeaves (i : Instr) (s : State) (k : Nat) (g : Group) (u : Team) : Prop :=
  ∃ t, exec i s = .next t ∧ t = { s with groups := t.groups, launches := t.launches, cur := none } ∧ t.group? k = some (g.setTeam u) ∧
    (∀ j, j ≠ k → t.group? j = s.group? j) ∧ ∀ j, t.launch? j = s.launch? j

/-- A context written back by a step that changed only the team and its group's record. -/
theorem stepLeaves_commitStep {i : Instr} {s : State} {gi ti : Nat} {x y : Ctx} (h : ({ s with cur := some (gi, ti) } : State).ctx? = some x)
    (hi : exec i s = .next y.commitStep) (hs : y.s = x.s) (hl : y.l = x.l) (hg : y.g.gid = x.g.gid) :
    StepLeaves i s x.g.gid y.g y.t := by
  obtain ⟨es, eg, el, -⟩ := ctx_spec h
  have eg : s.group? x.g.gid = some x.g := eg
  have el : s.launch? x.l.id = some x.l := el
  have gid : (y.g.setTeam y.t).gid = x.g.gid := hg
  have saved : y.commitStep = { ((s.setGroup (y.g.setTeam y.t)).setLaunch x.l) with cur := none } := by
    unfold Ctx.commitStep Ctx.save
    rw [hs, hl, es]
    rfl
  rw [saved] at hi
  refine ⟨_, hi, rfl, ?_, fun k hk => ?_, fun k => ?_⟩
  · rw [← gid]
    exact group_setGroup_same s (y.g.setTeam y.t) (by rw [gid, eg]; rfl)
  · exact group_setGroup_other s (y.g.setTeam y.t) (gid ▸ hk)
  · exact launch_setLaunch_same (s.setGroup (y.g.setTeam y.t)) x.l el k

/-- Reads noted change nothing of the context but the set table of the group. -/
theorem noteReads_leaves {x y : Ctx} {new : List ReadEntry} (h : x.noteReads new = some y) :
    ∃ g, y = { x with g := g } ∧ g.gid = x.g.gid := by
  unfold Ctx.noteReads at h
  split at h
  · obtain ⟨g, hg, rfl⟩ := Option.map_eq_some_iff.1 h
    refine ⟨g, rfl, ?_⟩
    unfold Group.noteReads at hg
    dsimp only at hg
    split at hg
    · cases hg; rfl
    · cases hg
  · cases h; exact ⟨x.g, rfl, rfl⟩

/-! ### RESULT_READY -/

theorem exec_resultReady (gi ti : Nat) (s : State) : exec (.resultReady gi ti) s = execResultReady gi ti s := rfl

theorem resultReady_settles {s : State} {gi ti : Nat} {g : Group} {t : Team} (ht : s.team? gi ti = some (g, t))
    (hg : g.status = .running) (hp : t.phase = .running) (due : ∃ e, e ∈ t.pend ∧ e.ready ≤ s.clockOf g t) :
    exec (.resultReady gi ti) s = .next (s.setGroup (g.setTeam (t.settle (s.clockOf g t)))) := by
  have hd : s.resultDue gi ti = true := by
    unfold State.resultDue State.runs
    rw [ht]
    simpa [hg, hp] using due
  rw [exec_resultReady, execResultReady, hd]
  unfold State.when State.onTeam
  simp only [if_true, ht]

/-! ### LOAD_RETURN -/

theorem exec_loadReturn (gi ti : Nat) (path : Path) (lanes : LaneSet) (s : State) :
    exec (.loadReturn gi ti path lanes) s = execLoadReturn gi ti path lanes s := rfl

theorem loadReturn_of_returning {s : State} {gi ti : Nat} {path : Path} {x : Ctx} (h : s.returning gi ti path = some x) (lanes : LaneSet) :
    exec (.loadReturn gi ti path lanes) s = .next ({ x with t := x.t.deliver path lanes } : Ctx).commitStep := by
  rw [exec_loadReturn]
  unfold execLoadReturn
  rw [h]

theorem path_of_findIdx? {ls : List Load} {path : Path} {k : Nat} {l : Load} (hk : (ls.findIdx? fun m => m.path == path) = some k)
    (hl : ls[k]? = some l) : l.path = path := by
  obtain ⟨hlt, hp, -⟩ := List.findIdx?_eq_some_iff_getElem.1 hk
  obtain ⟨_, rfl⟩ := List.getElem?_eq_some_iff.1 hl
  simpa using hp

theorem find?_of_findIdx? {ls : List Load} {path : Path} {k : Nat} {l : Load} (hk : (ls.findIdx? fun m => m.path == path) = some k)
    (hl : ls[k]? = some l) : (ls.find? fun m => m.path == path) = some l := by
  obtain ⟨hlt, hp, before⟩ := List.findIdx?_eq_some_iff_getElem.1 hk
  obtain ⟨_, rfl⟩ := List.getElem?_eq_some_iff.1 hl
  exact List.find?_eq_some_iff_getElem.2 ⟨hp, k, hlt, rfl, fun j hj => by simpa using before j hj⟩

/-- The oldest load of a path is the first of its kind among the loads, so that it is the one erased. -/
theorem erase_of_findIdx? {ls : List Load} {path : Path} {k : Nat} {l : Load} (hk : (ls.findIdx? fun m => m.path == path) = some k)
    (hl : ls[k]? = some l) : ls.erase l = ls.eraseIdx k := by
  obtain ⟨hlt, hp, before⟩ := List.findIdx?_eq_some_iff_getElem.1 hk
  obtain ⟨_, rfl⟩ := List.getElem?_eq_some_iff.1 hl
  have first : ls.idxOf? ls[k] = some k := by
    refine List.idxOf?_eq_some_iff.2 ⟨hlt, rfl, fun j hj same => before j hj ?_⟩
    rwa [same]
  rw [List.erase_eq_eraseIdx, first]

/-- A load performed stays the oldest of its path. -/
theorem findIdx?_set {ls : List Load} {path : Path} {k : Nat} {l : Load} (hk : (ls.findIdx? fun m => m.path == path) = some k)
    (hl : l.path = path) : ((ls.set k l).findIdx? fun m => m.path == path) = some k := by
  obtain ⟨hlt, -, before⟩ := List.findIdx?_eq_some_iff_getElem.1 hk
  refine List.findIdx?_eq_some_iff_getElem.2 ⟨by simpa using hlt, by simp [hl], fun j hj => ?_⟩
  rw [List.getElem_set_ne (Nat.ne_of_gt hj)]
  exact before j hj

/-- The values of a performed load delivered in the lanes named; the load is over with its last lane. -/
theorem deliver_performed {t : Team} {path : Path} {k : Nat} {l : Load} (hk : (t.loads.findIdx? fun m => m.path == path) = some k)
    (hl : t.loads[k]? = some l) (hd : l.todo = []) (lanes : LaneSet) :
    t.deliver path lanes =
      let rest := l.ws.filter fun w => !lanes.getLsbD w.lane
      { t.receive (l.ws.filter fun w => lanes.getLsbD w.lane) with
        loads := (if rest = [] then [] else [{ path := path, dst := l.dst, todo := [], ws := rest }]) ++ t.loads.eraseIdx k } := by
  have hp : l.path = path := path_of_findIdx? hk hl
  unfold Team.deliver
  rw [find?_of_findIdx? hk hl]
  simp only [erase_of_findIdx? hk hl, Team.receive, List.isEmpty_iff]
  split
  · rfl
  · obtain ⟨p, d, todo, ws⟩ := l
    cases hp
    cases hd
    rfl

/-- What a team reads, and what else stands of its record, where the values of a performed load are delivered. -/
theorem deliver_spec {t : Team} {path : Path} {k : Nat} {l : Load} (hk : (t.loads.findIdx? fun m => m.path == path) = some k)
    (hl : t.loads[k]? = some l) (hd : l.todo = []) (lanes : LaneSet) :
    let u := t.deliver path lanes
    let rest := l.ws.filter fun w => !lanes.getLsbD w.lane
    Delivered t u (l.ws.filter fun w => lanes.getLsbD w.lane) ∧ ((∀ w, w ∈ l.ws → w.Native) → Team.SameVirtual t u) ∧
      u = { t.withRegs u with
        pend := u.pend
        loads := (if rest = [] then [] else [{ path := path, dst := l.dst, todo := [], ws := rest }]) ++ t.loads.eraseIdx k } := by
  dsimp only
  rw [deliver_performed hk hl hd lanes]
  refine ⟨delivered_receive t _, fun native => sameVirtual_receive t fun w hw => native w (List.mem_filter.1 hw).1, ?_⟩
  dsimp only
  rw [receive_frame]
  rfl

theorem loadReturn_leaves {s : State} {gi ti : Nat} {path : Path} {x z : Ctx}
    (hx : ({ s with cur := some (gi, ti) } : State).ctx? = some x) (hz : s.returning gi ti path = some z) (hs : z.s = x.s) (hl : z.l = x.l)
    (hg : z.g.gid = x.g.gid) (lanes : LaneSet) :
    StepLeaves (.loadReturn gi ti path lanes) s x.g.gid z.g (z.t.deliver path lanes) :=
  stepLeaves_commitStep (y := { z with t := z.t.deliver path lanes }) hx (loadReturn_of_returning hz lanes) hs hl hg

/-- A load that has been performed returns. -/
theorem returning_performed {s : State} {gi ti : Nat} {path : Path} {x : Ctx} {k : Nat} {l : Load} (hx : s.ctxOf gi ti = some x)
    (hk : (x.t.loads.findIdx? fun m => m.path == path) = some k) (hl : x.t.loads[k]? = some l) (hd : l.todo = []) :
    s.returning gi ti path = some x := by
  simp [State.returning, hx, hk, hl, hd]

/-- The values of a load, those still to be read taken now. -/
def Ctx.loadValues (x : Ctx) (l : Load) : List RegWrite := l.ws ++ l.todo.flatMap fun p => loadWrites p.lane p.r p.sx (x.partBytes p)

/-- A load that has not been performed is performed as it returns. -/
theorem returning_unperformed {s : State} {gi ti : Nat} {path : Path} {x y : Ctx} {k : Nat} {l : Load} (hx : s.ctxOf gi ti = some x)
    (hk : (x.t.loads.findIdx? fun m => m.path == path) = some k) (hl : x.t.loads[k]? = some l) (hd : l.todo ≠ [])
    (free : x.t.loadFree k = true) (served : x.loadServed k = true)
    (noted : x.noteReads ((l.todo.flatMap x.regionKeys).map fun a => .gran x.g.die (a / 64)) = some y) :
    s.returning gi ti path =
      some { y with t := { y.t with loads := y.t.loads.set k { l with todo := [], ws := x.loadValues l } } } := by
  simp [State.returning, Ctx.loadNow, Ctx.performLoad, Ctx.loadValues, hx, hk, hl, hd, free, served, noted]

/-- Each byte that a part of a load reads: its team's own where it had one at the issue, otherwise the storage's. -/
theorem partBytes_getElem? (x : Ctx) (p : LoadPart) {i : Nat} (h : i < p.own.length) :
    (x.partBytes p)[i]? = some (((p.own[i]?).getD none).getD (x.storeByte p.sp (p.a + i))) := by
  simp [Ctx.partBytes, h]

/-! ### ATOMIC_RETURN -/

theorem exec_atomicReturn (gi ti : Nat) (s : State) : exec (.atomicReturn gi ti) s = execAtomicReturn gi ti s := rfl

/-- An atomic that is served whole delivers its old values. -/
theorem atomicReturn_served {s : State} {gi ti : Nat} {x : Ctx} {q : AtomReq} {rest : List AtomReq} (hx : s.ctxOf gi ti = some x)
    (ha : x.t.atoms = q :: rest) (hq : q.todo = []) :
    exec (.atomicReturn gi ti) s = .next ({ x with t := { x.t.receive q.ws with atoms := rest } } : Ctx).commitStep := by
  have addrs : Ctx.atomAddrs q = [] := by simp [Ctx.atomAddrs, hq]
  have serving : s.serving gi ti = some x := by
    simp [State.serving, hx, ha, addrs, Ctx.headFlush, hq]
  rw [exec_atomicReturn]
  unfold execAtomicReturn
  rw [serving]
  simp only [Team.deliverAtomic, ha]
  rfl

end Sys2Proof.Machine
end

section
/-!
SUPPORT. The statements of the sequential machine settled: returns and results, and the state after module reset.
-/
namespace Sys2Proof.Machine

/-- Settles O32: what is settled or delivered reads as the pending results would have it (`readBy_settle`, `delivered_receive`), and each
step writes back a context in which only the team and its group's set table have changed (`stepLeaves_commitStep`). -/
theorem returns : Obligations.Returns := by
  unfold Obligations.Returns
  refine ⟨fun s gi ti g t ht hg hp => ?_, fun s gi ti x hx hg hp => ?_⟩
  · intro now due
    refine ⟨t.settle now, resultReady_settles ht hg hp due, settle_frame t now, fun e he => mem_settle_keep he,
      sameVirtual_settle t now, fun cyc hc => ⟨flagsAt_settle t hc, fun r => readS_settle t hc r, fun l r => readV_settle t hc l r,
        fun l r => readP_settle t hc l r⟩⟩
  · have hctx := ctxOf_of_ctx? hx hg hp
    refine ⟨fun path lanes k l hk hl => ⟨fun hd => ?_, fun y hd free served noted => ?_⟩, fun p i hi => ?_, fun q rest ha hq => ?_⟩
    · exact ⟨_, loadReturn_leaves hx (returning_performed hctx hk hl hd) rfl rfl rfl lanes, deliver_spec hk hl hd lanes⟩
    · have hz := returning_unperformed hctx hk hl hd free served noted
      obtain ⟨g, rfl, hgid⟩ := noteReads_leaves noted
      have hp : l.path = path := path_of_findIdx? hk hl
      obtain ⟨hlt, -⟩ := List.getElem?_eq_some_iff.1 hl
      obtain ⟨reads, virtual, frame⟩ := deliver_spec (t := { x.t with loads := x.t.loads.set k { l with todo := [], ws := x.loadValues l } })
        (findIdx?_set hk hp) (List.getElem?_set_self hlt) rfl lanes
      refine ⟨_, loadReturn_leaves hx hz rfl rfl hgid lanes, reads, virtual, frame.trans ?_⟩
      rw [List.eraseIdx_set_eq]
      rfl
    · rw [partBytes_getElem? x p hi]
      cases (p.own[i]?).getD none with
      | some b => rfl
      | none => cases p.sp <;> rfl
    · exact ⟨{ x.t.receive q.ws with atoms := rest },
        stepLeaves_commitStep (y := { x with t := { x.t.receive q.ws with atoms := rest } }) hx (atomicReturn_served hctx ha hq) rfl rfl rfl,
        delivered_receive x.t q.ws, sameVirtual_receive x.t, by rw [receive_frame]; rfl⟩

/-- Settles O60: each field is as `State.reset` writes it out; its memory and its slots list nothing, so that each of them reads as the
default of its map. -/
theorem resetState : Obligations.ResetState := by
  unfold Obligations.ResetState
  have memory : ∀ a, State.reset.mem.read a = 0#8 := Memory.read_nil
  have slot : ∀ i, State.reset.slotOf i = Slot.reset := Store.get_nil Slot.reset
  exact ⟨rfl, rfl, rfl, rfl, rfl, rfl, rfl, rfl, rfl, rfl, rfl, rfl, rfl, rfl, rfl, rfl, rfl, rfl, memory, rfl,
    fun i => congrArg Slot.point (slot i)⟩

end Sys2Proof.Machine
end

section
/-!
SUPPORT. The shapes of the floating-point and of the conversion class (06 R113 to R124): what each shape's lane function leaves, said once,
and the runs and packed fields of the conversions in the words of their statement.
-/
namespace Sys2Proof.Machine

/-! ### Floating-point instructions by their number of sources -/

section
variable {i : Instr} {x : Ctx} {o : VFlt} {size lat : Nat} (hx : x.s.ctx? = some x) (hg : x.Guarded o.h)
include hx hg

/-- An instruction of one source delivers `f` of its pattern. -/
theorem flt_un (f : Nat → Nat × Word) (hi : exec i x.s = x.each o.h size lat (x.fltUn o f)) :
    FltDone i x o size lat (fun l => f (o.ty.pat (x.v l o.a.toNat).val)) fun l => (x.v l o.a.toNat).poi :=
  lane_oneV hx hg hi

/-- An instruction of two sources delivers `f` of their patterns. -/
theorem flt_bin (f : Nat → Nat → Nat × Word) (hi : exec i x.s = x.each o.h size lat (x.fltBin o f)) :
    FltDone i x o size lat (fun l => f (o.ty.pat (x.v l o.a.toNat).val) (o.ty.pat (x.bFlt l o.ty false o.b).val))
      fun l => (x.v l o.a.toNat).poi || (x.bFlt l o.ty false o.b).poi :=
  lane_oneV hx hg hi

/-- An instruction of three sources delivers `f` of their patterns. -/
theorem flt_tern (f : Nat → Nat → Nat → Nat × Word) (hi : exec i x.s = x.each o.h size lat (x.fltTern o f)) :
    FltDone i x o size lat
      (fun l => f (o.ty.pat (x.v l o.a.toNat).val) (o.ty.pat (x.bFlt l o.ty false o.b).val) (o.ty.pat (x.v l o.c.toNat).val))
      fun l => (x.v l o.a.toNat).poi || (x.bFlt l o.ty false o.b).poi || (x.v l o.c.toNat).poi :=
  lane_oneV hx hg hi

/-- A packed form of two sources: both elements in one register, with the flags of both (06 R114). -/
theorem flt_packBin (f : Nat → Nat → Nat × Word) (hi : exec i x.s = x.each o.h size lat (x.packBin o f)) :
    let r := fun l j => f (half j (x.v l o.a.toNat).val) (half j (x.bFlt l o.ty true o.b).val)
    LaneDone i x o.h size lat
      (fun l => oneV o.d
        { val := BitVec.ofNat 32 ((r l 0).1 + (r l 1).1 * 65536)
          poi := (x.v l o.a.toNat).poi || (x.bFlt l o.ty true o.b).poi }) noP
      fun l => (r l 0).2 ||| (r l 1).2 :=
  lane_oneV hx hg hi

/-- A packed form of three sources. -/
theorem flt_packTern (f : Nat → Nat → Nat → Nat × Word) (hi : exec i x.s = x.each o.h size lat (x.packTern o f)) :
    let r := fun l j => f (half j (x.v l o.a.toNat).val) (half j (x.bFlt l o.ty true o.b).val) (half j (x.v l o.c.toNat).val)
    LaneDone i x o.h size lat
      (fun l => oneV o.d
        { val := BitVec.ofNat 32 ((r l 0).1 + (r l 1).1 * 65536)
          poi := (x.v l o.a.toNat).poi || (x.bFlt l o.ty true o.b).poi || (x.v l o.c.toNat).poi }) noP
      fun l => (r l 0).2 ||| (r l 1).2 :=
  lane_oneV hx hg hi

end

/-! ### Conversions -/

/-- An instruction that writes one register or one pair in each lane, as `wide` says (02 R29). -/
theorem lane_intWrites {i : Instr} {x : Ctx} {h : Head} {size lat : Nat} {wide : Bool} {d : BitVec 8} {y : Nat → SReg} {fl : Nat → Word}
    (hx : x.s.ctx? = some x) (hg : x.Guarded h)
    (hi : exec i x.s = x.each h size lat fun l => (Ctx.intWrites l wide d (y l).val (y l).poi, fl l)) :
    LaneDone i x h size lat
      (fun l => if wide then pairV d (y l) else oneV d { val := (y l).val.setWidth 32, poi := (y l).poi }) noP fl :=
  lane_done hx hg _ (fun _ => intWrites_lane _ _ _ _ _) hi (fun _ _ => (intWrites_newest _ _ _ _ _ _).symm)
    (fun _ _ => (intWrites_noP _ _ _ _ _ _).symm) fun _ => rfl

/-- The registers of a run of n in a lane. -/
def Ctx.runRegs (x : Ctx) (l : Nat) (r : BitVec 8) (n : Nat) : List VReg := (List.range n).map fun j => x.v l (r.toNat + j)

/-- What a conversion makes of the patterns of a run, from the registers of the run. -/
theorem run_map {β : Type} (x : Ctx) (l : Nat) (r : BitVec 8) (n : Nat) (f : Word → β) :
    (x.run l r n).1.map f = (x.runRegs l r n).map fun v => f v.val :=
  List.map_map

/-- Fields of `bits` bits in one register, in ascending order. -/
def packFields (bits : Nat) (vs : List Nat) : Word :=
  BitVec.ofNat 32 ((List.range vs.length).foldl (fun n j => n + (vs[j]?).getD 0 * 2 ^ (bits * j)) 0)

/-- The word that a conversion packs from what it makes of a run, a field being the image of a result under `g`. -/
theorem foldl_run_packFields {β : Type} (x : Ctx) (l : Nat) (r : BitVec 8) (n bits : Nat) (f : Word → β) (g : β → Nat) :
    BitVec.ofNat 32 ((List.range n).foldl (fun w j => w + ((((x.run l r n).1.map f)[j]?).map g).getD 0 * 2 ^ (bits * j)) 0) =
      packFields bits (((x.runRegs l r n).map fun v => f v.val).map g) := by
  have hn : (x.runRegs l r n).length = n := by simp [Ctx.runRegs]
  simp only [packFields, run_map, List.length_map, List.getElem?_map, hn]

section
variable {x : Ctx} {o : VCvt} (hx : x.s.ctx? = some x)
include hx

/-- qpack4 on the registers of its run (06 R123). -/
theorem exec_qpack4_packFields : exec (.qpack4 o) x.s = x.each o.h 8 6 fun l =>
    let b := x.b32 l o.b
    let r := (x.runRegs l o.a 8).map fun v => q4Quant (b.val.toNat % 256 / 64) (b.val.toNat % 256 % 64) v.val.toNat
    ([.v l o.d.toNat { val := packFields 4 (r.map Prod.fst), poi := (x.runRegs l o.a 8).any VReg.poi || b.poi }],
      orFlags (r.map Prod.snd)) := by
  refine (run_ctx hx _).trans ?_
  simp only [foldl_run_packFields]
  simp only [run_map]
  rfl

/-- scalepick on the registers of its run (06 R123). -/
theorem exec_scalepick_runRegs : exec (.scalepick o) x.s = x.each o.h 8 6 fun l =>
    let r := scalePick (o.c.toNat % 4) ((x.runRegs l o.a 32).map fun v => v.val.toNat)
    ([.v l o.d.toNat { val := BitVec.ofNat 32 r.1, poi := (x.runRegs l o.a 32).any VReg.poi }], r.2) := by
  refine (run_ctx hx _).trans ?_
  simp only [run_map]
  rfl

variable {src : Fmt} (hs : o.src = some src)
include hs

/-- cvt from a source format that its SRCC names (06 R122). -/
theorem exec_cvt_src : exec (.cvt o) x.s = x.each o.h 8 6 fun l =>
    let v := x.vAt l src.wide o.a
    let r := convertVal src o.fmt (x.mode o.rnd) v.val
    (Ctx.intWrites l o.fmt.wide o.d r.1 v.poi, r.2) := by
  refine (run_ctx hx _).trans ?_
  unfold laneCvt
  rw [hs]

/-- cvt8x4 on the registers of its run (06 R124). -/
theorem exec_cvt8x4_packFields : exec (.cvt8x4 o) x.s = x.each o.h 8 6 fun l =>
    let r := (x.runRegs l o.a 4).map fun v => convertVal src o.fmt .rna (v.val.setWidth 64)
    ([.v l o.d.toNat { val := packFields 8 (r.map fun q => q.1.toNat % 256), poi := (x.runRegs l o.a 4).any VReg.poi }],
      orFlags (r.map Prod.snd)) := by
  refine (run_ctx hx _).trans ?_
  simp only [hs, foldl_run_packFields]
  simp only [run_map]
  rfl

/-- cvtq on the four bytes of its source (06 R124). -/
theorem exec_cvtq_src : exec (.cvtq o) x.s = x.each o.h 8 6 fun l =>
    let a := x.v l o.a.toNat
    let r := (List.range 4).map fun j => convertVal src o.fmt .rne (BitVec.ofNat 64 (a.val.toNat / 2 ^ (8 * j) % 256))
    (Ctx.runWrites l o.d a.poi (r.map fun q => q.1.setWidth 32), orFlags (r.map Prod.snd)) := by
  refine (run_ctx hx _).trans ?_
  rw [hs]

end

end Sys2Proof.Machine
end

section
/-!
SUPPORT. The statements of the floating-point and conversion classes settled.
-/
namespace Sys2Proof.Machine

/-- Settles O4: each instruction is of one of the shapes above, with the operation that it delivers. -/
theorem floatArithmetic : Obligations.FloatArithmetic := by
  unfold Obligations.FloatArithmetic
  intro x o hx hg
  let f := o.ty.ff
  let m := x.mode o.rnd
  refine ⟨?fadd, ?fsub, ?fmul, ?ffma, ?fmin, ?fmax, ?fabs, ?fneg, ?fclass, ?frcp, ?fsqrt, ?frsq, ?fexp2, ?flog2, ?fsin, ?fcos, ?ftanh,
    ?fcmp, ?hadd2, ?hmul2, ?hfma2, ?pchk⟩
  case fadd => exact flt_bin hx hg (f.add m) (run_ctx hx _)
  case fsub => exact flt_bin hx hg (f.sub m) (run_ctx hx _)
  case fmul => exact flt_bin hx hg (f.mul m) (run_ctx hx _)
  case ffma => exact flt_tern hx hg (f.fma m) (run_ctx hx _)
  case fmin => exact flt_bin hx hg (f.minmax true) (run_ctx hx _)
  case fmax => exact flt_bin hx hg (f.minmax false) (run_ctx hx _)
  case fabs => exact flt_un hx hg (fun a => (a % f.signBit, 0#32)) (run_ctx hx _)
  case fneg => exact flt_un hx hg (fun a => (f.negate a, 0#32)) (run_ctx hx _)
  case fclass => exact flt_un hx hg (fun a => (f.classify a, 0#32)) (run_ctx hx _)
  case frcp => exact flt_un hx hg (frcpBits m) (run_ctx hx _)
  case fsqrt => exact flt_un hx hg (fsqrtBits m) (run_ctx hx _)
  case frsq => exact flt_un hx hg frsqBits (run_ctx hx _)
  case fexp2 => exact flt_un hx hg fexp2Bits (run_ctx hx _)
  case flog2 => exact flt_un hx hg flog2Bits (run_ctx hx _)
  case fsin => exact flt_un hx hg (ftrigBits false) (run_ctx hx _)
  case fcos => exact flt_un hx hg (ftrigBits true) (run_ctx hx _)
  case ftanh => exact flt_un hx hg ftanhBits (run_ctx hx _)
  case fcmp => exact lane_oneP hx hg (run_ctx hx _)
  case hadd2 => exact flt_packBin hx hg (f.add m) (run_ctx hx _)
  case hmul2 => exact flt_packBin hx hg (f.mul m) (run_ctx hx _)
  case hfma2 => exact flt_packTern hx hg (f.fma m) (run_ctx hx _)
  case pchk => exact lane_oneP hx hg (run_ctx hx _)

/-- Settles O5: a run of sources gives its values register by register (`run_map`), and what is packed from it is one word of fields
(`foldl_run_packFields`). That an i4 source converts to a float target is the model's reading (notes/assumptions/50.md, DEDUCED). -/
theorem conversions : Obligations.Conversions := by
  unfold Obligations.Conversions
  intro x o hx hg
  refine ⟨?cvt, ?qpack4, ?qunpack4, ?scalepick, ?cvt8x4, ?cvtq⟩
  case cvt => exact fun src hs => lane_intWrites hx hg (exec_cvt_src hx hs)
  case qpack4 => exact lane_oneV hx hg (exec_qpack4_packFields hx)
  case qunpack4 => exact lane_run hx hg (run_ctx hx _)
  case scalepick => exact lane_oneV hx hg (exec_scalepick_runRegs hx)
  case cvt8x4 => exact fun src hs => lane_oneV hx hg (exec_cvt8x4_packFields hx hs)
  case cvtq => exact fun src hs => lane_run hx hg (exec_cvtq_src hx hs)

end Sys2Proof.Machine
end
